-- ==== Sys2Proof/Word.lean ====
section
/-! DEFINITION. The word types of the machine and the one sparse table type that its memories and register
files use. A table lists the entries that differ from a default value, by rising key, so that equal tables are
equal lists. -/

namespace Sys2Proof

abbrev Byte := BitVec 8
abbrev W16 := BitVec 16
abbrev W32 := BitVec 32
abbrev W64 := BitVec 64
/-- One bit per logical lane (R54: masks are 48 bits). -/
abbrev Lanes := BitVec 48

/-- A sparse table: (key, value) pairs by rising key, no value equal to the table's default. -/
abbrev Tab (α : Type) := List (Nat × α)

namespace Tab

variable {α : Type}

/-- The value of key `k`; `dv` where the table lists none. -/
def get (t : Tab α) (k : Nat) (dv : α) : α :=
  match t with
  | [] => dv
  | (j, v) :: r => if j = k then v else get r k dv

/-- The table without key `k`. -/
def erase (t : Tab α) (k : Nat) : Tab α := t.filter (fun e => e.1 != k)

/-- The table with `k` put in its place by rising key (used where `k` is not listed). -/
def insert (t : Tab α) (k : Nat) (v : α) : Tab α :=
  match t with
  | [] => [(k, v)]
  | (j, w) :: r => if k < j then (k, v) :: (j, w) :: r else (j, w) :: insert r k v

/-- The table with `k` holding `v`; writing the default value `dv` removes the entry. -/
def set [DecidableEq α] (t : Tab α) (k : Nat) (v dv : α) : Tab α :=
  if v = dv then erase t k else insert (erase t k) k v

/-- `k` holds `f` of what it held. -/
def upd [DecidableEq α] (t : Tab α) (k : Nat) (dv : α) (f : α → α) : Tab α :=
  set t k (f (get t k dv)) dv

/-- Canonical form: keys strictly rising, no default value listed. -/
def wf [DecidableEq α] (t : Tab α) (dv : α) : Bool :=
  match t with
  | [] => true
  | (j, v) :: r => (v != dv) && r.all (fun e => j < e.1) && wf r dv

end Tab

/-- The lanes of a wave, in ascending logical lane order (R28). -/
def allLanes : List Nat := List.range 48

/-- Bit `L` of a mask. -/
abbrev laneIn (m : Lanes) (L : Nat) : Bool := m.getLsbD L

/-- The lanes of a mask, ascending. -/
def lanesOf (m : Lanes) : List Nat := allLanes.filter (fun L => m.getLsbD L)

/-- The mask with bit `L` set to `b`. -/
def setLane (m : Lanes) (L : Nat) (b : Bool) : Lanes :=
  if b then m ||| BitVec.ofNat 48 (2 ^ L) else m &&& ~~~ (BitVec.ofNat 48 (2 ^ L))

/-- The mask of the lanes below 48 at which `f` holds. -/
def maskOf (f : Nat → Bool) : Lanes :=
  allLanes.foldl (fun m L => if f L then m ||| BitVec.ofNat 48 (2 ^ L) else m) 0

/-- The number of lanes of a mask. -/
def countLanes (m : Lanes) : Nat := (lanesOf m).length

end Sys2Proof
end

