-- ==== Sys2Proof/Machine/Number.lean ====
section
/-! DEFINITION. Number formats and rounding (04): the floating formats, exact arithmetic on their values, the five
rounding modes, the Q4 family, and the exact sums of the matrix units. Nothing here reads the machine's state. -/

namespace Sys2Proof.Machine

/-- A floating value read exactly (R7): NaN, an infinity, or ± m × 2^e. Zero is m = 0, with its sign. -/
inductive FVal where
  | nan
  | inf (neg : Bool)
  | fin (neg : Bool) (m : Nat) (e : Int)
  deriving DecidableEq, Repr

/-- A floating format (R80): fraction bits, exponent bits, bias, and whether its top exponent codes infinities. -/
structure FFmt where
  frac : Nat
  ebits : Nat
  bias : Int
  infs : Bool
  deriving DecidableEq, Repr

def fp32 : FFmt := ⟨23, 8, 127, true⟩
def fp16 : FFmt := ⟨10, 5, 15, true⟩
def bf16 : FFmt := ⟨7, 8, 127, true⟩
def e4m3 : FFmt := ⟨3, 4, 7, false⟩
def e5m2 : FFmt := ⟨2, 5, 15, true⟩

/-- The sign bit's place. -/
def FFmt.signBit (f : FFmt) : Nat := f.frac + f.ebits

/-- The code of the largest finite magnitude (R80). -/
def FFmt.maxCode (f : FFmt) : Nat :=
  if f.infs then (2 ^ f.ebits - 1) * 2 ^ f.frac - 1 else 2 ^ f.signBit - 2

/-- The code of +infinity, where the format has one. -/
def FFmt.infCode (f : FFmt) : Nat := (2 ^ f.ebits - 1) * 2 ^ f.frac

/-- The canonical NaN (R80). -/
def FFmt.nanCode (f : FFmt) : Nat :=
  if f.infs then f.infCode + 2 ^ (f.frac - 1) else 2 ^ f.signBit - 1

/-- The exponent of the least subnormal. -/
def FFmt.qmin (f : FFmt) : Int := 1 - f.bias - f.frac

/-- A code with a sign. -/
def FFmt.withSign (f : FFmt) (neg : Bool) (mag : Nat) : Nat := mag + neg.toNat * 2 ^ f.signBit

/-- The value of a code (R80, R81). -/
def FFmt.value (f : FFmt) (code : Nat) : FVal :=
  let neg := code.testBit f.signBit
  let e := (code / 2 ^ f.frac) % 2 ^ f.ebits
  let m := code % 2 ^ f.frac
  if f.infs && e == 2 ^ f.ebits - 1 then (if m == 0 then .inf neg else .nan)
  else if !f.infs && e == 2 ^ f.ebits - 1 && m == 2 ^ f.frac - 1 then .nan
  else if e == 0 then .fin neg m f.qmin
  else .fin neg (m + 2 ^ f.frac) (f.qmin + (e : Int) - 1)

/-- Is a code subnormal? -/
def FFmt.subnormal (f : FFmt) (code : Nat) : Bool :=
  (code / 2 ^ f.frac) % 2 ^ f.ebits == 0 && code % 2 ^ f.frac != 0

/-- An input code under FTZ: a subnormal is read as zero of its sign (R93). -/
def FFmt.flush (f : FFmt) (ftz : Bool) (code : Nat) : Nat :=
  if ftz && f.subnormal code then f.withSign (code.testBit f.signBit) 0 else code

/-- The rounding modes (R90); stochastic rounding carries ρ and k (R96). -/
inductive RMode where
  | rne | rz | ru | rd
  | rs (rho k : Nat)
  deriving DecidableEq, Repr

/-- Does a magnitude between `n` and `n + 1` quanta, `rem` of `2^sh` above `n`, round away from zero (R90, R96)? -/
def roundsUp (mode : RMode) (neg : Bool) (n rem sh : Nat) : Bool :=
  rem != 0 &&
  match mode with
  | .rne => decide (2 * rem > 2 ^ sh) || (2 * rem == 2 ^ sh && n % 2 == 1)
  | .rz => false
  | .ru => !neg
  | .rd => neg
  | .rs rho k => decide (rem * 2 ^ k + rho * 2 ^ sh ≥ 2 ^ (sh + k))

/-- m × 2^e in quanta of 2^q, rounded under a mode. -/
def roundQuanta (mode : RMode) (neg : Bool) (m : Nat) (e q : Int) : Nat :=
  if q ≤ e then m * 2 ^ (e - q).toNat
  else
    let sh := (q - e).toNat
    let n := m / 2 ^ sh
    n + (roundsUp mode neg n (m % 2 ^ sh) sh).toNat

/-- What a magnitude beyond the largest finite value becomes (R91), as a code. -/
def FFmt.overflow (f : FFmt) (mode : RMode) (neg : Bool) : Nat :=
  let toLargest := match mode with
    | .rz => true
    | .ru => neg
    | .rd => !neg
    | _ => false
  if toLargest then f.withSign neg f.maxCode
  else if f.infs then f.withSign neg f.infCode
  else f.nanCode

/-- `Round` (R9): the code of an exact value in a format, under a mode, with saturation (R92) and FTZ (R93). -/
def FFmt.round (f : FFmt) (mode : RMode) (sat ftz : Bool) (x : FVal) : Nat :=
  match x with
  | .nan => f.nanCode
  | .inf neg =>
    if sat then f.withSign neg f.maxCode
    else if f.infs then f.withSign neg f.infCode else f.nanCode
  | .fin neg m e =>
    if m = 0 then f.withSign neg 0
    else
      let q := max ((m.log2 : Int) + e - f.frac) f.qmin
      let n := roundQuanta mode neg m e q
      let code := (q - f.qmin).toNat * 2 ^ f.frac + n
      if code > f.maxCode then
        if sat then f.withSign neg f.maxCode else f.overflow mode neg
      else if ftz && code < 2 ^ f.frac then f.withSign neg 0
      else f.withSign neg code

/-- Exact negation. -/
def FVal.neg : FVal → FVal
  | .nan => .nan
  | .inf s => .inf !s
  | .fin s m e => .fin (!s) m e

/-- The exact sum; `rd` says whether an exact zero of opposite signs is −0 (R94). -/
def FVal.add (rd : Bool) (a b : FVal) : FVal :=
  match a, b with
  | .nan, _ => .nan
  | _, .nan => .nan
  | .inf s, .inf t => if s = t then .inf s else .nan
  | .inf s, _ => .inf s
  | _, .inf t => .inf t
  | .fin s m e, .fin t n f =>
    let g := min e f
    let x : Int := (if s then -1 else 1) * ((m * 2 ^ (e - g).toNat : Nat) : Int)
    let y : Int := (if t then -1 else 1) * ((n * 2 ^ (f - g).toNat : Nat) : Int)
    let z := x + y
    if z = 0 then .fin (if s = t then s else rd) 0 0
    else .fin (decide (z < 0)) z.natAbs g

/-- The exact product (R94). -/
def FVal.mul (a b : FVal) : FVal :=
  match a, b with
  | .nan, _ => .nan
  | _, .nan => .nan
  | .inf s, .inf t => .inf (s != t)
  | .inf s, .fin t n _ => if n = 0 then .nan else .inf (s != t)
  | .fin s m _, .inf t => if m = 0 then .nan else .inf (s != t)
  | .fin s m e, .fin t n f => .fin (s != t) (m * n) (e + f)

/-- Is a mode RD (which makes an exact zero sum −0)? -/
def RMode.isRd : RMode → Bool
  | .rd => true
  | _ => false

/-- Numeric order: −0 equals +0, and NaN compares with nothing. -/
def FVal.lt (a b : FVal) : Bool :=
  match a, b with
  | .nan, _ => false
  | _, .nan => false
  | .inf s, .inf t => s && !t
  | .inf s, .fin _ _ _ => s
  | .fin _ _ _, .inf t => !t
  | .fin s m e, .fin t n f =>
    let g := min e f
    let x : Int := (if s then -1 else 1) * ((m * 2 ^ (e - g).toNat : Nat) : Int)
    let y : Int := (if t then -1 else 1) * ((n * 2 ^ (f - g).toNat : Nat) : Int)
    decide (x < y)

def FVal.isNan : FVal → Bool
  | .nan => true
  | _ => false

/-- Numeric equality (R207): +0 = −0, false if either is NaN. -/
def FVal.eqv (a b : FVal) : Bool := !a.isNan && !b.isNan && !a.lt b && !b.lt a

def FVal.isNeg : FVal → Bool
  | .nan => false
  | .inf s => s
  | .fin s _ _ => s

/-- `min` and `max` on codes (R94): −0 is below +0; with one NaN the other operand; with two the canonical NaN. -/
def FFmt.minmax (f : FFmt) (isMax : Bool) (a b : Nat) : Nat :=
  let x := f.value a
  let y := f.value b
  if x.isNan then (if y.isNan then f.nanCode else b)
  else if y.isNan then a
  else
    let aLess := x.lt y || (!y.lt x && x.isNeg && !y.isNeg)
    if aLess == isMax then b else a

/-- An exact value rounded to an integer under a mode (R95); NaN is none, an infinity keeps its sign. -/
def roundInt (mode : RMode) (neg : Bool) (m : Nat) (e : Int) : Int :=
  let n := roundQuanta mode neg m e 0
  if neg then -(n : Int) else n

/-- An integer clamped to a range. -/
def clampInt (lo hi v : Int) : Int := if v < lo then lo else if v > hi then hi else v

/-- Floating to integer (R95): NaN gives 0, everything else saturates to [lo, hi]. -/
def toIntClamped (mode : RMode) (lo hi : Int) (x : FVal) : Int :=
  match x with
  | .nan => 0
  | .inf neg => if neg then lo else hi
  | .fin neg m e => clampInt lo hi (roundInt mode neg m e)

/-- An integer as an exact value. -/
def FVal.ofInt (v : Int) : FVal := .fin (decide (v < 0)) v.natAbs 0

/-! ### The Q4 family (R85 to R87) -/

/-- The magnitudes of a code type, in eighths, by bits [2:0] of the code (R85; type 00 is by value). -/
def q4mags (t : Nat) : List Nat :=
  match t with
  | 1 => [0, 4, 8, 12, 16, 24, 32, 48]
  | 2 => [0, 1, 2, 4, 8, 16, 32, 64]
  | _ => [0, 8, 16, 24, 32, 48, 64, 96]

/-- decode(type, code) in eighths, with its sign (R85). Code 0 of type 00 counts as +0 where R104 asks for a sign (assumption 131). -/
def q4code (t code : Nat) : Bool × Nat :=
  if t = 0 then (if code < 8 then (false, code * 8) else (true, (16 - code) * 8))
  else (decide (code ≥ 8), (q4mags t).getD (code % 8) 0)

/-- The element of a code under a row scale byte and a column scale byte (R86). -/
def q4value (row col code : Nat) : FVal :=
  let er := row % 64
  if er = 63 ∨ col = 255 then .nan
  else
    let (s, m) := q4code (row / 64) code
    .fin s m ((er : Int) - 31 + (col : Int) - 127 - 3)

/-- A magnitude `y`/`d` (in eighths) rounded into rising magnitudes: the index of the result. Above the last, the last. -/
def q4pick (mode : RMode) (neg : Bool) (mags : List Nat) (i y d : Nat) : Nat :=
  match mags with
  | [] => i
  | [_] => i
  | lo :: hi :: rest =>
    if y ≥ hi * d then q4pick mode neg (hi :: rest) (i + 1) y d
    else
      let rem := y - lo * d
      let w := (hi - lo) * d
      let up := rem != 0 &&
        match mode with
        | .rne => decide (2 * rem > w) || (2 * rem == w && i % 2 == 1)
        | .rz => false
        | .ru => !neg
        | .rd => neg
        | .rs rho k => decide (rem * 2 ^ k + rho * w ≥ w * 2 ^ k)
      if up then i + 1 else i

/-- An FP32 value encoded as a Q4 code (R87). -/
def q4encode (mode : RMode) (row col : Nat) (x : FVal) : Nat :=
  let er := row % 64
  let t := row / 64
  if er = 63 ∨ col = 255 then 0
  else
    match x with
    | .nan => 0
    | .inf neg => if t = 0 then (if neg then 8 else 7) else (if neg then 15 else 7)
    | .fin neg m e =>
      let f : Int := e + 31 - er + 127 - col
      if t = 0 then
        let v := clampInt (-8) 7 (roundInt mode neg m f)
        (if v < 0 then v + 16 else v).toNat
      else
        let g := f + 3
        let y := if 0 ≤ g then m * 2 ^ g.toNat else m
        let d := if 0 ≤ g then 1 else 2 ^ (-g).toNat
        q4pick mode neg (q4mags t) 0 y d + neg.toNat * 8

/-! ### Element formats by code (R110) -/

/-- The floating format of element codes 1 to 4 (R110) and 8 (R275). -/
def elemFmt (code : Nat) : FFmt :=
  match code with
  | 1 => bf16
  | 2 => fp16
  | 3 => e4m3
  | 4 => e5m2
  | _ => fp32

/-- The size of an element of a format code (R110, R275). -/
def elemSize (code : Nat) : Nat :=
  match code with
  | 1 => 2
  | 2 => 2
  | 8 => 4
  | 9 => 4
  | _ => 1

/-- A stored element read exactly: floats by format, INT8 (5) and INT32 (9) as two's complement. -/
def elemValue (code raw : Nat) : FVal :=
  match code with
  | 5 => .ofInt (BitVec.ofNat 8 raw).toInt
  | 9 => .ofInt (BitVec.ofNat 32 raw).toInt
  | c => (elemFmt c).value raw

/-! ### Matrix sums (R103, R104) -/

/-- What a run of exact products holds: a NaN or 0 × ∞, infinities of either sign, the finite sum in units of 2^e, and
whether every product so far was −0. -/
structure DotAcc where
  nan : Bool := false
  pinf : Bool := false
  ninf : Bool := false
  sum : Int := 0
  exp : Int := 0
  negz : Bool := true
  deriving DecidableEq, Repr

def DotAcc.push (a : DotAcc) (p : FVal) : DotAcc :=
  match p with
  | .nan => { a with nan := true }
  | .inf s => if s then { a with ninf := true, negz := false } else { a with pinf := true, negz := false }
  | .fin s m e =>
    let g := min a.exp e
    let x : Int := (if s then -1 else 1) * ((m * 2 ^ (e - g).toNat : Nat) : Int)
    { a with sum := a.sum * ((2 ^ (a.exp - g).toNat : Nat) : Int) + x, exp := g,
             negz := a.negz && (m == 0 && s) }

/-- The exact sum S of R104. -/
def DotAcc.total (a : DotAcc) : FVal :=
  if a.nan || (a.pinf && a.ninf) then .nan
  else if a.pinf then .inf false
  else if a.ninf then .inf true
  else if a.sum = 0 then .fin a.negz 0 0
  else .fin (decide (a.sum < 0)) a.sum.natAbs a.exp

/-- The exact sum of products of two rows of elements. -/
def dotSum (xs ys : List FVal) : FVal :=
  ((xs.zip ys).foldl (fun a p => DotAcc.push a (p.1.mul p.2)) ({} : DotAcc)).total

/-- The sum S of one dot group of products of elements of a format (R103, R104): for INT8 (code 5) it is an integer, whose
zero has no sign. -/
def groupSum (fmt : Nat) (xs ys : List FVal) : FVal :=
  match dotSum xs ys with
  | .fin sgn m e => .fin (sgn && !(fmt == 5 && m == 0)) m e
  | v => v

/-- One dot group added to an accumulator element: x := Round(x + S, FP32, RNE) (R103). -/
def dotStep (x : W32) (s : FVal) : W32 :=
  BitVec.ofNat 32 (fp32.round .rne false false ((fp32.value x.toNat).add false s))

/-! ### FP32 operations on codes -/

/-- Round(a + b) of two codes in one format. -/
def FFmt.addC (f : FFmt) (mode : RMode) (sat ftz : Bool) (a b : Nat) : Nat :=
  f.round mode sat ftz ((f.value (f.flush ftz a)).add mode.isRd (f.value (f.flush ftz b)))

/-- Round(a − b). -/
def FFmt.subC (f : FFmt) (mode : RMode) (sat ftz : Bool) (a b : Nat) : Nat :=
  f.round mode sat ftz ((f.value (f.flush ftz a)).add mode.isRd (f.value (f.flush ftz b)).neg)

/-- Round(a × b). -/
def FFmt.mulC (f : FFmt) (mode : RMode) (sat ftz : Bool) (a b : Nat) : Nat :=
  f.round mode sat ftz ((f.value (f.flush ftz a)).mul (f.value (f.flush ftz b)))

/-- Round(a × b + c), one rounding; `sub` takes − c. -/
def FFmt.fmaC (f : FFmt) (mode : RMode) (sat ftz sub : Bool) (a b c : Nat) : Nat :=
  let z := f.value (f.flush ftz c)
  f.round mode sat ftz
    (((f.value (f.flush ftz a)).mul (f.value (f.flush ftz b))).add mode.isRd (if sub then z.neg else z))

/-- FP32 addition of engines and memory: RNE, never flushed (R108). -/
def fadd32 (a b : W32) : W32 := BitVec.ofNat 32 (fp32.addC .rne false false a.toNat b.toNat)

/-- Two packed BF16 additions of memory (R233). -/
def faddBf2 (a b : W32) : W32 :=
  let lo := bf16.addC .rne false false (a.toNat % 65536) (b.toNat % 65536)
  let hi := bf16.addC .rne false false (a.toNat / 65536) (b.toNat / 65536)
  BitVec.ofNat 32 (lo + hi * 65536)

def fmin32 (a b : W32) : W32 := BitVec.ofNat 32 (fp32.minmax false a.toNat b.toNat)
def fmax32 (a b : W32) : W32 := BitVec.ofNat 32 (fp32.minmax true a.toNat b.toNat)

end Sys2Proof.Machine
end

