-- ==== Sys2Proof/Config.lean ====
section
/-! DEFINITION. What one module fixes (its fuses and its stored certificate) and the values the spec leaves
open. A free value is an opaque constant: nothing can evaluate it and no proof can rest on one. -/

namespace Sys2Proof.Config

/-- STEPN of DEVID (R2): 0 is stepping B0, 1 is B1; both behave alike (R1). DESIGN CHOICE (assumption 1). -/
def stepn : Nat := 0

/-- SKIPROW of a die (R411): the physical row that column c does not use. DESIGN CHOICE (assumption 2): no
failed tile, so every column leaves out row 12. -/
def fuseSkip (_die : Nat) : W64 := 0xCCCCCCCCCCCC

/-- The HOLES words of a die (R411). DESIGN CHOICE (assumption 2): no holes. -/
def fuseHoles (_die _word : Nat) : W64 := 0

/-- Word `i` of FWKEYHASH (R476), a fuse hash. DESIGN CHOICE (assumption 3): the spec names no key. -/
def fwKeyHash (_i : Nat) : W64 := 0

/-- Word `i` of OWNKEYHASH (R476): zero when unset. -/
def ownKeyHash (_i : Nat) : W64 := 0

/-- The fuse seed of a segment, by identity index (R447). Free value (assumption 4). -/
opaque fuseSeed : Nat → List Byte

/-- The secret number that a signer draws for one signature: identity index, message. Free value (assumption 4). -/
opaque signNonce : Nat → List Byte → Nat

/-- The module's serial number, and the keys that its package certificate lists (R448). Free values (assumption 4). -/
opaque certSerial : List Byte
opaque certKeys : List (List Byte)

/-- The encoding of an X.509 v3 certificate that Smirek's device CA signs: PART, STEPL, STEPN, serial number, the keys of its extension
(R448). Free value (assumption 4). -/
opaque certDer : Nat → Nat → Nat → List Byte → List (List Byte) → List Byte

/-- The certificates from the device CA's to Smirek's root, which slot 0 holds after the package certificate (R448). Free value
(assumption 4). -/
opaque certChain : List Byte

/-- Does a certificate with its chain verify (R449, R454)? Free value (assumption 4). -/
opaque chainVerifies : List Byte → Bool

/-- The 512-bit AES-256-XTS key and the 256-bit MAC key that the random generator makes for the n-th key created (R455). Free values
(assumption 5). -/
opaque xtsKey : Nat → List Byte
opaque macKey : Nat → List Byte

/-- The truncated GMAC under a MAC key of a line's ciphertext and physical address (R456, which names no initial value). Free value
(assumption 5). -/
opaque gmac : List Byte → List Byte → Nat → BitVec 64

/-- Which of 32 unequal leaf entries translates an access (R384). Free value (assumption 6). -/
opaque pick128 : Nat → Nat

/-- Does a walk use the entry that the walk cache holds of a table, though memory holds another (R386: until the invalidation protocol has
run, either)? Clk, VA, level. Free value (assumption 100). -/
opaque oldEntry : Nat → Nat → Nat → Bool

/-- The place of element `e` of copy job `n` among the writes of that job (R276 orders no two of them): the elements are written
by rising rank. Free value (assumption 7). -/
opaque copyRank : Nat → Nat → Nat

/-- Is element `e` of copy or chain job `n` read before the job's own writes to it (R276)? Free value (assumption 7). -/
opaque readBefore : Nat → Nat → Bool

/-- DST and the reason of the drop-log entry of a message whose destination is no core or no context of the partition: R325 has
it logged, R420 names neither. Destination word, context number. Free values (assumption 13). -/
opaque dropDst : Nat → Nat → BitVec 14
opaque dropReason : Nat → Nat → BitVec 4

/-- A reply word of a service batch whose slot the drone's context does not map (R332 takes it from there): VA. Free value
(assumption 14). -/
opaque svcReply : Nat → BitVec 32

/-- One less than the scratchpad banks of world 0 on a split tile, modulo 15: the chanter gives each bank to a world (R115). Free value
(assumption 15). -/
opaque splitBanks : Nat → Nat → Nat

/-- The code of DRONE_BAD where the drone record cannot be read (0) or breaks a limit of R406 alone (1): R408 gives the R31 code, and
R31 has none for these. Free value (assumption 16). -/
opaque droneBadCode : Nat → BitVec 8

/-- CODE and DETAIL of the error-log entry of a store that is lost (R445 has it logged, R463 names no code for it): address. Free
values (assumption 18). -/
opaque lostCode : Nat → BitVec 16
opaque lostDetail : Nat → BitVec 48

/-- The random bytes that an SPDM response carries: LD, count (R451 leaves the standard's nonce open). Free values (assumption 23). -/
opaque spdmNonce : Nat → Nat → List Byte

/-- The parts of SPDM responses that R451 leaves to the standard and to the implementation: the capability flags and sizes after
CTExponent, and the four bytes that name ECDSA over brainpoolP384r1 among the extended algorithms. Free values (assumption 23). -/
opaque spdmFlags : List Byte
opaque spdmCurve : List Byte

/-- What an event adds to a counter of a source whose events the model does not follow (R482: register-cache and instruction-cache misses,
corrected errors, the flits of the mesh and of the edge): counter register, clk. Free value (assumption 30). -/
opaque eventCount : Nat → Nat → Nat

/-- How long, in clk, a signed SPDM response takes (R451 bounds it by 2^20 µs). Free value (assumption 23). -/
opaque spdmDelay : Nat → Nat

/-- Which of the steps that other agents could take comes next, by the count of such choices: the spec orders agents no further than its
rules do. A value past the last step passes the turn to the waves. Free value (assumption 24). -/
opaque pickStep : Nat → Nat

/-- The L2 slice of a die that holds a line, as a tile number modulo 144 (R427 names the slice of a tile, no rule says which lines it
holds): die, line. Free value (assumption 21). -/
opaque sliceOf : Nat → Nat → Nat

/-- Has the L2 slice of a tile room for a line of an image (R79): die, tile, line? Free value (assumption 21). -/
opaque sliceRoom : Nat → Nat → Nat → Bool

/-- What the special registers that name a partition's core or a graded quarter (`vcid`, `dieid`, `grade`) read on a
rim core, which has none of these: core, register number. Free value (assumption 10). -/
opaque rimValue : Nat → Nat → BitVec 64

/-- How long a copy of a word lives in an L1 or an L2, in clk: R131 makes every write visible within finite time and gives no bound.
Free value (assumption 29). -/
opaque copyLife : Nat

/-- Which lane clusters a quarter of grade 3 or 2 lacks: die, tile, quarter (R23: never visible). Free value (assumption 96). -/
opaque missingClusters : Nat → Nat → Nat → Nat

end Sys2Proof.Config
end

