-- ==== Sys2Proof/Syntax.lean ====
section
/-! DEFINITION. The instruction set as one inductive: one constructor per row of the opcode table. An encoded
instruction carries its header (chain bit and bound extension words, R161) and the fields its row names; a step of
another agent (a row without bits) carries the data that says which step it is, and what the spec leaves to the outside
world. -/

namespace Sys2Proof

/-- A modifier word's fields (R169). -/
structure Mod where
  k : BitVec 3
  p : BitVec 3
  pn : Bool
  rnd : BitVec 3
  sat : Bool
  ec : Bool
  c : BitVec 6
  deriving DecidableEq, Repr

/-- What every instruction carries beside its own fields: its chain bit, and the modifier and immediate words bound
to it (R161, R168, R169). -/
structure Hdr where
  chain : Bool := false
  modw : Option Mod := none
  imm : Option (BitVec 25) := none
  deriving DecidableEq, Repr

/-- The paths that reach a register (R435, R460): the maintenance edge port, BAR2 of LD 0, a rim core, or BAR0 of the
VF of a partition. -/
inductive Via where
  | mep | ld0 | rim | vf (pid : Nat)
  deriving DecidableEq, Repr

/-- What a router sees of a flit (R311): its header, and, for one that goes to a memory agent, the address. -/
structure Flit where
  header : BitVec 128
  pa : Option Nat
  deriving DecidableEq, Repr

/-- What a router answers on RSP when it drops a packet that expects a reply (R313). -/
inductive DropAnswer where
  | none
  | access (uid wid lane va : Nat)
  | job (ctxn handle num : Nat)
  deriving DecidableEq, Repr

/-- A request that arrives from the host or a peer module (R445): its source and sequence number, whether it carries
the IDE T bit, what it does, and where. -/
structure Inbound where
  host : Bool
  unit : Nat
  seq : Nat
  tbit : Bool
  op : Nat
  pa : Nat
  len : Nat
  data : List Byte
  deriving DecidableEq, Repr

/-- The operations and events of Purak 1.2: field names are those of the opcode table. -/
inductive Instr where
  /- Steps of the other agents -/
  | memoryWritePerform (id : Nat)
  | atomicPerform (uid wid slot pa : Nat)
  | txCommitValidate (uid wid lane : Nat)
  | wlputAnswer (launch index : Nat)
  | launchQuiet (launch : Nat)
  | mstBufferComplete (quarter : Nat)
  | matrixOpComplete (quarter : Nat)
  | streamStartPhaseEnd (uid wid : Nat)
  | copyJobStart (ctxn handle num : Nat)
  | fillSectorArrival (ctxn handle num sector : Nat)
  | copyJobRetire (ctxn handle num : Nat)
  | chainJobRetire (ctxn handle num : Nat)
  | pairJobStart (quad : Nat)
  | pairJobSuspend (ctxn handle num : Nat)
  | pairJobRetire (ctxn handle num : Nat)
  | fabricInstanceComplete (pid route inst : Nat)
  | amArrival (index : Nat)
  | amsendJobRetire (ctxn handle num : Nat)
  | packetDecode (uid wid lane : Nat)
  | waveSwap (uid wid : Nat)
  | forcedSwap (quarter : Nat)
  | replyWrite (uid wid slot : Nat) (lanes : Lanes) (stale : Nat)
  | regLineFill (uid wid reg : Nat)
  | pageWalk (die quarter ctxn va : Nat)
  | commitTokenHandoff (launch : Nat)
  | asyncCauseTake (uid : Nat)
  | qtailWrite (via : Via) (die pslot q : Nat) (value : W64)
  | queueEnable (via : Via) (die pslot q : Nat) (value : W64)
  | queueDisable (via : Via) (die pslot q : Nat) (value : W64)
  | queueRetry (via : Via) (die pslot q : Nat) (value : W64)
  | queueSkip (via : Via) (die pslot q : Nat) (value : W64)
  | launchTake (die pslot q : Nat)
  | blockPlace (die pid : Nat)
  | blockEnd (uid : Nat)
  | launchComplete (launch : Nat)
  | preempt (uid : Nat)
  | blockHalt (uid : Nat) (keep : List Nat)
  | blockStopped (uid : Nat)
  | droneWrite (via : Via) (die pslot off : Nat) (value : W64)
  | dronePlace (die pid : Nat)
  | watchdog (uid : Nat)
  | externalStall (uid wid : Nat)
  | repeatTrap (uid : Nat)
  | flitDrop (die : Nat) (flit : Flit) (reason : Nat) (ans : DropAnswer)
  | tlbinvJobComplete (ctxn handle num : Nat)
  | contextTeardown (ctxn : Nat)
  | splitcfgWrite (via : Via) (die tile : Nat) (value : W64)
  | semownWrite (via : Via) (die index : Nat) (value : W64)
  | pstateCmdRun (via : Via) (pid : Nat) (value : W64)
  | pstateCmdFreeze (via : Via) (pid : Nat) (value : W64)
  | pstateCmdStop (via : Via) (pid : Nat) (value : W64)
  | pstateCmdDrain (via : Via) (pid : Nat) (value : W64)
  | pstateCmdFlush (via : Via) (pid : Nat) (value : W64)
  | pstateCmdRemap (via : Via) (pid : Nat) (value : W64)
  | quiesceStateDone (pid : Nat)
  | tileProbe (silent erring : List (Nat × Nat))
  | shapereqGrow (pid : Nat) (value : W64)
  | shapereqShrink (pid : Nat) (value : W64)
  | shapereqCompact (pid : Nat) (value : W64)
  | shapereqMigrate (pid : Nat) (value : W64)
  | doorbell (pid : Nat) (value : W64)
  | killWave (pid : Nat) (value : W64)
  | killBlock (pid : Nat) (value : W64)
  | partitionReset (pid : Nat)
  | partitionResetComplete (pid : Nat)
  | ldReset (ld : Nat)
  | stopInterface (pid : Nat)
  | msixUnmask (pid vector : Nat)
  | inboundMemoryRequest (req : Inbound)
  | feataccWrite (via : Via) (word : Nat) (value : W64)
  | keyCreate (via : Via) (value : W64)
  | keyDestroy (via : Via) (value : W64)
  | edgeReqOff (via : Via) (group : Nat) (value : W64)
  | edgeReqCxl (via : Via) (group : Nat) (value : W64)
  | edgeReqUalink (via : Via) (group : Nat) (value : W64)
  | edgeReqUltraEthernet (via : Via) (group : Nat) (value : W64)
  | edgeDrainComplete (group : Nat)
  | edgeTrainComplete (group rate lanes : Nat)
  | edgeTrainTimeout (group : Nat)
  | edgeEnumComplete (group : Nat)
  | linkLost (group : Nat)
  | hbmReset (via : Via) (stack : Nat) (value : W64)
  | hbmZqcal (via : Via) (stack : Nat) (value : W64)
  | hbmCatrain (via : Via) (stack : Nat) (value : W64)
  | hbmRdtrain (via : Via) (stack : Nat) (value : W64)
  | hbmWrtrain (via : Via) (stack : Nat) (value : W64)
  | hbmRepair (via : Via) (stack : Nat) (value : W64)
  | hbmMemtest (via : Via) (stack : Nat) (value : W64)
  | hbmEnable (via : Via) (stack : Nat) (value : W64)
  | hbmOpComplete (stack : Nat) (pass : Bool) (repaired : Nat)
  | patrolScrub (pa : Nat) (store : Nat) (bad : Bool)
  | bistGo (via : Via) (value : W64)
  | bistComplete (results : List (Nat × W64))
  | timeRun (via : Via) (value : W64)
  | freqChangeRequest (via : Via) (value : W64)
  | freqChangeApply
  | limiterCheck (power : Nat) (temps : List (Nat × Nat))
  | thermalTrip (die tj : Nat)
  | railWrite (via : Via) (rail : Nat) (value : W64)
  | railPgood (rail mv : Nat)
  | idcheck (via : Via) (value : W64)
  | verifyxip (via : Via) (value : W64)
  | securityOpComplete (nonce : List Byte) (answer : Option (List Byte))
  | xipLock (via : Via) (value : W64)
  | loadgo (via : Via) (value : W64)
  | rimrun (via : Via) (value : W64)
  | moduleReset
  | mepRead (frame : List Byte)
  | mepWrite (frame : List Byte)
  | mepReset (frame : List Byte)
  | getVersion (ld : Nat) (msg : List Byte)
  | getCapabilities (ld : Nat) (msg : List Byte)
  | negotiateAlgorithms (ld : Nat) (msg : List Byte)
  | getDigests (ld : Nat) (msg : List Byte)
  | getCertificate (ld : Nat) (msg : List Byte)
  | challenge (ld : Nat) (msg : List Byte)
  | getMeasurements (ld : Nat) (vf : Option Nat) (msg : List Byte)
  | setCertificate (ld : Nat) (msg : List Byte)
  | registerWrite (via : Via) (addr : Nat) (value : W64)
  | reservedEncodingIssue (word : W32)
  | powerOn
  | idleTimeReached (uid wid : Nat)
  | ualinkSemaphoreDoorbell (pid : Nat) (value : W64)
  | mepBadcmd (frame : List Byte)
  | tdispLockInterface (pid : Nat)
  | tdispStartInterface (pid : Nat)
  /- MISC (R184) -/
  | nop (h : Hdr)
  | nap (h : Hdr)
  | exitT (h : Hdr)
  | brk (h : Hdr) (n : BitVec 12)
  | trapN (h : Hdr) (n : BitVec 12)
  | srd (h : Hdr) (d a : BitVec 6)
  | swr (h : Hdr) (d a : BitVec 6)
  | clkadd (h : Hdr) (a : BitVec 6)
  | svc (h : Hdr) (d a b : BitVec 6) (x : Bool)
  /- SALU (R193) -/
  | add (h : Hdr) (d a b : BitVec 6)
  | sub (h : Hdr) (d a b : BitVec 6)
  | mul (h : Hdr) (d a b : BitVec 6)
  | mulh (h : Hdr) (d a b : BitVec 6)
  | mulhn (h : Hdr) (d a b : BitVec 6)
  | div (h : Hdr) (d a b : BitVec 6)
  | divn (h : Hdr) (d a b : BitVec 6)
  | rem (h : Hdr) (d a b : BitVec 6)
  | remn (h : Hdr) (d a b : BitVec 6)
  | andS (h : Hdr) (d a b : BitVec 6)
  | orS (h : Hdr) (d a b : BitVec 6)
  | xorS (h : Hdr) (d a b : BitVec 6)
  | andn (h : Hdr) (d a b : BitVec 6)
  | shl (h : Hdr) (d a b : BitVec 6)
  | shr (h : Hdr) (d a b : BitVec 6)
  | sra (h : Hdr) (d a b : BitVec 6)
  | rol (h : Hdr) (d a b : BitVec 6)
  | ror (h : Hdr) (d a b : BitVec 6)
  | minS (h : Hdr) (d a b : BitVec 6)
  | maxS (h : Hdr) (d a b : BitVec 6)
  | minn (h : Hdr) (d a b : BitVec 6)
  | maxn (h : Hdr) (d a b : BitVec 6)
  | clz (h : Hdr) (d a : BitVec 6)
  | ctz (h : Hdr) (d a : BitVec 6)
  | popc (h : Hdr) (d a : BitVec 6)
  | brev (h : Hdr) (d a : BitVec 6)
  | sext (h : Hdr) (d a b : BitVec 6)
  | zext (h : Hdr) (d a b : BitVec 6)
  | cmp (h : Hdr) (d a b : BitVec 6)
  | clmul (h : Hdr) (d a b : BitVec 6)
  | clmulh (h : Hdr) (d a b : BitVec 6)
  | mov (h : Hdr) (d a : BitVec 6)
  /- SIMM (R194) -/
  | addi (h : Hdr) (d a : BitVec 6) (i : BitVec 11)
  | andi (h : Hdr) (d a : BitVec 6) (i : BitVec 11)
  | ori (h : Hdr) (d a : BitVec 6) (i : BitVec 11)
  | xori (h : Hdr) (d a : BitVec 6) (i : BitVec 11)
  | shli (h : Hdr) (d a : BitVec 6) (i : BitVec 11)
  | shri (h : Hdr) (d a : BitVec 6) (i : BitVec 11)
  | srai (h : Hdr) (d a : BitVec 6) (i : BitVec 11)
  | cmpi (h : Hdr) (d a : BitVec 6) (i : BitVec 11)
  /- LI (R195) -/
  | li (h : Hdr) (d : BitVec 6) (i : BitVec 20)
  /- BR (R172, R196) -/
  | bt (h : Hdr) (u : Bool) (p : BitVec 3) (o : BitVec 20)
  | bw (h : Hdr) (q : BitVec 3) (o : BitVec 20)
  | call (h : Hdr) (o : BitVec 20)
  | btn (h : Hdr) (u : Bool) (p : BitVec 3) (o : BitVec 20)
  /- JMP (R198) -/
  | jr (h : Hdr) (a : BitVec 6) (x : Bool)
  | callr (h : Hdr) (a : BitVec 6) (x : Bool)
  | ret (h : Hdr)
  /- VINT (R205) -/
  | addI32 (h : Hdr) (d a b : BitVec 6) (x y : Bool)
  | subI32 (h : Hdr) (d a b : BitVec 6) (x y : Bool)
  | mulI32 (h : Hdr) (d a b : BitVec 6) (x y : Bool)
  | mulhI32 (h : Hdr) (d a b : BitVec 6) (x y : Bool)
  | mulhnI32 (h : Hdr) (d a b : BitVec 6) (x y : Bool)
  | minI32 (h : Hdr) (d a b : BitVec 6) (x y : Bool)
  | maxI32 (h : Hdr) (d a b : BitVec 6) (x y : Bool)
  | minnI32 (h : Hdr) (d a b : BitVec 6) (x y : Bool)
  | maxnI32 (h : Hdr) (d a b : BitVec 6) (x y : Bool)
  | absI32 (h : Hdr) (d a : BitVec 6) (x : Bool)
  | negI32 (h : Hdr) (d a : BitVec 6) (x : Bool)
  | andI32 (h : Hdr) (d a b : BitVec 6) (x y : Bool)
  | orI32 (h : Hdr) (d a b : BitVec 6) (x y : Bool)
  | xorI32 (h : Hdr) (d a b : BitVec 6) (x y : Bool)
  | andnI32 (h : Hdr) (d a b : BitVec 6) (x y : Bool)
  | notI32 (h : Hdr) (d a : BitVec 6) (x : Bool)
  | shlI32 (h : Hdr) (d a b : BitVec 6) (x y : Bool)
  | shrI32 (h : Hdr) (d a b : BitVec 6) (x y : Bool)
  | sraI32 (h : Hdr) (d a b : BitVec 6) (x y : Bool)
  | clzI32 (h : Hdr) (d a : BitVec 6) (x : Bool)
  | popcI32 (h : Hdr) (d a : BitVec 6) (x : Bool)
  | brevI32 (h : Hdr) (d a : BitVec 6) (x : Bool)
  | addsI32 (h : Hdr) (d a b : BitVec 6) (x y : Bool)
  | subsI32 (h : Hdr) (d a b : BitVec 6) (x y : Bool)
  | addsnI32 (h : Hdr) (d a b : BitVec 6) (x y : Bool)
  | subsnI32 (h : Hdr) (d a b : BitVec 6) (x y : Bool)
  | cmpeqI32 (h : Hdr) (d : BitVec 3) (a b : BitVec 6) (x y : Bool)
  | cmpneI32 (h : Hdr) (d : BitVec 3) (a b : BitVec 6) (x y : Bool)
  | cmpltI32 (h : Hdr) (d : BitVec 3) (a b : BitVec 6) (x y : Bool)
  | cmpleI32 (h : Hdr) (d : BitVec 3) (a b : BitVec 6) (x y : Bool)
  | cmpltnI32 (h : Hdr) (d : BitVec 3) (a b : BitVec 6) (x y : Bool)
  | cmplenI32 (h : Hdr) (d : BitVec 3) (a b : BitVec 6) (x y : Bool)
  | selI32 (h : Hdr) (d a b : BitVec 6) (x y : Bool)
  | movI32 (h : Hdr) (d a : BitVec 6) (x : Bool)
  | movsI32 (h : Hdr) (d a : BitVec 6)
  | vclmul (h : Hdr) (d a b : BitVec 6) (x y : Bool)
  | vclmulh (h : Hdr) (d a b : BitVec 6) (x y : Bool)
  | madI32 (h : Hdr) (d a b : BitVec 6) (x y : Bool)
  /- VIMM (R206) -/
  | addiI32 (h : Hdr) (d a : BitVec 6) (i : BitVec 11)
  | andiI32 (h : Hdr) (d a : BitVec 6) (i : BitVec 11)
  | oriI32 (h : Hdr) (d a : BitVec 6) (i : BitVec 11)
  | xoriI32 (h : Hdr) (d a : BitVec 6) (i : BitVec 11)
  | shliI32 (h : Hdr) (d a : BitVec 6) (i : BitVec 11)
  | shriI32 (h : Hdr) (d a : BitVec 6) (i : BitVec 11)
  | sraiI32 (h : Hdr) (d a : BitVec 6) (i : BitVec 11)
  | liiI32 (h : Hdr) (d : BitVec 6) (i : BitVec 11)
  /- VFLT (R207, R208) -/
  | addF32 (h : Hdr) (d a b : BitVec 6) (x y : Bool)
  | subF32 (h : Hdr) (d a b : BitVec 6) (x y : Bool)
  | mulF32 (h : Hdr) (d a b : BitVec 6) (x y : Bool)
  | fmaF32 (h : Hdr) (d a b : BitVec 6) (x y : Bool)
  | fmsF32 (h : Hdr) (d a b : BitVec 6) (x y : Bool)
  | minF32 (h : Hdr) (d a b : BitVec 6) (x y : Bool)
  | maxF32 (h : Hdr) (d a b : BitVec 6) (x y : Bool)
  | absF32 (h : Hdr) (d a : BitVec 6) (x : Bool)
  | negF32 (h : Hdr) (d a : BitVec 6) (x : Bool)
  | cmpeqF32 (h : Hdr) (d : BitVec 3) (a b : BitVec 6) (x y : Bool)
  | cmpltF32 (h : Hdr) (d : BitVec 3) (a b : BitVec 6) (x y : Bool)
  | cmpleF32 (h : Hdr) (d : BitVec 3) (a b : BitVec 6) (x y : Bool)
  | cmpunF32 (h : Hdr) (d : BitVec 3) (a b : BitVec 6) (x y : Bool)
  | copysignF32 (h : Hdr) (d a b : BitVec 6) (x y : Bool)
  | addH2 (h : Hdr) (d a b : BitVec 6) (x y : Bool)
  | subH2 (h : Hdr) (d a b : BitVec 6) (x y : Bool)
  | mulH2 (h : Hdr) (d a b : BitVec 6) (x y : Bool)
  | fmaH2 (h : Hdr) (d a b : BitVec 6) (x y : Bool)
  | minH2 (h : Hdr) (d a b : BitVec 6) (x y : Bool)
  | maxH2 (h : Hdr) (d a b : BitVec 6) (x y : Bool)
  | absH2 (h : Hdr) (d a : BitVec 6) (x : Bool)
  | addBf2 (h : Hdr) (d a b : BitVec 6) (x y : Bool)
  | subBf2 (h : Hdr) (d a b : BitVec 6) (x y : Bool)
  | mulBf2 (h : Hdr) (d a b : BitVec 6) (x y : Bool)
  | fmaBf2 (h : Hdr) (d a b : BitVec 6) (x y : Bool)
  | minBf2 (h : Hdr) (d a b : BitVec 6) (x y : Bool)
  | maxBf2 (h : Hdr) (d a b : BitVec 6) (x y : Bool)
  | absBf2 (h : Hdr) (d a : BitVec 6) (x : Bool)
  /- VCVT (R209) -/
  | cvtF32I32 (h : Hdr) (d a : BitVec 6) (x : Bool)
  | cvtI32F32 (h : Hdr) (d a : BitVec 6) (x : Bool)
  | cvtF32N32 (h : Hdr) (d a : BitVec 6) (x : Bool)
  | cvtN32F32 (h : Hdr) (d a : BitVec 6) (x : Bool)
  | cvtBf2F32 (h : Hdr) (d a : BitVec 6) (x : Bool)
  | cvtF32Bf (h : Hdr) (d a : BitVec 6) (x : Bool)
  | cvtH2F32 (h : Hdr) (d a : BitVec 6) (x : Bool)
  | cvtF32H (h : Hdr) (d a : BitVec 6) (x : Bool)
  | cvtE4x4F32 (h : Hdr) (d a : BitVec 6) (x : Bool)
  | cvtF32E4 (h : Hdr) (d a : BitVec 6) (x : Bool)
  | cvtE5x4F32 (h : Hdr) (d a : BitVec 6) (x : Bool)
  | cvtF32E5 (h : Hdr) (d a : BitVec 6) (x : Bool)
  | cvtQ4F32 (h : Hdr) (d a b : BitVec 6) (x y : Bool)
  | cvtF32Q4 (h : Hdr) (d a b : BitVec 6) (x y : Bool)
  | rintF32 (h : Hdr) (d a : BitVec 6) (x : Bool)
  /- VSFU (R212) -/
  | rcp (h : Hdr) (d a : BitVec 6) (x : Bool)
  | sqrt (h : Hdr) (d a : BitVec 6) (x : Bool)
  | rsqrt (h : Hdr) (d a : BitVec 6) (x : Bool)
  | exp2 (h : Hdr) (d a : BitVec 6) (x : Bool)
  | log2 (h : Hdr) (d a : BitVec 6) (x : Bool)
  | sinpi (h : Hdr) (d a : BitVec 6) (x : Bool)
  | cospi (h : Hdr) (d a : BitVec 6) (x : Bool)
  /- XLANE (R213) -/
  | shfl (h : Hdr) (d a b : BitVec 6) (x y : Bool)
  | shfli (h : Hdr) (d a n : BitVec 6) (x : Bool)
  | bfly (h : Hdr) (d a n : BitVec 6) (x : Bool)
  | bcast (h : Hdr) (d a b : BitVec 6) (x : Bool)
  | xredAdd (h : Hdr) (d a : BitVec 6) (x : Bool)
  | xredAddf (h : Hdr) (d a : BitVec 6) (x : Bool)
  | xredMin (h : Hdr) (d a : BitVec 6) (x : Bool)
  | xredMax (h : Hdr) (d a : BitVec 6) (x : Bool)
  | xredMinf (h : Hdr) (d a : BitVec 6) (x : Bool)
  | xredMaxf (h : Hdr) (d a : BitVec 6) (x : Bool)
  | xredAnd (h : Hdr) (d a : BitVec 6) (x : Bool)
  | xredOr (h : Hdr) (d a : BitVec 6) (x : Bool)
  | xredXor (h : Hdr) (d a : BitVec 6) (x : Bool)
  | scanAdd (h : Hdr) (d a : BitVec 6) (x : Bool)
  | scanAddf (h : Hdr) (d a : BitVec 6) (x : Bool)
  | scanXor (h : Hdr) (d a : BitVec 6) (x : Bool)
  | scanMax (h : Hdr) (d a : BitVec 6) (x : Bool)
  | matchB (h : Hdr) (d a : BitVec 6) (x : Bool)
  | matchf (h : Hdr) (d a : BitVec 6) (x : Bool)
  | ballot (h : Hdr) (d a : BitVec 3)
  | voteAny (h : Hdr) (d a : BitVec 3)
  | voteAll (h : Hdr) (d a : BitVec 3)
  /- KOPS (R218) -/
  | kand (h : Hdr) (d a b : BitVec 3)
  | kor (h : Hdr) (d a b : BitVec 3)
  | kxor (h : Hdr) (d a b : BitVec 3)
  | knot (h : Hdr) (d a : BitVec 3)
  | kmov (h : Hdr) (d a : BitVec 3)
  | kfromp (h : Hdr) (d a : BitVec 3)
  | ktop (h : Hdr) (d a : BitVec 3)
  | kpop (h : Hdr) (d : BitVec 6) (a : BitVec 3)
  | kfirst (h : Hdr) (d : BitVec 6) (a : BitVec 3)
  | kfs (h : Hdr) (d a : BitVec 3)
  | ksk (h : Hdr) (d : BitVec 3) (a : BitVec 6)
  /- RNG (R219) -/
  | draw (h : Hdr) (d b : BitVec 6)
  | rhash (h : Hdr) (d a b : BitVec 6) (x y : Bool)
  | sdiset (h : Hdr) (a : BitVec 6) (x : Bool)
  | sdiget (h : Hdr) (d : BitVec 6)
  /- LD (R228) -/
  | ldB (h : Hdr) (d s n : BitVec 6) (r : BitVec 2) (g : BitVec 3)
  | ldBn (h : Hdr) (d s n : BitVec 6) (r : BitVec 2) (g : BitVec 3)
  | ldH (h : Hdr) (d s n : BitVec 6) (r : BitVec 2) (g : BitVec 3)
  | ldHn (h : Hdr) (d s n : BitVec 6) (r : BitVec 2) (g : BitVec 3)
  | ldW (h : Hdr) (d s n : BitVec 6) (r : BitVec 2) (g : BitVec 3)
  | ldD (h : Hdr) (d s n : BitVec 6) (r : BitVec 2) (g : BitVec 3)
  | ldDec (h : Hdr) (d s n : BitVec 6) (r : BitVec 2) (g : BitVec 3)
  | ldRaw (h : Hdr) (d s n : BitVec 6) (r : BitVec 2) (g : BitVec 3)
  /- ST (R228) -/
  | stB (h : Hdr) (d s n : BitVec 6) (r : BitVec 2) (g : BitVec 3)
  | stH (h : Hdr) (d s n : BitVec 6) (r : BitVec 2) (g : BitVec 3)
  | stW (h : Hdr) (d s n : BitVec 6) (r : BitVec 2) (g : BitVec 3)
  | stD (h : Hdr) (d s n : BitVec 6) (r : BitVec 2) (g : BitVec 3)
  | stRaw (h : Hdr) (d s n : BitVec 6) (r : BitVec 2) (g : BitVec 3)
  /- SPM (R235, R236) -/
  | sldW (h : Hdr) (d a b : BitVec 6) (x : Bool)
  | sldH (h : Hdr) (d a b : BitVec 6) (x : Bool)
  | sldB (h : Hdr) (d a b : BitVec 6) (x : Bool)
  | sstW (h : Hdr) (d a b : BitVec 6) (x : Bool)
  | sstH (h : Hdr) (d a b : BitVec 6) (x : Bool)
  | sstB (h : Hdr) (d a b : BitVec 6) (x : Bool)
  | bdecl (h : Hdr) (a b : BitVec 6)
  | bsetEmpty (h : Hdr) (a : BitVec 6)
  | bsetFull (h : Hdr) (a : BitVec 6)
  | bstat (h : Hdr) (d a : BitVec 6)
  | sldDec (h : Hdr) (d a b : BitVec 6) (x : Bool)
  /- ATOM (R233) -/
  | atomAdd (h : Hdr) (d s n : BitVec 6) (g : BitVec 3)
  | atomAddD (h : Hdr) (d s n : BitVec 6) (g : BitVec 3)
  | atomMin (h : Hdr) (d s n : BitVec 6) (g : BitVec 3)
  | atomMax (h : Hdr) (d s n : BitVec 6) (g : BitVec 3)
  | atomMinn (h : Hdr) (d s n : BitVec 6) (g : BitVec 3)
  | atomMaxn (h : Hdr) (d s n : BitVec 6) (g : BitVec 3)
  | atomAnd (h : Hdr) (d s n : BitVec 6) (g : BitVec 3)
  | atomOr (h : Hdr) (d s n : BitVec 6) (g : BitVec 3)
  | atomXor (h : Hdr) (d s n : BitVec 6) (g : BitVec 3)
  | atomXchg (h : Hdr) (d s n : BitVec 6) (g : BitVec 3)
  | atomCas (h : Hdr) (d s n : BitVec 6) (g : BitVec 3)
  | atomCasD (h : Hdr) (d s n : BitVec 6) (g : BitVec 3)
  | atomFadd (h : Hdr) (d s n : BitVec 6) (g : BitVec 3)
  | atomFaddBf2 (h : Hdr) (d s n : BitVec 6) (g : BitVec 3)
  | atomFmin (h : Hdr) (d s n : BitVec 6) (g : BitVec 3)
  | atomFmax (h : Hdr) (d s n : BitVec 6) (g : BitVec 3)
  /- RED (R234) -/
  | redAdd (h : Hdr) (d s n : BitVec 6) (g : BitVec 3)
  | redAddD (h : Hdr) (d s n : BitVec 6) (g : BitVec 3)
  | redMin (h : Hdr) (d s n : BitVec 6) (g : BitVec 3)
  | redMax (h : Hdr) (d s n : BitVec 6) (g : BitVec 3)
  | redMinn (h : Hdr) (d s n : BitVec 6) (g : BitVec 3)
  | redMaxn (h : Hdr) (d s n : BitVec 6) (g : BitVec 3)
  | redAnd (h : Hdr) (d s n : BitVec 6) (g : BitVec 3)
  | redOr (h : Hdr) (d s n : BitVec 6) (g : BitVec 3)
  | redXor (h : Hdr) (d s n : BitVec 6) (g : BitVec 3)
  | redFadd (h : Hdr) (d s n : BitVec 6) (g : BitVec 3)
  | redFaddBf2 (h : Hdr) (d s n : BitVec 6) (g : BitVec 3)
  /- SYNC (R140, R240) -/
  | fenceAcq (h : Hdr) (g : BitVec 3)
  | fenceRel (h : Hdr) (g : BitVec 3)
  | fenceFull (h : Hdr) (g : BitVec 3)
  | ifb (h : Hdr)
  | bar (h : Hdr) (a : BitVec 6)
  | barArv (h : Hdr) (a : BitVec 6)
  | barWt (h : Hdr) (a : BitVec 6)
  | semSig (h : Hdr) (a b : BitVec 6)
  | semWait (h : Hdr) (a b : BitVec 6)
  | tlwait (h : Hdr) (g : BitVec 3) (a b : BitVec 6)
  | txb (h : Hdr) (d : BitVec 3)
  | txe (h : Hdr)
  | txa (h : Hdr) (a : BitVec 6)
  | wlput (h : Hdr) (d : BitVec 3) (a b : BitVec 6) (x y : Bool)
  | wlget (h : Hdr) (d : BitVec 6)
  | amrecv (h : Hdr) (d a : BitVec 6)
  | bwaitDrained (h : Hdr) (a : BitVec 6)
  | bwaitFull (h : Hdr) (a : BitVec 6)
  /- MMA (R256) -/
  | mmaBf (h : Hdr) (d : BitVec 3) (a b : BitVec 6) (x y : Bool)
  | mmaH (h : Hdr) (d : BitVec 3) (a b : BitVec 6) (x y : Bool)
  | mmaE4 (h : Hdr) (d : BitVec 3) (a b : BitVec 6) (x y : Bool)
  | mmaE5 (h : Hdr) (d : BitVec 3) (a b : BitVec 6) (x y : Bool)
  | mmaE4e5 (h : Hdr) (d : BitVec 3) (a b : BitVec 6) (x y : Bool)
  | mmaQ4 (h : Hdr) (d : BitVec 3) (a b : BitVec 6) (x y : Bool)
  | mmaI8 (h : Hdr) (d : BitVec 3) (a b : BitVec 6) (x y : Bool)
  | mzero (h : Hdr) (d : BitVec 3)
  | mld (h : Hdr) (d : BitVec 3) (a b : BitVec 6)
  | mstReg (h : Hdr) (d : BitVec 6) (a : BitVec 3)
  | mstBuf (h : Hdr) (d : BitVec 6) (a : BitVec 3) (b : BitVec 6)
  | mwait (h : Hdr) (a : BitVec 3)
  /- MSEQ (R267) -/
  | mloop (h : Hdr) (d : BitVec 3) (a b : BitVec 6)
  | mconv (h : Hdr) (d : BitVec 3) (a b : BitVec 6)
  /- ENG (R272) -/
  | kick (h : Hdr) (d a b : BitVec 6)
  | vchain (h : Hdr) (d a b : BitVec 6)
  | pair (h : Hdr) (d a b : BitVec 6)
  | pairResume (h : Hdr) (d a b : BitVec 6)
  | lnch (h : Hdr) (d a b : BitVec 6)
  | estat (h : Hdr) (d a n : BitVec 6)
  /- FAB (R317) -/
  | csend (h : Hdr) (d a b : BitVec 6)
  | crecv (h : Hdr) (d a b : BitVec 6)
  | cred (h : Hdr) (d a b : BitVec 6)
  | amsend (h : Hdr) (d a b : BitVec 6) (x : Bool)
  /- PRIV (R371) -/
  | rfe (h : Hdr) (a : BitVec 6)
  | resume (h : Hdr) (a : BitVec 6)
  | ctxrd (h : Hdr) (d a b : BitVec 6)
  | ctxwr (h : Hdr) (d a b : BitVec 6)
  | tlbinv (h : Hdr) (d a b : BitVec 6)
  | psrd (h : Hdr) (d a : BitVec 6)
  | pswr (h : Hdr) (a b : BitVec 6)
  | idle (h : Hdr) (a : BitVec 6)
  | rtwr (h : Hdr) (d a : BitVec 6)
  | sealBlock (h : Hdr) (a : BitVec 6)
  | halt (h : Hdr) (a : BitVec 6)
  | wake (h : Hdr) (a : BitVec 6)
  deriving DecidableEq, Repr

end Sys2Proof
end

