-- ==== Sys2Proof/Machine/State.lean ====
section
/-! DEFINITION. The state of one module as plain data: the waves, blocks and launches of the compute array and of the
rim cores, memory with its writes in flight, the engines and their jobs, the fabric, translation, the maintenance
registers, and the host-facing units. Reasons a step can stop, and the state after reset. -/

namespace Sys2Proof.Machine

/-- Why a step stops with a fault. -/
inductive Fault where
  /-- Raised by `step` alone: the agenda (the model's own list that says which agent moves next) holds an
  instruction of a thread, which moves only by being fetched. Safe: no agent of the hardware moves so. -/
  | agendaHoldsInstruction
  deriving DecidableEq, Repr

/-- Why there is no meaning for an instruction. -/
inductive Refusal where
  /-- Raised by an arm of `exec` whose instruction has no meaning yet. Safe: nothing is claimed of it. -/
  | notModelled (mnemonic : String)
  deriving DecidableEq, Repr

/-- The causes of a stop (R355), in the order of their codes. -/
inductive Cause where
  | halted | illegalEncoding | illegalInstruction | flowSealed | uniformity | regBounds | regEmpty | access
  | pageFault | protPlain | formatMismatch | align | bufState | dataError | pairSat | coreLost | softTrap
  | breakpoint | singleStep
  deriving DecidableEq, Repr

/-- The code written to bits [7:0] of `ecause` (R355). -/
def Cause.code : Cause → Nat
  | .halted => 0 | .illegalEncoding => 1 | .illegalInstruction => 2 | .flowSealed => 3 | .uniformity => 4
  | .regBounds => 5 | .regEmpty => 6 | .access => 7 | .pageFault => 8 | .protPlain => 9 | .formatMismatch => 10
  | .align => 11 | .bufState => 12 | .dataError => 13 | .pairSat => 14 | .coreLost => 15 | .softTrap => 16
  | .breakpoint => 17 | .singleStep => 18

/-- The privilege levels (R353). -/
inductive Level where
  | u | s | m
  deriving DecidableEq, Repr

def Level.code : Level → Nat
  | .u => 0 | .s => 1 | .m => 2

/-- What a pending-reply slot waits for (R366, KIND). -/
inductive SlotKind where
  | free | load | atomic | sfu | svc | crecv | wlget | amrecv | mst | wlput
  deriving DecidableEq, Repr

def SlotKind.code : SlotKind → Nat
  | .free => 0 | .load => 1 | .atomic => 2 | .sfu => 3 | .svc => 4 | .crecv => 5 | .wlget => 6 | .amrecv => 7
  | .mst => 8 | .wlput => 9

/-- One lane's outstanding request in a slot: where it reads, how the bytes become register words, its operands,
and its reply once fixed. `aux` is the operation: the load form, or the
atomic's minor; `tx` says that the load belongs to the lane's open transaction, `sent` that it was in flight through an edge group when that
began to drain (R444). -/
structure Req where
  lane : Nat
  va : Nat := 0
  pa : Nat := 0
  width : Nat := 0
  aux : Nat := 0
  scope : Nat := 0
  opnd : List W32 := []
  tx : Bool := false
  sent : Bool := false
  val : Option (List W32) := none
  err : Bool := false
  deriving DecidableEq, Repr

/-- A pending-reply slot (R69, R366): lanes still awaiting a reply, lanes marked by an uncorrectable error with
the address of their access (R232). `ord` is the slot's place in the wave's issue order. -/
structure Slot where
  kind : SlotKind := .free
  reg : Nat := 0
  span : Nat := 0
  lanes : Lanes := 0
  err : Lanes := 0
  errAddr : Tab Nat := []
  reqs : List Req := []
  ord : Nat := 0
  deriving DecidableEq, Repr

/-- An open transaction of a thread (R147, R246): its resume point, the predicate and call-stack depth recorded,
the read sectors with the bytes they returned, the write set, and the virtual 128 KiB granule that each physical one was reached
by. -/
structure Tx where
  resumePc : Nat
  pred : Nat
  depth : Nat
  reads : List Nat
  seen : List (Nat × Byte)
  writes : List Nat
  data : List (Nat × Byte)
  validating : Bool
  grans : Tab Nat := []
  deriving DecidableEq, Repr

/-- Why a wave waits for other than its operands (R36). `released`: it arrived at a barrier whose phase has since
released, and completes at its next issue. `target`: its `halt` or `seal` has begun and waits for the stop of a block (R376);
`targetDone`: that stop is complete, or the time that an `idle` waits for has come (R377). -/
inductive Waiting where
  | none
  | barrier (handle phase : Nat)
  | released (handle : Nat)
  | semaphore (index count : Nat) (granted ext : Bool)
  | target (uid : Nat) (sealing : Bool)
  | targetDone
  | idle (until_ : Nat)
  deriving DecidableEq, Repr

/-- One wave (R28, R33, R366). `stack` lists every return entry of a lane, oldest first; the first `memDepth` of them are
in memory (R75). `tx` is the open transaction of a lane; `spare` holds what `ctxwr` wrote to CSENT
entries above the depth (key 48 e + L); `parked` is the buffer that a lane waits on (R124, R239), with the
failed fills that the buffer had then. `aslot` is the wave's slot of the active set; a pending wave with
`readyLast` stands behind those that became ready in the same clk (R44); `front` is the PC and lowest lane of the
word in front of which the wave's skid stopped (R202, R370). `wlgetOut` holds the lanes whose `wlget` is not answered, and
`wlgetBlocked` those of them that nothing but that answer keeps from issuing (R49). -/
structure Wave where
  wid : Nat := 0
  vregs : Nat := 16
  accN : Nat := 0
  v : Tab W32 := []
  empty : Tab Lanes := []
  sregs : Tab W64 := []
  z : Bool := false
  n : Bool := false
  c : Bool := false
  ovf : Bool := false
  preds : Tab Lanes := []
  masks : Tab Lanes := []
  kz : Bool := false
  index : Tab Nat := []
  acc : Tab W32 := []
  pc : Tab Nat := []
  stack : Tab (List Nat) := []
  memDepth : Tab Nat := []
  live : Lanes := 0
  wclk : W64 := 0
  sdi : Tab W32 := []
  seed : W64 := 0
  fpctl : W32 := 0
  tstat : Tab W32 := []
  cstk : W64 := 0
  ecause : W32 := 0
  epc : W64 := 0
  ebad : W64 := 0
  skid : Nat := 0
  fcode : Tab Nat := []
  skipbp : Bool := false
  dbgpend : Nat := 0
  arv : Tab Nat := []
  spare : Tab W64 := []
  slots : Tab Slot := []
  slotSeq : Nat := 0
  tx : Tab (Option Tx) := []
  waiting : Waiting := .none
  parked : Tab (Option (Nat × Nat)) := []
  wlgetOut : Lanes := 0
  wlgetBlocked : Lanes := 0
  worker : Bool := false
  ended : Bool := false
  stopped : Bool := false
  skidding : Bool := false
  quarter : Nat := 0
  active : Bool := true
  aslot : Nat := 0
  front : Option (Nat × Nat) := none
  heldSince : Nat := 0
  readySince : Option Nat := none
  readyLast : Bool := false
  refence : Bool := false
  inImage : List Nat := []
  lastLane : Nat := 47
  extSince : Option Nat := none
  extFired : Bool := false
  deriving DecidableEq, Repr

/-- The state of a declared buffer (R120, R238 codes). -/
inductive BufSt where
  | empty | filling | full | draining
  deriving DecidableEq, Repr

def BufSt.code : BufSt → Nat
  | .empty => 0 | .filling => 1 | .full => 2 | .draining => 3

/-- A declared buffer of a block (R118, R120). Its presence bits are lines of the allotment (`Block.present`);
`awaited` lists, for each line, the bytes that accepted fills have still to write to it (R123); `fails` counts the fills
that failed (R125). -/
structure Buf where
  decl : Bool := false
  offset : Nat := 0
  size : Nat := 0
  fmt : Nat := 0
  geo : Nat := 0
  flags : Nat := 0
  key : Nat := 0
  state : BufSt := .empty
  bytes : Nat := 0
  outs : Nat := 0
  heldN : Nat := 0
  fails : Nat := 0
  awaited : Tab Nat := []
  deriving DecidableEq, Repr

/-- The states of a block (R365). -/
inductive BlockSt where
  | running | halted | swapped | sealedImg | lost | ended
  deriving DecidableEq, Repr

def BlockSt.code : BlockSt → Nat
  | .running => 0 | .halted => 1 | .swapped => 2 | .sealedImg => 3 | .lost => 4 | .ended => 5

/-- What a block came from (R353, R361, R406, R477). -/
inductive BlockKind where
  | queue | handler | drone | rim (core : Nat)
  deriving DecidableEq, Repr

/-- Why a running block is stopping (R358). `preemptHalt`: a pre-emption that a `halt` met (R376). -/
inductive Stopping where
  | no | trap | halt | preempt | preemptHalt | sealing | kill
  deriving DecidableEq, Repr

/-- A cause held for a block until it can be taken (R357, R365 HELD), with what it writes. -/
structure HeldCause where
  cause : Cause
  wid : Nat
  ebad : W64
  deriving DecidableEq, Repr

/-- One block (R28, R365): its waves, its scratchpad allotment and buffers, barrier and halt state, and where it
stands. `tile` is the logical tile on physical die `die`; a rim core has `die` 64. Its images stand from VA `imgAt` (R364).
`spmMarks` lists the bytes of the allotment in uncorrectable 8-byte words that nothing has written since (R481). `killWaves` are the waves (0x3F the whole block) that resets started by partition `killer`'s VF end (R439). -/
structure Block where
  uid : Nat := 0
  launch : Nat := 0
  bid : Nat := 0
  ctxn : Nat := 0
  gen : Nat := 0
  pid : Nat := 0
  level : Level := .u
  kind : BlockKind := .queue
  die : Nat := 0
  tile : Nat := 0
  state : BlockSt := .running
  resident : Bool := true
  stopping : Stopping := .no
  broadcast : Bool := false
  delivered : Bool := true
  handlerOf : Option Nat := none
  causeWave : Option Nat := none
  haltClk : Option Nat := none
  waves : List Wave := []
  spmb : Nat := 0
  spm : Tab Byte := []
  spmMarks : List Nat := []
  present : Tab Bool := []
  bufs : Tab Buf := []
  barPhase : Nat := 0
  barArrived : List Nat := []
  held : List HeldCause := []
  imgAt : Nat := 0
  wimg : Nat := 0
  lostVcid : Nat := 0
  coreLostHeld : Bool := false
  step1 : Bool := false
  stall : Nat := 0
  stopNo : Nat := 0
  wdFired : Bool := false
  repCause : Nat := 0
  repEpc : W64 := 0
  repCount : Nat := 0
  repFired : Bool := false
  repWave : Option Nat := none
  killWaves : List Nat := []
  killer : Option Nat := none
  killed : Bool := false
  deriving DecidableEq, Repr

/-- A launch record (R30). -/
structure LRec where
  entry : Nat := 0
  args : Nat := 0
  grid : Nat := 0
  waves : Nat := 0
  acc : Nat := 0
  vregs : Nat := 0
  spmb : Nat := 0
  nbuf : Nat := 0
  bdt : Nat := 0
  det : Bool := false
  sealedFlow : Bool := false
  prio : Nat := 0
  split : Bool := false
  stctx : Nat := 0
  stflg : Bool := false
  stval : Nat := 0
  cpctx : Nat := 0
  cpflg : Bool := false
  cpinc : Nat := 0
  seed : W64 := 0
  tvt : Nat := 0
  deriving DecidableEq, Repr

/-- An item on its way to a work list (R249): who put it, from which slot and lane, and its destination. -/
structure WlItem where
  uid : Nat
  wid : Nat
  slot : Nat
  lane : Nat
  vcid : Nat
  item : W64
  deriving DecidableEq, Repr

/-- A `wlget` request entered and not yet answered (R250). -/
structure WlReq where
  uid : Nat
  wid : Nat
  slot : Nat
  lane : Nat
  vcid : Nat
  deriving DecidableEq, Repr

/-- A launch taken by a dispatcher, or a handler, drone or rim block counted as one (R31, R400). `lists` holds the items of
its work lists by virtual core, `heads` the place in the list's memory of the first (R409). -/
structure Launch where
  uid : Nat := 0
  rcd : LRec := {}
  bufs : List Buf := []
  die : Nat := 0
  pid : Nat := 0
  ctxn : Nat := 0
  level : Level := .u
  kind : BlockKind := .queue
  queue : Nat := 0
  forBlock : Nat := 0
  s2 : W64 := 0
  s3 : W64 := 0
  s4 : W64 := 0
  nextBid : Nat := 0
  endedN : Nat := 0
  readySince : Nat := 0
  quiet : Bool := false
  lists : Tab (List W64) := []
  heads : Tab Nat := []
  inFlight : List WlItem := []
  getters : List WlReq := []
  ownsArea : Bool := false
  workers : List (Nat × Nat) := []
  token : Option Nat := none
  deriving DecidableEq, Repr

/-- A write in flight (R132): the thread it belongs to, its bytes at a physical address, and the point where it is visible: 0 in the
thread's store buffer, 1 at `core`, 2 at `quad`, 3 at `die`, 4 at `pkg` (host or peer memory only, awaiting `sys`). `deps`: other
writes by id that must first be performed at a level (R137). `target` is the level at which it leaves the list. `rmw` marks the
write of a returning atomic performed below the home, which no other agent's write may come before (R142). `held`: it has reached
the home of a frame that is locked, and is visible to its own core alone (R155, R392). -/
structure PWrite where
  id : Nat
  die : Nat
  tile : Nat
  uid : Nat
  wid : Nat
  lane : Nat
  pa : Nat
  va : Nat
  ctxn : Nat
  bytes : List Byte
  level : Nat
  target : Nat
  deps : List (Nat × Nat)
  rmw : Bool := false
  held : Bool := false
  sealGen : Nat := 0
  deriving DecidableEq, Repr

/-- A copy of an 8-byte word in a core's L1, or as its quad or its die holds it (R134): its bytes, the writes in flight that they
came from, and when it was made. -/
structure Copy where
  bytes : List Byte
  srcs : List (Option Nat)
  since : Nat
  deriving DecidableEq, Repr

/-- A partial of the update-only state U (R144) in the L1 of a core. -/
structure UPart where
  die : Nat
  tile : Nat
  pa : Nat
  width : Nat
  op : Nat
  val : W64
  deriving DecidableEq, Repr

/-- The types of an engine context (R273, R317, R369). -/
inductive EngType where
  | copy | chain | pair | fabric | sys
  deriving DecidableEq, Repr

/-- An engine context's running state (R151, R282, R307). `done` lists the numbers that are done while an earlier one is not, as
runs (first, count). -/
structure Eng where
  timeline : Nat := 0
  issued : Nat := 0
  done : List (Nat × Nat) := []
  errStatus : Nat := 0
  errCount : Nat := 0
  errJob : Nat := 0
  errAddr : W64 := 0
  pairs : Nat := 0
  tested : Nat := 0
  deriving DecidableEq, Repr

/-- A copy descriptor (R274) as `kick` read it. -/
structure CopyDesc where
  op : Nat
  sfmt : Nat
  dfmt : Nat
  flags : Nat
  count0 : Nat
  src : Nat
  dst : Nat
  count1 : Nat
  count2 : Nat
  count3 : Nat
  str1 : Int
  str2 : Int
  str3 : Int
  idx : Nat
  deriving DecidableEq, Repr

/-- A chain descriptor (R279) as `vchain` read it. -/
structure ChainDesc where
  ops : List Nat
  sfmt : Nat
  dfmt : Nat
  flags : Nat
  count : Nat
  src : Nat
  dst : Nat
  k0 : W32
  k1 : W32
  deriving DecidableEq, Repr

/-- A pair job record (R301) as `pair` read it. -/
structure PairRec where
  scheme : Nat
  fscale : Int
  flags : Nat
  ncx : Nat
  ncy : Nat
  ncz : Nat
  firstCell : Nat
  nCells : Nat
  boxX : W32
  boxY : W32
  boxZ : W32
  ni : Nat
  nj : Nat
  rc2 : Nat
  iset : Nat
  jset : Nat
  icell : Nat
  jcell : Nat
  table : Nat
  iacc : Nat
  jacc : Nat
  deriving DecidableEq, Repr

/-- A cursor of the canonical order (R290): cell, i, offset, j, with the word that saturated (R299, SATW). -/
structure Cursor where
  c : Nat
  i : Nat
  o : Nat
  j : Nat
  word : Nat
  side : Nat
  deriving DecidableEq, Repr

/-- The work of a job. -/
inductive Work where
  | copy (d : CopyDesc)
  | chain (d : ChainDesc)
  | pair (r : PairRec) (cur : Option Cursor)
  | fabric
  | amsend
  | tlbinv (kind va ctxn : Nat)
  deriving DecidableEq, Repr

/-- A job's phase: accepted; started with its pages pinned (R278); for a pair job suspended (R299). -/
inductive JobPhase where
  | queued | started | suspended
  deriving DecidableEq, Repr

/-- A translation held by the TLB of a quarter, or by the walk cache of a die (`quarter` = none) (R386). The walk cache also holds table
entries: `level` is 1 more than the level that the entry stands at, and `leaf` the entry itself. -/
structure TlbE where
  die : Nat
  quarter : Option (Nat × Nat)
  ctxn : Nat
  base : Nat
  size : Nat
  leaf : W64
  level : Nat := 0
  deriving DecidableEq, Repr

/-- A job of an engine context (R151, R273), with the block, wave and core that issued it, the pages it pins, its index table
as read (R278), the sectors of a fill that have arrived, the destination buffer as it was declared at acceptance, and the
kernel table (header, intervals) that a pair job started with (R294). -/
structure Job where
  ctxn : Nat
  handle : Nat
  num : Nat
  work : Work
  phase : JobPhase := .queued
  status : Nat := 0
  errAddr : W64 := 0
  scope : Nat
  uid : Nat
  wid : Nat
  pid : Nat
  die : Nat
  tile : Nat
  level : Level
  det : Bool
  pins : List TlbE := []
  idx : List Nat := []
  arrived : List Nat := []
  moved : Bool := false
  dbuf : Buf := {}
  deps : List (Nat × Nat) := []
  table : List Byte × List Byte := ([], [])
  deriving DecidableEq, Repr

/-- A pair engine of a quad (R284, R294): the table store with the world that loaded it, and the core served last. -/
structure PairEng where
  storePid : Option Nat := none
  header : List Byte := []
  coefs : List Byte := []
  lastCore : Nat := 3
  deriving DecidableEq, Repr

/-- An operation queued on the matrix unit of a quarter (R255). `steps` is any multiply: each step holds the elements of the
rows of A and of the columns of B as they were read at issue, in formats `fa` and `fb`; a Q4 element carries its scale bytes
above its code (R86). -/
inductive MOp where
  | zero
  | load (rows : List (List W32))
  | steps (zero : Bool) (fa fb : Nat) (ss : List (List (List W32) × List (List W32)))
  | storeReg (slot : Nat)
  | storeBuf (buf off stride etype : Nat) (sat : Bool)
  deriving DecidableEq, Repr

/-- A streamed operand (R267): a global base, or a buffer with a base offset; its effective format; for a global base or a
buffer, the format code and geometry of its memory. -/
structure MSrc where
  isBuf : Bool
  id : Nat := 0
  base : Nat
  pageFmt : Nat := 0
  pageGeo : Nat := 0
  named : Nat := 0
  fmt : Nat := 0
  deriving DecidableEq, Repr

/-- A queue entry: the wave and tile it names, and the pages it pins (R265). A `storeBuf` whose tile was read stays, holding
it, until its bytes are written. -/
structure MEntry where
  uid : Nat
  wid : Nat
  tile : Nat
  op : MOp
  pins : List TlbE := []
  sampled : Option (List W32) := none
  deriving DecidableEq, Repr

/-- A wave in the start phase of `mloop` or `mconv` (R265): the shape record as read, the operands once their bases are checked,
how many of the later checks have passed, the pages pinned so far, whether every check has passed, the lines of its allotment
awaited, and whether the phase has ended. -/
structure StartPhase where
  uid : Nat
  wid : Nat
  pc : Nat
  shape : List Byte := []
  ops : Option (MSrc × MSrc) := none
  passed : Nat := 0
  pins : List TlbE := []
  checked : Bool := false
  lines : Tab Bool := []
  done : Bool := false
  deriving DecidableEq, Repr

/-- A static route (R314, R316): its state, its root, its members as (parent, `dieid`, `vcid`), their instance counts (R319). -/
inductive RouteSt where
  | unset | ready | failed
  deriving DecidableEq, Repr

structure Route where
  state : RouteSt := .unset
  root : Nat := 0
  members : List (Nat × Nat × Nat) := []
  counts : Tab Nat := []
  paths : List (Nat × Nat) := []
  deriving DecidableEq, Repr

/-- The fabric operations (R317). -/
inductive FabKind where
  | csend | crecv | cred
  deriving DecidableEq, Repr

/-- One participant's operation in an instance of a route (R319): its buffer operands, the slot and live lanes of a `crecv`, the
destination buffer as it was declared, what its release still awaits. -/
structure FabOp where
  pid : Nat
  route : Nat
  inst : Nat
  member : Nat
  kind : FabKind
  op : Nat
  len : Nat
  scope : Nat
  uid : Nat
  wid : Nat
  src : Option Nat
  dst : Option Nat
  slot : Nat
  ctxn : Nat
  handle : Nat
  num : Nat
  lanes : Lanes
  dbuf : Buf
  deps : List (Nat × Nat)
  got : Nat := 0
  deriving DecidableEq, Repr

/-- A message in flight (R324): destination key, its sender, the job that waits for it. -/
structure AmMsg where
  uid : Nat
  wid : Nat
  pid : Nat
  dieid : Nat
  vcid : Nat
  ctxn : Nat
  gen : Nat
  inbox : Nat
  w0 : W32
  w1 : W32
  from_ : W32
  scope : Nat
  deps : List (Nat × Nat)
  jctxn : Nat
  jhandle : Nat
  jnum : Nat
  lane : Nat
  /-- The tile that sent it, as a flit's SRC names it (R311), and its die. -/
  src : Nat
  sdie : Nat
  deriving DecidableEq, Repr

/-- A queued message (R325). -/
structure Msg where
  w0 : W32
  w1 : W32
  from_ : W32
  scope : Nat := 0
  deps : List (Nat × Nat) := []
  deriving DecidableEq, Repr

/-- An `amrecv` lane that waits for a message (R251). -/
structure AmWait where
  key : Nat
  uid : Nat
  wid : Nat
  slot : Nat
  lane : Nat
  deriving DecidableEq, Repr

/-- A cross-die semaphore (R243): its value and the waits in order of arrival. -/
structure Sem where
  value : Nat := 0
  waits : List (Nat × Nat × Nat) := []
  deriving DecidableEq, Repr

/-- A service batch in a slot of a die's batch area (R330), by partition and die. -/
structure Batch where
  pid : Nat
  die : Nat
  slotN : Nat
  uid : Nat
  wid : Nat
  wslot : Nat
  ctxn : Nat
  gen : Nat
  lanes : Lanes
  deriving DecidableEq, Repr

/-- A frame locked for migration (R392): the context and page that lock it, and the frame. -/
structure MigLock where
  ctxn : Nat
  va : Nat
  frame : Nat
  size : Nat
  deriving DecidableEq, Repr

/-- A code line that a quarter's instruction cache holds (R156): its number (a physical address / 192) and its bytes. -/
structure ICell where
  die : Nat
  tile : Nat
  quarter : Nat
  line : Nat
  bytes : List Byte
  deriving DecidableEq, Repr

/-- A memory-encryption key id that a partition holds, with the generation of its keys (R455, R457). -/
structure KeyRec where
  pid : Nat
  gen : Nat
  deriving DecidableEq, Repr

/-- The TDISP states of a VF (R437). -/
inductive Tdi where
  | unlocked | locked | run | error
  deriving DecidableEq, Repr

/-- An SPDM request that names a certificate slot (R454): a CHALLENGE or GET_MEASUREMENTS with its response, formed and not yet sent,
when it is sent (in clk) and when it lapses (in ticks of `time`); or a multi-part GET_CERTIFICATE that is not complete. -/
structure SpdmReq where
  ld : Nat
  slot : Nat
  multi : Bool
  resp : List Byte := []
  sendAt : Nat := 0
  until_ : Nat := 0
  deriving DecidableEq, Repr

/-- A line of a quarter's register cache (R78): the quarter (die · 576 + tile · 4 + q), the wave, the vector register, the clk
of its last use, and whether it differs from its image. -/
structure RLine where
  quarter : Nat
  uid : Nat
  wid : Nat
  reg : Nat
  readAt : Nat := 0
  usedAt : Nat := 0
  dirty : Bool := false
  deriving DecidableEq, Repr

/-- What a thread of the issuing wave does next, found wrong at issue; `at_` is the word that `epc` names instead of the thread's PC
(R197). -/
structure LaneFault where
  lane : Nat
  cause : Cause
  ebad : W64
  lv : Bool
  at_ : Option Nat := none
  deriving DecidableEq, Repr

/-- The issue in progress (the model's own): which wave of which block issues, the group's first word, the lanes
issued, the PC after the group, and what the words found: lanes held back (`acted`: though held, the word took its
first step, an arrival), those of the held lanes that wait only for their turn in an order (`ordered`: such a thread is ready,
R36), and lanes that fault. -/
structure Cur where
  on : Bool := false
  uid : Nat := 0
  wid : Nat := 0
  lanes : Lanes := 0
  pc : Nat := 0
  word : W32 := 0
  wordPc : Nat := 0
  next : Nat := 0
  chained : Bool := false
  acted : Bool := false
  held : Lanes := 0
  ordered : Lanes := 0
  faults : List LaneFault := []
  deriving DecidableEq, Repr

/-- A core of a partition on a failed tile, whose number awaits the REMAP (R427, R429): the spare that takes it, and whether it hosted
the partition's drone. -/
structure LostCore where
  die : Nat
  tile : Nat
  pid : Nat
  dieid : Nat
  vcid : Nat
  spare : Option Nat := none
  drone : Bool := false
  deriving DecidableEq, Repr

/-- A granule of module HBM that has left a partition's frame map, and whether a `tlbinv` KIND 2 of that partition has retired since
(R394). -/
structure Leaving where
  gran : Nat
  pid : Nat
  inv : Bool := false
  deriving DecidableEq, Repr

/-- A frame of the maintenance edge port under way (R459, R460): its bytes, how many of its words have been accessed, what a READ has read. -/
structure MepJob where
  frame : List Byte
  done : Nat := 0
  data : List Byte := []
  deriving DecidableEq, Repr

/-- The whole machine. `leadSlot` is the active slot of a quarter that led last (R37), `passBusy` the clk before which a second pass
holds its quarter (R45), `grants` the world that each path of a split tile serves in this clk (R354), `lineWants` the absent register
lines that waves wait for (R78). `issuedNow` holds the quarters that have issued in this clk; `owed` the steps of other agents that
must be taken before a new round begins, and `leeway` the turns of this round that are still free. `shaped` holds the partitions
whose run of the quiesce protocol has made its change of shape, or makes none (R421). `certParts` holds what has arrived of a certificate
that comes in parts (R454), by slot. -/
structure State where
  /- the issue stage -/
  wv : Wave := {}
  pre : Wave := {}
  bk : Block := {}
  cur : Cur := {}
  /- blocks and launches -/
  blocks : Tab Block := []
  launches : Tab Launch := []
  nextUid : Nat := 1
  leadSlot : Tab Nat := []
  forcedAt : Tab Nat := []
  grants : Tab Nat := []
  passBusy : Tab Nat := []
  rcache : List RLine := []
  lineWants : List (Nat × Nat × Nat) := []
  /- memory -/
  mem : List Host.Cell := []
  writes : List PWrite := []
  nextWrite : Nat := 1
  observed : Tab (List (Nat × Nat)) := []
  ucopies : List UPart := []
  stale : Tab (Option Copy) := []
  marks : List Nat := []
  ptag : Tab Nat := []
  leaving : List Leaving := []
  /- translation -/
  tlb : List TlbE := []
  walks : List (Nat × Nat × Nat × Nat) := []
  locks : List MigLock := []
  icache : List ICell := []
  /- engines -/
  eng : Tab Eng := []
  jobs : List Job := []
  pairEng : Tab PairEng := []
  mqueue : Tab (List MEntry) := []
  starts : List StartPhase := []
  /- fabric -/
  routes : Tab Route := []
  fab : List FabOp := []
  ams : List AmMsg := []
  inboxes : Tab (List Msg) := []
  amWaits : List AmWait := []
  sems : Tab Sem := []
  batches : List Batch := []
  batchSeq : Tab Nat := []
  /- per-context tables and the maintenance space -/
  ctxWords : Tab W64 := []
  maint : Tab W64 := []
  pslots : Tab Nat := []
  coresWere : Tab (List (Nat × Nat × Nat × Nat)) := []
  lost : List LostCore := []
  shaped : List Nat := []
  keys : Tab (Option KeyRec) := []
  keyGen : Nat := 1
  featWritten : Bool := false
  freqAt : Nat := 0
  hbmFails : Tab Nat := []
  egReq : Tab Nat := []
  idPassed : List Nat := []
  secOp : Nat := 0
  vstore : List (Nat × List Byte) := []
  /- host-facing -/
  vfr : Tab W64 := []
  msix : Tab W64 := []
  irqs : List (Nat × Nat) := []
  tdi : Tab Nat := []
  resetting : List Nat := []
  reports : Tab (List Byte) := []
  replay : List (Nat × Nat × List Byte) := []
  inbound : List Inbound := []
  /-- Doorbells that await earlier posted writes of their host (R436): the partition, the value written, those writes. -/
  bells : List (Nat × W64 × List Inbound) := []
  tearing : List Nat := []
  drones : List (Nat × Nat) := []
  certs : Tab (List Byte) := []
  certParts : Tab (List Byte) := []
  spdmVersion : Tab Nat := []
  spdmReqs : List SpdmReq := []
  reply : List Byte := []
  mepJob : Option MepJob := none
  sysLost : Bool := false
  /- time and the order of agents -/
  clk : Nat := 0
  issuedNow : List Nat := []
  picks : Nat := 0
  owed : List Instr := []
  leeway : Nat := 0
  agenda : List Instr := []
  deriving DecidableEq, Repr

/-- The machine right after module reset (R411, R464): no wave runs, memory lists nothing, no write is in flight,
every maintenance register reads its reset value (an unlisted one reads `regReset` of Machine/Regs.lean), every table
is at its reset value. The model's own fields (the issue stage, agenda, clk) are empty: assumption 8. -/
def State.reset : State := {}

end Sys2Proof.Machine
end

