-- ==== Sys2Proof/WellFormed.lean ====
section
/-! DEFINITION. What makes an instruction well formed: the kind and pipe of each instruction, the extension words it
accepts, and the limits of its fields (R166 to R174, and each entry's own). A word that breaks one raises
ILLEGAL_INSTRUCTION (R171). -/

namespace Sys2Proof

/-- The kinds of instruction (02, R39, R40). -/
inductive Kind where
  | perThread | waveLevel | memberMasked
  deriving DecidableEq, Repr

/-- The pipes (R162). -/
inductive Pipe where
  | s | v | f | m | x
  deriving DecidableEq, Repr

/-- What the third source of an instruction is (R169). -/
inductive Third where
  | no | vector | predicate
  deriving DecidableEq, Repr

/-- What an instruction's entry says of it: kind, pipe, and the extension words it accepts. -/
structure Shape where
  kind : Kind
  pipe : Option Pipe
  modifier : Bool
  round : Bool
  rne : Bool
  third : Third
  immediate : Bool
  deriving DecidableEq, Repr

/-- No modifier word, per-thread (`nop`, format B). -/
def Shape.bare (p : Option Pipe) : Shape := ⟨.perThread, p, false, false, false, .no, false⟩
/-- No modifier word, wave-level (`li`, `bw`, `bt.u`). -/
def Shape.bareWave (p : Pipe) : Shape := ⟨.waveLevel, some p, false, false, false, .no, false⟩
/-- Per-thread, accepting k, p and pn. -/
def Shape.thread (p : Pipe) : Shape := ⟨.perThread, some p, true, false, false, .no, false⟩
/-- Wave-level, accepting absent values only. -/
def Shape.wave (p : Pipe) : Shape := ⟨.waveLevel, some p, true, false, false, .no, false⟩
/-- Member-masked, accepting k (R213). -/
def Shape.member : Shape := ⟨.memberMasked, some .v, true, false, false, .no, false⟩
def Shape.withImm (s : Shape) : Shape := { s with immediate := true }
def Shape.withRound (s : Shape) : Shape := { s with round := true }
def Shape.withRne (s : Shape) : Shape := { s with rne := true }
def Shape.withThird (s : Shape) (t : Third) : Shape := { s with third := t }

/-- Is special register `n` held per lane (R71)? -/
def laneHeld (n : Nat) : Bool := n == 2 || n == 6 || n == 11

/-- Is `n` the number of a special register (R71)? -/
def srAssigned (n : Nat) : Bool := n ≤ 12 || (16 ≤ n && n ≤ 19) || (32 ≤ n && n ≤ 35)

/-- May `swr` write special register `n` (R190)? -/
def srWritable (n : Nat) : Bool := n == 10 || n == 12 || (16 ≤ n && n ≤ 19)

/-- The immediate of format I (R168): imm11, or imm25 : imm11 with an immediate word. -/
def immI (h : Hdr) (i : BitVec 11) : Int :=
  match h.imm with
  | none => i.toInt
  | some j => j.toInt * 2 ^ 11 + (i.toNat : Int)

/-- The immediate of formats L and B (R168): imm20 or imm25 : imm20. -/
def immL (h : Hdr) (i : BitVec 20) : Int :=
  match h.imm with
  | none => i.toInt
  | some j => j.toInt * 2 ^ 20 + (i.toNat : Int)

/-- The displacement of formats M and A (R168, R227). -/
def dispOf (h : Hdr) : Int :=
  match h.imm with
  | none => 0
  | some j => j.toInt

/-- Is a shift immediate from 0 to `n` − 1 (R194, R206)? -/
def immBelow (v : Int) (n : Nat) : Bool := 0 ≤ v && v < (n : Int)

/-- The shape of each instruction (R182, R203, R225, R253, R317, R371); a step of another agent has none. -/
def Instr.shape : Instr → Option Shape
  | .nop _ => some (Shape.bare none)
  | .nap _ => some (Shape.wave .s)
  | .exitT _ => some (Shape.thread .s)
  | .brk _ _ => some (Shape.thread .s)
  | .trapN _ _ => some (Shape.thread .s)
  | .srd _ _ a => some (if laneHeld a.toNat then Shape.thread .s else Shape.wave .s)
  | .swr _ _ _ => some (Shape.wave .s)
  | .clkadd _ _ => some (Shape.wave .s)
  | .svc _ _ _ _ _ => some (Shape.thread .m)
  | .add _ _ _ _ => some (Shape.wave .s)
  | .sub _ _ _ _ => some (Shape.wave .s)
  | .mul _ _ _ _ => some (Shape.wave .s)
  | .mulh _ _ _ _ => some (Shape.wave .s)
  | .mulhn _ _ _ _ => some (Shape.wave .s)
  | .div _ _ _ _ => some (Shape.wave .s)
  | .divn _ _ _ _ => some (Shape.wave .s)
  | .rem _ _ _ _ => some (Shape.wave .s)
  | .remn _ _ _ _ => some (Shape.wave .s)
  | .andS _ _ _ _ => some (Shape.wave .s)
  | .orS _ _ _ _ => some (Shape.wave .s)
  | .xorS _ _ _ _ => some (Shape.wave .s)
  | .andn _ _ _ _ => some (Shape.wave .s)
  | .shl _ _ _ _ => some (Shape.wave .s)
  | .shr _ _ _ _ => some (Shape.wave .s)
  | .sra _ _ _ _ => some (Shape.wave .s)
  | .rol _ _ _ _ => some (Shape.wave .s)
  | .ror _ _ _ _ => some (Shape.wave .s)
  | .minS _ _ _ _ => some (Shape.wave .s)
  | .maxS _ _ _ _ => some (Shape.wave .s)
  | .minn _ _ _ _ => some (Shape.wave .s)
  | .maxn _ _ _ _ => some (Shape.wave .s)
  | .clz _ _ _ => some (Shape.wave .s)
  | .ctz _ _ _ => some (Shape.wave .s)
  | .popc _ _ _ => some (Shape.wave .s)
  | .brev _ _ _ => some (Shape.wave .s)
  | .sext _ _ _ _ => some (Shape.wave .s)
  | .zext _ _ _ _ => some (Shape.wave .s)
  | .cmp _ _ _ _ => some (Shape.wave .s)
  | .clmul _ _ _ _ => some (Shape.wave .s)
  | .clmulh _ _ _ _ => some (Shape.wave .s)
  | .mov _ _ _ => some (Shape.wave .s)
  | .addi _ _ _ _ => some ((Shape.wave .s).withImm)
  | .andi _ _ _ _ => some ((Shape.wave .s).withImm)
  | .ori _ _ _ _ => some ((Shape.wave .s).withImm)
  | .xori _ _ _ _ => some ((Shape.wave .s).withImm)
  | .shli _ _ _ _ => some ((Shape.wave .s).withImm)
  | .shri _ _ _ _ => some ((Shape.wave .s).withImm)
  | .srai _ _ _ _ => some ((Shape.wave .s).withImm)
  | .cmpi _ _ _ _ => some ((Shape.wave .s).withImm)
  | .li _ _ _ => some ((Shape.bareWave .s).withImm)
  | .bt _ u _ _ => some ((if u then Shape.bareWave .s else Shape.bare (some .s)).withImm)
  | .bw _ _ _ => some ((Shape.bareWave .s).withImm)
  | .call _ _ => some ((Shape.bare (some .s)).withImm)
  | .btn _ u _ _ => some ((if u then Shape.bareWave .s else Shape.bare (some .s)).withImm)
  | .jr _ _ _ => some (Shape.thread .s)
  | .callr _ _ _ => some (Shape.thread .s)
  | .ret _ => some (Shape.thread .s)
  | .addI32 _ _ _ _ _ _ => some (Shape.thread .v)
  | .subI32 _ _ _ _ _ _ => some (Shape.thread .v)
  | .mulI32 _ _ _ _ _ _ => some (Shape.thread .v)
  | .mulhI32 _ _ _ _ _ _ => some (Shape.thread .v)
  | .mulhnI32 _ _ _ _ _ _ => some (Shape.thread .v)
  | .minI32 _ _ _ _ _ _ => some (Shape.thread .v)
  | .maxI32 _ _ _ _ _ _ => some (Shape.thread .v)
  | .minnI32 _ _ _ _ _ _ => some (Shape.thread .v)
  | .maxnI32 _ _ _ _ _ _ => some (Shape.thread .v)
  | .absI32 _ _ _ _ => some (Shape.thread .v)
  | .negI32 _ _ _ _ => some (Shape.thread .v)
  | .andI32 _ _ _ _ _ _ => some (Shape.thread .v)
  | .orI32 _ _ _ _ _ _ => some (Shape.thread .v)
  | .xorI32 _ _ _ _ _ _ => some (Shape.thread .v)
  | .andnI32 _ _ _ _ _ _ => some (Shape.thread .v)
  | .notI32 _ _ _ _ => some (Shape.thread .v)
  | .shlI32 _ _ _ _ _ _ => some (Shape.thread .v)
  | .shrI32 _ _ _ _ _ _ => some (Shape.thread .v)
  | .sraI32 _ _ _ _ _ _ => some (Shape.thread .v)
  | .clzI32 _ _ _ _ => some (Shape.thread .v)
  | .popcI32 _ _ _ _ => some (Shape.thread .v)
  | .brevI32 _ _ _ _ => some (Shape.thread .v)
  | .addsI32 _ _ _ _ _ _ => some (Shape.thread .v)
  | .subsI32 _ _ _ _ _ _ => some (Shape.thread .v)
  | .addsnI32 _ _ _ _ _ _ => some (Shape.thread .v)
  | .subsnI32 _ _ _ _ _ _ => some (Shape.thread .v)
  | .cmpeqI32 _ _ _ _ _ _ => some (Shape.thread .v)
  | .cmpneI32 _ _ _ _ _ _ => some (Shape.thread .v)
  | .cmpltI32 _ _ _ _ _ _ => some (Shape.thread .v)
  | .cmpleI32 _ _ _ _ _ _ => some (Shape.thread .v)
  | .cmpltnI32 _ _ _ _ _ _ => some (Shape.thread .v)
  | .cmplenI32 _ _ _ _ _ _ => some (Shape.thread .v)
  | .selI32 _ _ _ _ _ _ => some ((Shape.thread .v).withThird .predicate)
  | .movI32 _ _ _ _ => some (Shape.thread .v)
  | .movsI32 _ _ _ => some (Shape.thread .v)
  | .vclmul _ _ _ _ _ _ => some (Shape.thread .v)
  | .vclmulh _ _ _ _ _ _ => some (Shape.thread .v)
  | .madI32 _ _ _ _ _ _ => some ((Shape.thread .v).withThird .vector)
  | .addiI32 _ _ _ _ => some ((Shape.thread .v).withImm)
  | .andiI32 _ _ _ _ => some ((Shape.thread .v).withImm)
  | .oriI32 _ _ _ _ => some ((Shape.thread .v).withImm)
  | .xoriI32 _ _ _ _ => some ((Shape.thread .v).withImm)
  | .shliI32 _ _ _ _ => some ((Shape.thread .v).withImm)
  | .shriI32 _ _ _ _ => some ((Shape.thread .v).withImm)
  | .sraiI32 _ _ _ _ => some ((Shape.thread .v).withImm)
  | .liiI32 _ _ _ => some ((Shape.thread .v).withImm)
  | .addF32 _ _ _ _ _ _ => some ((Shape.thread .v).withRound)
  | .subF32 _ _ _ _ _ _ => some ((Shape.thread .v).withRound)
  | .mulF32 _ _ _ _ _ _ => some ((Shape.thread .v).withRound)
  | .fmaF32 _ _ _ _ _ _ => some (((Shape.thread .v).withRound).withThird .vector)
  | .fmsF32 _ _ _ _ _ _ => some (((Shape.thread .v).withRound).withThird .vector)
  | .minF32 _ _ _ _ _ _ => some (Shape.thread .v)
  | .maxF32 _ _ _ _ _ _ => some (Shape.thread .v)
  | .absF32 _ _ _ _ => some (Shape.thread .v)
  | .negF32 _ _ _ _ => some (Shape.thread .v)
  | .cmpeqF32 _ _ _ _ _ _ => some (Shape.thread .v)
  | .cmpltF32 _ _ _ _ _ _ => some (Shape.thread .v)
  | .cmpleF32 _ _ _ _ _ _ => some (Shape.thread .v)
  | .cmpunF32 _ _ _ _ _ _ => some (Shape.thread .v)
  | .copysignF32 _ _ _ _ _ _ => some (Shape.thread .v)
  | .addH2 _ _ _ _ _ _ => some ((Shape.thread .v).withRound)
  | .subH2 _ _ _ _ _ _ => some ((Shape.thread .v).withRound)
  | .mulH2 _ _ _ _ _ _ => some ((Shape.thread .v).withRound)
  | .fmaH2 _ _ _ _ _ _ => some (((Shape.thread .v).withRound).withThird .vector)
  | .minH2 _ _ _ _ _ _ => some (Shape.thread .v)
  | .maxH2 _ _ _ _ _ _ => some (Shape.thread .v)
  | .absH2 _ _ _ _ => some (Shape.thread .v)
  | .addBf2 _ _ _ _ _ _ => some ((Shape.thread .v).withRound)
  | .subBf2 _ _ _ _ _ _ => some ((Shape.thread .v).withRound)
  | .mulBf2 _ _ _ _ _ _ => some ((Shape.thread .v).withRound)
  | .fmaBf2 _ _ _ _ _ _ => some (((Shape.thread .v).withRound).withThird .vector)
  | .minBf2 _ _ _ _ _ _ => some (Shape.thread .v)
  | .maxBf2 _ _ _ _ _ _ => some (Shape.thread .v)
  | .absBf2 _ _ _ _ => some (Shape.thread .v)
  | .cvtF32I32 _ _ _ _ => some ((Shape.thread .f).withRound)
  | .cvtI32F32 _ _ _ _ => some ((Shape.thread .f).withRound)
  | .cvtF32N32 _ _ _ _ => some ((Shape.thread .f).withRound)
  | .cvtN32F32 _ _ _ _ => some ((Shape.thread .f).withRound)
  | .cvtBf2F32 _ _ _ _ => some ((Shape.thread .f).withRound)
  | .cvtF32Bf _ _ _ _ => some (Shape.thread .f)
  | .cvtH2F32 _ _ _ _ => some ((Shape.thread .f).withRound)
  | .cvtF32H _ _ _ _ => some (Shape.thread .f)
  | .cvtE4x4F32 _ _ _ _ => some ((Shape.thread .f).withRound)
  | .cvtF32E4 _ _ _ _ => some (Shape.thread .f)
  | .cvtE5x4F32 _ _ _ _ => some ((Shape.thread .f).withRound)
  | .cvtF32E5 _ _ _ _ => some (Shape.thread .f)
  | .cvtQ4F32 _ _ _ _ _ _ => some ((Shape.thread .f).withRound)
  | .cvtF32Q4 _ _ _ _ _ _ => some (Shape.thread .f)
  | .rintF32 _ _ _ _ => some ((Shape.thread .f).withRound)
  | .rcp _ _ _ _ => some ((Shape.thread .f).withRne)
  | .sqrt _ _ _ _ => some ((Shape.thread .f).withRne)
  | .rsqrt _ _ _ _ => some ((Shape.thread .f).withRne)
  | .exp2 _ _ _ _ => some ((Shape.thread .f).withRne)
  | .log2 _ _ _ _ => some ((Shape.thread .f).withRne)
  | .sinpi _ _ _ _ => some ((Shape.thread .f).withRne)
  | .cospi _ _ _ _ => some ((Shape.thread .f).withRne)
  | .shfl _ _ _ _ _ _ => some (Shape.member)
  | .shfli _ _ _ _ _ => some (Shape.member)
  | .bfly _ _ _ _ _ => some (Shape.member)
  | .bcast _ _ _ _ _ => some (Shape.member)
  | .xredAdd _ _ _ _ => some (Shape.member)
  | .xredAddf _ _ _ _ => some (Shape.member)
  | .xredMin _ _ _ _ => some (Shape.member)
  | .xredMax _ _ _ _ => some (Shape.member)
  | .xredMinf _ _ _ _ => some (Shape.member)
  | .xredMaxf _ _ _ _ => some (Shape.member)
  | .xredAnd _ _ _ _ => some (Shape.member)
  | .xredOr _ _ _ _ => some (Shape.member)
  | .xredXor _ _ _ _ => some (Shape.member)
  | .scanAdd _ _ _ _ => some (Shape.member)
  | .scanAddf _ _ _ _ => some (Shape.member)
  | .scanXor _ _ _ _ => some (Shape.member)
  | .scanMax _ _ _ _ => some (Shape.member)
  | .matchB _ _ _ _ => some (Shape.member)
  | .matchf _ _ _ _ => some (Shape.member)
  | .ballot _ _ _ => some (Shape.member)
  | .voteAny _ _ _ => some (Shape.member)
  | .voteAll _ _ _ => some (Shape.member)
  | .kand _ _ _ _ => some (Shape.wave .s)
  | .kor _ _ _ _ => some (Shape.wave .s)
  | .kxor _ _ _ _ => some (Shape.wave .s)
  | .knot _ _ _ => some (Shape.wave .s)
  | .kmov _ _ _ => some (Shape.wave .s)
  | .kfromp _ _ _ => some (Shape.wave .s)
  | .ktop _ _ _ => some (Shape.wave .s)
  | .kpop _ _ _ => some (Shape.wave .s)
  | .kfirst _ _ _ => some (Shape.wave .s)
  | .kfs _ _ _ => some (Shape.wave .s)
  | .ksk _ _ _ => some (Shape.wave .s)
  | .draw _ _ _ => some (Shape.thread .v)
  | .rhash _ _ _ _ _ _ => some ((Shape.thread .v).withThird .vector)
  | .sdiset _ _ _ => some (Shape.thread .v)
  | .sdiget _ _ => some (Shape.thread .v)
  | .ldB _ _ _ _ _ _ => some ((Shape.thread .m).withImm)
  | .ldBn _ _ _ _ _ _ => some ((Shape.thread .m).withImm)
  | .ldH _ _ _ _ _ _ => some ((Shape.thread .m).withImm)
  | .ldHn _ _ _ _ _ _ => some ((Shape.thread .m).withImm)
  | .ldW _ _ _ _ _ _ => some ((Shape.thread .m).withImm)
  | .ldD _ _ _ _ _ _ => some ((Shape.thread .m).withImm)
  | .ldDec _ _ _ _ _ _ => some ((Shape.thread .m).withImm)
  | .ldRaw _ _ _ _ _ _ => some ((Shape.thread .m).withImm)
  | .stB _ _ _ _ _ _ => some ((Shape.thread .m).withImm)
  | .stH _ _ _ _ _ _ => some ((Shape.thread .m).withImm)
  | .stW _ _ _ _ _ _ => some ((Shape.thread .m).withImm)
  | .stD _ _ _ _ _ _ => some ((Shape.thread .m).withImm)
  | .stRaw _ _ _ _ _ _ => some ((Shape.thread .m).withImm)
  | .sldW _ _ _ _ _ => some (Shape.thread .m)
  | .sldH _ _ _ _ _ => some (Shape.thread .m)
  | .sldB _ _ _ _ _ => some (Shape.thread .m)
  | .sstW _ _ _ _ _ => some (Shape.thread .m)
  | .sstH _ _ _ _ _ => some (Shape.thread .m)
  | .sstB _ _ _ _ _ => some (Shape.thread .m)
  | .bdecl _ _ _ => some (Shape.wave .m)
  | .bsetEmpty _ _ => some (Shape.wave .m)
  | .bsetFull _ _ => some (Shape.wave .m)
  | .bstat _ _ _ => some (Shape.wave .m)
  | .sldDec _ _ _ _ _ => some (Shape.thread .m)
  | .atomAdd _ _ _ _ _ => some ((Shape.thread .m).withImm)
  | .atomAddD _ _ _ _ _ => some ((Shape.thread .m).withImm)
  | .atomMin _ _ _ _ _ => some ((Shape.thread .m).withImm)
  | .atomMax _ _ _ _ _ => some ((Shape.thread .m).withImm)
  | .atomMinn _ _ _ _ _ => some ((Shape.thread .m).withImm)
  | .atomMaxn _ _ _ _ _ => some ((Shape.thread .m).withImm)
  | .atomAnd _ _ _ _ _ => some ((Shape.thread .m).withImm)
  | .atomOr _ _ _ _ _ => some ((Shape.thread .m).withImm)
  | .atomXor _ _ _ _ _ => some ((Shape.thread .m).withImm)
  | .atomXchg _ _ _ _ _ => some ((Shape.thread .m).withImm)
  | .atomCas _ _ _ _ _ => some ((Shape.thread .m).withImm)
  | .atomCasD _ _ _ _ _ => some ((Shape.thread .m).withImm)
  | .atomFadd _ _ _ _ _ => some ((Shape.thread .m).withImm)
  | .atomFaddBf2 _ _ _ _ _ => some ((Shape.thread .m).withImm)
  | .atomFmin _ _ _ _ _ => some ((Shape.thread .m).withImm)
  | .atomFmax _ _ _ _ _ => some ((Shape.thread .m).withImm)
  | .redAdd _ _ _ _ _ => some ((Shape.thread .m).withImm)
  | .redAddD _ _ _ _ _ => some ((Shape.thread .m).withImm)
  | .redMin _ _ _ _ _ => some ((Shape.thread .m).withImm)
  | .redMax _ _ _ _ _ => some ((Shape.thread .m).withImm)
  | .redMinn _ _ _ _ _ => some ((Shape.thread .m).withImm)
  | .redMaxn _ _ _ _ _ => some ((Shape.thread .m).withImm)
  | .redAnd _ _ _ _ _ => some ((Shape.thread .m).withImm)
  | .redOr _ _ _ _ _ => some ((Shape.thread .m).withImm)
  | .redXor _ _ _ _ _ => some ((Shape.thread .m).withImm)
  | .redFadd _ _ _ _ _ => some ((Shape.thread .m).withImm)
  | .redFaddBf2 _ _ _ _ _ => some ((Shape.thread .m).withImm)
  | .fenceAcq _ _ => some (Shape.thread .m)
  | .fenceRel _ _ => some (Shape.thread .m)
  | .fenceFull _ _ => some (Shape.thread .m)
  | .ifb _ => some (Shape.thread .m)
  | .bar _ _ => some (Shape.wave .m)
  | .barArv _ _ => some (Shape.wave .m)
  | .barWt _ _ => some (Shape.wave .m)
  | .semSig _ _ _ => some (Shape.wave .m)
  | .semWait _ _ _ => some (Shape.wave .m)
  | .tlwait _ _ _ _ => some (Shape.thread .m)
  | .txb _ _ => some (Shape.thread .m)
  | .txe _ => some (Shape.thread .m)
  | .txa _ _ => some (Shape.thread .m)
  | .wlput _ _ _ _ _ _ => some (Shape.thread .m)
  | .wlget _ _ => some (Shape.thread .m)
  | .amrecv _ _ _ => some (Shape.thread .m)
  | .bwaitDrained _ _ => some (Shape.thread .m)
  | .bwaitFull _ _ => some (Shape.thread .m)
  | .mmaBf _ _ _ _ _ _ => some (Shape.wave .x)
  | .mmaH _ _ _ _ _ _ => some (Shape.wave .x)
  | .mmaE4 _ _ _ _ _ _ => some (Shape.wave .x)
  | .mmaE5 _ _ _ _ _ _ => some (Shape.wave .x)
  | .mmaE4e5 _ _ _ _ _ _ => some (Shape.wave .x)
  | .mmaQ4 _ _ _ _ _ _ => some (Shape.wave .x)
  | .mmaI8 _ _ _ _ _ _ => some (Shape.wave .x)
  | .mzero _ _ => some (Shape.wave .x)
  | .mld _ _ _ _ => some (Shape.wave .x)
  | .mstReg _ _ _ => some (Shape.wave .x)
  | .mstBuf _ _ _ _ => some (Shape.wave .x)
  | .mwait _ _ => some (Shape.wave .x)
  | .mloop _ _ _ _ => some (Shape.wave .x)
  | .mconv _ _ _ _ => some (Shape.wave .x)
  | .kick _ _ _ _ => some (Shape.wave .x)
  | .vchain _ _ _ _ => some (Shape.wave .x)
  | .pair _ _ _ _ => some (Shape.wave .x)
  | .pairResume _ _ _ _ => some (Shape.wave .x)
  | .lnch _ _ _ _ => some (Shape.wave .x)
  | .estat _ _ _ _ => some (Shape.wave .x)
  | .csend _ _ _ _ => some (Shape.wave .x)
  | .crecv _ _ _ _ => some (Shape.wave .x)
  | .cred _ _ _ _ => some (Shape.wave .x)
  | .amsend _ _ _ _ _ => some (Shape.wave .x)
  | .rfe _ _ => some (Shape.wave .s)
  | .resume _ _ => some (Shape.wave .s)
  | .ctxrd _ _ _ _ => some (Shape.wave .s)
  | .ctxwr _ _ _ _ => some (Shape.wave .s)
  | .tlbinv _ _ _ _ => some (Shape.wave .s)
  | .psrd _ _ _ => some (Shape.wave .s)
  | .pswr _ _ _ => some (Shape.wave .s)
  | .idle _ _ => some (Shape.wave .s)
  | .rtwr _ _ _ => some (Shape.wave .s)
  | .sealBlock _ _ => some (Shape.wave .s)
  | .halt _ _ => some (Shape.wave .s)
  | .wake _ _ => some (Shape.wave .s)
  | .memoryWritePerform _ => none
  | .atomicPerform _ _ _ _ => none
  | .txCommitValidate _ _ _ => none
  | .wlputAnswer _ _ => none
  | .launchQuiet _ => none
  | .mstBufferComplete _ => none
  | .matrixOpComplete _ => none
  | .streamStartPhaseEnd _ _ => none
  | .copyJobStart _ _ _ => none
  | .fillSectorArrival _ _ _ _ => none
  | .copyJobRetire _ _ _ => none
  | .chainJobRetire _ _ _ => none
  | .pairJobStart _ => none
  | .pairJobSuspend _ _ _ => none
  | .pairJobRetire _ _ _ => none
  | .fabricInstanceComplete _ _ _ => none
  | .amArrival _ => none
  | .amsendJobRetire _ _ _ => none
  | .packetDecode _ _ _ => none
  | .waveSwap _ _ => none
  | .forcedSwap _ => none
  | .replyWrite _ _ _ _ _ => none
  | .regLineFill _ _ _ => none
  | .pageWalk _ _ _ _ => none
  | .commitTokenHandoff _ => none
  | .asyncCauseTake _ => none
  | .qtailWrite _ _ _ _ _ => none
  | .queueEnable _ _ _ _ _ => none
  | .queueDisable _ _ _ _ _ => none
  | .queueRetry _ _ _ _ _ => none
  | .queueSkip _ _ _ _ _ => none
  | .launchTake _ _ _ => none
  | .blockPlace _ _ => none
  | .blockEnd _ => none
  | .launchComplete _ => none
  | .preempt _ => none
  | .blockHalt _ _ => none
  | .blockStopped _ => none
  | .droneWrite _ _ _ _ _ => none
  | .dronePlace _ _ => none
  | .watchdog _ => none
  | .externalStall _ _ => none
  | .repeatTrap _ => none
  | .flitDrop _ _ _ _ => none
  | .tlbinvJobComplete _ _ _ => none
  | .contextTeardown _ => none
  | .splitcfgWrite _ _ _ _ => none
  | .semownWrite _ _ _ _ => none
  | .pstateCmdRun _ _ _ => none
  | .pstateCmdFreeze _ _ _ => none
  | .pstateCmdStop _ _ _ => none
  | .pstateCmdDrain _ _ _ => none
  | .pstateCmdFlush _ _ _ => none
  | .pstateCmdRemap _ _ _ => none
  | .quiesceStateDone _ => none
  | .tileProbe _ _ => none
  | .shapereqGrow _ _ => none
  | .shapereqShrink _ _ => none
  | .shapereqCompact _ _ => none
  | .shapereqMigrate _ _ => none
  | .doorbell _ _ => none
  | .killWave _ _ => none
  | .killBlock _ _ => none
  | .partitionReset _ => none
  | .partitionResetComplete _ => none
  | .ldReset _ => none
  | .stopInterface _ => none
  | .msixUnmask _ _ => none
  | .inboundMemoryRequest _ => none
  | .feataccWrite _ _ _ => none
  | .keyCreate _ _ => none
  | .keyDestroy _ _ => none
  | .edgeReqOff _ _ _ => none
  | .edgeReqCxl _ _ _ => none
  | .edgeReqUalink _ _ _ => none
  | .edgeReqUltraEthernet _ _ _ => none
  | .edgeDrainComplete _ => none
  | .edgeTrainComplete _ _ _ => none
  | .edgeTrainTimeout _ => none
  | .edgeEnumComplete _ => none
  | .linkLost _ => none
  | .hbmReset _ _ _ => none
  | .hbmZqcal _ _ _ => none
  | .hbmCatrain _ _ _ => none
  | .hbmRdtrain _ _ _ => none
  | .hbmWrtrain _ _ _ => none
  | .hbmRepair _ _ _ => none
  | .hbmMemtest _ _ _ => none
  | .hbmEnable _ _ _ => none
  | .hbmOpComplete _ _ _ => none
  | .patrolScrub _ _ _ => none
  | .bistGo _ _ => none
  | .bistComplete _ => none
  | .timeRun _ _ => none
  | .freqChangeRequest _ _ => none
  | .freqChangeApply => none
  | .limiterCheck _ _ => none
  | .thermalTrip _ _ => none
  | .railWrite _ _ _ => none
  | .railPgood _ _ => none
  | .idcheck _ _ => none
  | .verifyxip _ _ => none
  | .securityOpComplete _ _ => none
  | .xipLock _ _ => none
  | .loadgo _ _ => none
  | .rimrun _ _ => none
  | .moduleReset => none
  | .mepRead _ => none
  | .mepWrite _ => none
  | .mepReset _ => none
  | .getVersion _ _ => none
  | .getCapabilities _ _ => none
  | .negotiateAlgorithms _ _ => none
  | .getDigests _ _ => none
  | .getCertificate _ _ => none
  | .challenge _ _ => none
  | .getMeasurements _ _ _ => none
  | .setCertificate _ _ => none
  | .registerWrite _ _ _ => none
  | .reservedEncodingIssue _ => none
  | .powerOn => none
  | .idleTimeReached _ _ => none
  | .ualinkSemaphoreDoorbell _ _ => none
  | .mepBadcmd _ => none
  | .tdispLockInterface _ => none
  | .tdispStartInterface _ => none

/-- The header of an encoded instruction. -/
def Instr.hdr : Instr → Hdr
  | .nop h => h
  | .nap h => h
  | .exitT h => h
  | .brk h _ => h
  | .trapN h _ => h
  | .srd h _ _ => h
  | .swr h _ _ => h
  | .clkadd h _ => h
  | .svc h _ _ _ _ => h
  | .add h _ _ _ => h
  | .sub h _ _ _ => h
  | .mul h _ _ _ => h
  | .mulh h _ _ _ => h
  | .mulhn h _ _ _ => h
  | .div h _ _ _ => h
  | .divn h _ _ _ => h
  | .rem h _ _ _ => h
  | .remn h _ _ _ => h
  | .andS h _ _ _ => h
  | .orS h _ _ _ => h
  | .xorS h _ _ _ => h
  | .andn h _ _ _ => h
  | .shl h _ _ _ => h
  | .shr h _ _ _ => h
  | .sra h _ _ _ => h
  | .rol h _ _ _ => h
  | .ror h _ _ _ => h
  | .minS h _ _ _ => h
  | .maxS h _ _ _ => h
  | .minn h _ _ _ => h
  | .maxn h _ _ _ => h
  | .clz h _ _ => h
  | .ctz h _ _ => h
  | .popc h _ _ => h
  | .brev h _ _ => h
  | .sext h _ _ _ => h
  | .zext h _ _ _ => h
  | .cmp h _ _ _ => h
  | .clmul h _ _ _ => h
  | .clmulh h _ _ _ => h
  | .mov h _ _ => h
  | .addi h _ _ _ => h
  | .andi h _ _ _ => h
  | .ori h _ _ _ => h
  | .xori h _ _ _ => h
  | .shli h _ _ _ => h
  | .shri h _ _ _ => h
  | .srai h _ _ _ => h
  | .cmpi h _ _ _ => h
  | .li h _ _ => h
  | .bt h _ _ _ => h
  | .bw h _ _ => h
  | .call h _ => h
  | .btn h _ _ _ => h
  | .jr h _ _ => h
  | .callr h _ _ => h
  | .ret h => h
  | .addI32 h _ _ _ _ _ => h
  | .subI32 h _ _ _ _ _ => h
  | .mulI32 h _ _ _ _ _ => h
  | .mulhI32 h _ _ _ _ _ => h
  | .mulhnI32 h _ _ _ _ _ => h
  | .minI32 h _ _ _ _ _ => h
  | .maxI32 h _ _ _ _ _ => h
  | .minnI32 h _ _ _ _ _ => h
  | .maxnI32 h _ _ _ _ _ => h
  | .absI32 h _ _ _ => h
  | .negI32 h _ _ _ => h
  | .andI32 h _ _ _ _ _ => h
  | .orI32 h _ _ _ _ _ => h
  | .xorI32 h _ _ _ _ _ => h
  | .andnI32 h _ _ _ _ _ => h
  | .notI32 h _ _ _ => h
  | .shlI32 h _ _ _ _ _ => h
  | .shrI32 h _ _ _ _ _ => h
  | .sraI32 h _ _ _ _ _ => h
  | .clzI32 h _ _ _ => h
  | .popcI32 h _ _ _ => h
  | .brevI32 h _ _ _ => h
  | .addsI32 h _ _ _ _ _ => h
  | .subsI32 h _ _ _ _ _ => h
  | .addsnI32 h _ _ _ _ _ => h
  | .subsnI32 h _ _ _ _ _ => h
  | .cmpeqI32 h _ _ _ _ _ => h
  | .cmpneI32 h _ _ _ _ _ => h
  | .cmpltI32 h _ _ _ _ _ => h
  | .cmpleI32 h _ _ _ _ _ => h
  | .cmpltnI32 h _ _ _ _ _ => h
  | .cmplenI32 h _ _ _ _ _ => h
  | .selI32 h _ _ _ _ _ => h
  | .movI32 h _ _ _ => h
  | .movsI32 h _ _ => h
  | .vclmul h _ _ _ _ _ => h
  | .vclmulh h _ _ _ _ _ => h
  | .madI32 h _ _ _ _ _ => h
  | .addiI32 h _ _ _ => h
  | .andiI32 h _ _ _ => h
  | .oriI32 h _ _ _ => h
  | .xoriI32 h _ _ _ => h
  | .shliI32 h _ _ _ => h
  | .shriI32 h _ _ _ => h
  | .sraiI32 h _ _ _ => h
  | .liiI32 h _ _ => h
  | .addF32 h _ _ _ _ _ => h
  | .subF32 h _ _ _ _ _ => h
  | .mulF32 h _ _ _ _ _ => h
  | .fmaF32 h _ _ _ _ _ => h
  | .fmsF32 h _ _ _ _ _ => h
  | .minF32 h _ _ _ _ _ => h
  | .maxF32 h _ _ _ _ _ => h
  | .absF32 h _ _ _ => h
  | .negF32 h _ _ _ => h
  | .cmpeqF32 h _ _ _ _ _ => h
  | .cmpltF32 h _ _ _ _ _ => h
  | .cmpleF32 h _ _ _ _ _ => h
  | .cmpunF32 h _ _ _ _ _ => h
  | .copysignF32 h _ _ _ _ _ => h
  | .addH2 h _ _ _ _ _ => h
  | .subH2 h _ _ _ _ _ => h
  | .mulH2 h _ _ _ _ _ => h
  | .fmaH2 h _ _ _ _ _ => h
  | .minH2 h _ _ _ _ _ => h
  | .maxH2 h _ _ _ _ _ => h
  | .absH2 h _ _ _ => h
  | .addBf2 h _ _ _ _ _ => h
  | .subBf2 h _ _ _ _ _ => h
  | .mulBf2 h _ _ _ _ _ => h
  | .fmaBf2 h _ _ _ _ _ => h
  | .minBf2 h _ _ _ _ _ => h
  | .maxBf2 h _ _ _ _ _ => h
  | .absBf2 h _ _ _ => h
  | .cvtF32I32 h _ _ _ => h
  | .cvtI32F32 h _ _ _ => h
  | .cvtF32N32 h _ _ _ => h
  | .cvtN32F32 h _ _ _ => h
  | .cvtBf2F32 h _ _ _ => h
  | .cvtF32Bf h _ _ _ => h
  | .cvtH2F32 h _ _ _ => h
  | .cvtF32H h _ _ _ => h
  | .cvtE4x4F32 h _ _ _ => h
  | .cvtF32E4 h _ _ _ => h
  | .cvtE5x4F32 h _ _ _ => h
  | .cvtF32E5 h _ _ _ => h
  | .cvtQ4F32 h _ _ _ _ _ => h
  | .cvtF32Q4 h _ _ _ _ _ => h
  | .rintF32 h _ _ _ => h
  | .rcp h _ _ _ => h
  | .sqrt h _ _ _ => h
  | .rsqrt h _ _ _ => h
  | .exp2 h _ _ _ => h
  | .log2 h _ _ _ => h
  | .sinpi h _ _ _ => h
  | .cospi h _ _ _ => h
  | .shfl h _ _ _ _ _ => h
  | .shfli h _ _ _ _ => h
  | .bfly h _ _ _ _ => h
  | .bcast h _ _ _ _ => h
  | .xredAdd h _ _ _ => h
  | .xredAddf h _ _ _ => h
  | .xredMin h _ _ _ => h
  | .xredMax h _ _ _ => h
  | .xredMinf h _ _ _ => h
  | .xredMaxf h _ _ _ => h
  | .xredAnd h _ _ _ => h
  | .xredOr h _ _ _ => h
  | .xredXor h _ _ _ => h
  | .scanAdd h _ _ _ => h
  | .scanAddf h _ _ _ => h
  | .scanXor h _ _ _ => h
  | .scanMax h _ _ _ => h
  | .matchB h _ _ _ => h
  | .matchf h _ _ _ => h
  | .ballot h _ _ => h
  | .voteAny h _ _ => h
  | .voteAll h _ _ => h
  | .kand h _ _ _ => h
  | .kor h _ _ _ => h
  | .kxor h _ _ _ => h
  | .knot h _ _ => h
  | .kmov h _ _ => h
  | .kfromp h _ _ => h
  | .ktop h _ _ => h
  | .kpop h _ _ => h
  | .kfirst h _ _ => h
  | .kfs h _ _ => h
  | .ksk h _ _ => h
  | .draw h _ _ => h
  | .rhash h _ _ _ _ _ => h
  | .sdiset h _ _ => h
  | .sdiget h _ => h
  | .ldB h _ _ _ _ _ => h
  | .ldBn h _ _ _ _ _ => h
  | .ldH h _ _ _ _ _ => h
  | .ldHn h _ _ _ _ _ => h
  | .ldW h _ _ _ _ _ => h
  | .ldD h _ _ _ _ _ => h
  | .ldDec h _ _ _ _ _ => h
  | .ldRaw h _ _ _ _ _ => h
  | .stB h _ _ _ _ _ => h
  | .stH h _ _ _ _ _ => h
  | .stW h _ _ _ _ _ => h
  | .stD h _ _ _ _ _ => h
  | .stRaw h _ _ _ _ _ => h
  | .sldW h _ _ _ _ => h
  | .sldH h _ _ _ _ => h
  | .sldB h _ _ _ _ => h
  | .sstW h _ _ _ _ => h
  | .sstH h _ _ _ _ => h
  | .sstB h _ _ _ _ => h
  | .bdecl h _ _ => h
  | .bsetEmpty h _ => h
  | .bsetFull h _ => h
  | .bstat h _ _ => h
  | .sldDec h _ _ _ _ => h
  | .atomAdd h _ _ _ _ => h
  | .atomAddD h _ _ _ _ => h
  | .atomMin h _ _ _ _ => h
  | .atomMax h _ _ _ _ => h
  | .atomMinn h _ _ _ _ => h
  | .atomMaxn h _ _ _ _ => h
  | .atomAnd h _ _ _ _ => h
  | .atomOr h _ _ _ _ => h
  | .atomXor h _ _ _ _ => h
  | .atomXchg h _ _ _ _ => h
  | .atomCas h _ _ _ _ => h
  | .atomCasD h _ _ _ _ => h
  | .atomFadd h _ _ _ _ => h
  | .atomFaddBf2 h _ _ _ _ => h
  | .atomFmin h _ _ _ _ => h
  | .atomFmax h _ _ _ _ => h
  | .redAdd h _ _ _ _ => h
  | .redAddD h _ _ _ _ => h
  | .redMin h _ _ _ _ => h
  | .redMax h _ _ _ _ => h
  | .redMinn h _ _ _ _ => h
  | .redMaxn h _ _ _ _ => h
  | .redAnd h _ _ _ _ => h
  | .redOr h _ _ _ _ => h
  | .redXor h _ _ _ _ => h
  | .redFadd h _ _ _ _ => h
  | .redFaddBf2 h _ _ _ _ => h
  | .fenceAcq h _ => h
  | .fenceRel h _ => h
  | .fenceFull h _ => h
  | .ifb h => h
  | .bar h _ => h
  | .barArv h _ => h
  | .barWt h _ => h
  | .semSig h _ _ => h
  | .semWait h _ _ => h
  | .tlwait h _ _ _ => h
  | .txb h _ => h
  | .txe h => h
  | .txa h _ => h
  | .wlput h _ _ _ _ _ => h
  | .wlget h _ => h
  | .amrecv h _ _ => h
  | .bwaitDrained h _ => h
  | .bwaitFull h _ => h
  | .mmaBf h _ _ _ _ _ => h
  | .mmaH h _ _ _ _ _ => h
  | .mmaE4 h _ _ _ _ _ => h
  | .mmaE5 h _ _ _ _ _ => h
  | .mmaE4e5 h _ _ _ _ _ => h
  | .mmaQ4 h _ _ _ _ _ => h
  | .mmaI8 h _ _ _ _ _ => h
  | .mzero h _ => h
  | .mld h _ _ _ => h
  | .mstReg h _ _ => h
  | .mstBuf h _ _ _ => h
  | .mwait h _ => h
  | .mloop h _ _ _ => h
  | .mconv h _ _ _ => h
  | .kick h _ _ _ => h
  | .vchain h _ _ _ => h
  | .pair h _ _ _ => h
  | .pairResume h _ _ _ => h
  | .lnch h _ _ _ => h
  | .estat h _ _ _ => h
  | .csend h _ _ _ => h
  | .crecv h _ _ _ => h
  | .cred h _ _ _ => h
  | .amsend h _ _ _ _ => h
  | .rfe h _ => h
  | .resume h _ => h
  | .ctxrd h _ _ _ => h
  | .ctxwr h _ _ _ => h
  | .tlbinv h _ _ _ => h
  | .psrd h _ _ => h
  | .pswr h _ _ => h
  | .idle h _ => h
  | .rtwr h _ _ => h
  | .sealBlock h _ => h
  | .halt h _ => h
  | .wake h _ => h
  | .memoryWritePerform _ => {}
  | .atomicPerform _ _ _ _ => {}
  | .txCommitValidate _ _ _ => {}
  | .wlputAnswer _ _ => {}
  | .launchQuiet _ => {}
  | .mstBufferComplete _ => {}
  | .matrixOpComplete _ => {}
  | .streamStartPhaseEnd _ _ => {}
  | .copyJobStart _ _ _ => {}
  | .fillSectorArrival _ _ _ _ => {}
  | .copyJobRetire _ _ _ => {}
  | .chainJobRetire _ _ _ => {}
  | .pairJobStart _ => {}
  | .pairJobSuspend _ _ _ => {}
  | .pairJobRetire _ _ _ => {}
  | .fabricInstanceComplete _ _ _ => {}
  | .amArrival _ => {}
  | .amsendJobRetire _ _ _ => {}
  | .packetDecode _ _ _ => {}
  | .waveSwap _ _ => {}
  | .forcedSwap _ => {}
  | .replyWrite _ _ _ _ _ => {}
  | .regLineFill _ _ _ => {}
  | .pageWalk _ _ _ _ => {}
  | .commitTokenHandoff _ => {}
  | .asyncCauseTake _ => {}
  | .qtailWrite _ _ _ _ _ => {}
  | .queueEnable _ _ _ _ _ => {}
  | .queueDisable _ _ _ _ _ => {}
  | .queueRetry _ _ _ _ _ => {}
  | .queueSkip _ _ _ _ _ => {}
  | .launchTake _ _ _ => {}
  | .blockPlace _ _ => {}
  | .blockEnd _ => {}
  | .launchComplete _ => {}
  | .preempt _ => {}
  | .blockHalt _ _ => {}
  | .blockStopped _ => {}
  | .droneWrite _ _ _ _ _ => {}
  | .dronePlace _ _ => {}
  | .watchdog _ => {}
  | .externalStall _ _ => {}
  | .repeatTrap _ => {}
  | .flitDrop _ _ _ _ => {}
  | .tlbinvJobComplete _ _ _ => {}
  | .contextTeardown _ => {}
  | .splitcfgWrite _ _ _ _ => {}
  | .semownWrite _ _ _ _ => {}
  | .pstateCmdRun _ _ _ => {}
  | .pstateCmdFreeze _ _ _ => {}
  | .pstateCmdStop _ _ _ => {}
  | .pstateCmdDrain _ _ _ => {}
  | .pstateCmdFlush _ _ _ => {}
  | .pstateCmdRemap _ _ _ => {}
  | .quiesceStateDone _ => {}
  | .tileProbe _ _ => {}
  | .shapereqGrow _ _ => {}
  | .shapereqShrink _ _ => {}
  | .shapereqCompact _ _ => {}
  | .shapereqMigrate _ _ => {}
  | .doorbell _ _ => {}
  | .killWave _ _ => {}
  | .killBlock _ _ => {}
  | .partitionReset _ => {}
  | .partitionResetComplete _ => {}
  | .ldReset _ => {}
  | .stopInterface _ => {}
  | .msixUnmask _ _ => {}
  | .inboundMemoryRequest _ => {}
  | .feataccWrite _ _ _ => {}
  | .keyCreate _ _ => {}
  | .keyDestroy _ _ => {}
  | .edgeReqOff _ _ _ => {}
  | .edgeReqCxl _ _ _ => {}
  | .edgeReqUalink _ _ _ => {}
  | .edgeReqUltraEthernet _ _ _ => {}
  | .edgeDrainComplete _ => {}
  | .edgeTrainComplete _ _ _ => {}
  | .edgeTrainTimeout _ => {}
  | .edgeEnumComplete _ => {}
  | .linkLost _ => {}
  | .hbmReset _ _ _ => {}
  | .hbmZqcal _ _ _ => {}
  | .hbmCatrain _ _ _ => {}
  | .hbmRdtrain _ _ _ => {}
  | .hbmWrtrain _ _ _ => {}
  | .hbmRepair _ _ _ => {}
  | .hbmMemtest _ _ _ => {}
  | .hbmEnable _ _ _ => {}
  | .hbmOpComplete _ _ _ => {}
  | .patrolScrub _ _ _ => {}
  | .bistGo _ _ => {}
  | .bistComplete _ => {}
  | .timeRun _ _ => {}
  | .freqChangeRequest _ _ => {}
  | .freqChangeApply => {}
  | .limiterCheck _ _ => {}
  | .thermalTrip _ _ => {}
  | .railWrite _ _ _ => {}
  | .railPgood _ _ => {}
  | .idcheck _ _ => {}
  | .verifyxip _ _ => {}
  | .securityOpComplete _ _ => {}
  | .xipLock _ _ => {}
  | .loadgo _ _ => {}
  | .rimrun _ _ => {}
  | .moduleReset => {}
  | .mepRead _ => {}
  | .mepWrite _ => {}
  | .mepReset _ => {}
  | .getVersion _ _ => {}
  | .getCapabilities _ _ => {}
  | .negotiateAlgorithms _ _ => {}
  | .getDigests _ _ => {}
  | .getCertificate _ _ => {}
  | .challenge _ _ => {}
  | .getMeasurements _ _ _ => {}
  | .setCertificate _ _ => {}
  | .registerWrite _ _ _ => {}
  | .reservedEncodingIssue _ => {}
  | .powerOn => {}
  | .idleTimeReached _ _ => {}
  | .ualinkSemaphoreDoorbell _ _ => {}
  | .mepBadcmd _ => {}
  | .tdispLockInterface _ => {}
  | .tdispStartInterface _ => {}

/-- The limits that an entry sets on its fields. -/
def Instr.limits : Instr → Bool
  | .nop _ => true
  | .nap _ => true
  | .exitT _ => true
  | .brk _ _ => true
  | .trapN _ _ => true
  | .srd _ _ a => srAssigned a.toNat
  | .swr _ d _ => srWritable d.toNat
  | .clkadd _ _ => true
  | .svc _ _ _ _ _ => true
  | .add _ _ _ _ => true
  | .sub _ _ _ _ => true
  | .mul _ _ _ _ => true
  | .mulh _ _ _ _ => true
  | .mulhn _ _ _ _ => true
  | .div _ _ _ _ => true
  | .divn _ _ _ _ => true
  | .rem _ _ _ _ => true
  | .remn _ _ _ _ => true
  | .andS _ _ _ _ => true
  | .orS _ _ _ _ => true
  | .xorS _ _ _ _ => true
  | .andn _ _ _ _ => true
  | .shl _ _ _ _ => true
  | .shr _ _ _ _ => true
  | .sra _ _ _ _ => true
  | .rol _ _ _ _ => true
  | .ror _ _ _ _ => true
  | .minS _ _ _ _ => true
  | .maxS _ _ _ _ => true
  | .minn _ _ _ _ => true
  | .maxn _ _ _ _ => true
  | .clz _ _ _ => true
  | .ctz _ _ _ => true
  | .popc _ _ _ => true
  | .brev _ _ _ => true
  | .sext _ _ _ _ => true
  | .zext _ _ _ _ => true
  | .cmp _ _ _ _ => true
  | .clmul _ _ _ _ => true
  | .clmulh _ _ _ _ => true
  | .mov _ _ _ => true
  | .addi _ _ _ _ => true
  | .andi _ _ _ _ => true
  | .ori _ _ _ _ => true
  | .xori _ _ _ _ => true
  | .shli h _ _ i => immBelow (immI h i) 64
  | .shri h _ _ i => immBelow (immI h i) 64
  | .srai h _ _ i => immBelow (immI h i) 64
  | .cmpi _ _ _ _ => true
  | .li _ _ _ => true
  | .bt _ _ _ _ => true
  | .bw _ _ _ => true
  | .call _ _ => true
  | .btn _ _ _ _ => true
  | .jr _ _ _ => true
  | .callr _ _ _ => true
  | .ret _ => true
  | .addI32 _ _ _ _ _ _ => true
  | .subI32 _ _ _ _ _ _ => true
  | .mulI32 _ _ _ _ _ _ => true
  | .mulhI32 _ _ _ _ _ _ => true
  | .mulhnI32 _ _ _ _ _ _ => true
  | .minI32 _ _ _ _ _ _ => true
  | .maxI32 _ _ _ _ _ _ => true
  | .minnI32 _ _ _ _ _ _ => true
  | .maxnI32 _ _ _ _ _ _ => true
  | .absI32 _ _ _ _ => true
  | .negI32 _ _ _ _ => true
  | .andI32 _ _ _ _ _ _ => true
  | .orI32 _ _ _ _ _ _ => true
  | .xorI32 _ _ _ _ _ _ => true
  | .andnI32 _ _ _ _ _ _ => true
  | .notI32 _ _ _ _ => true
  | .shlI32 _ _ _ _ _ _ => true
  | .shrI32 _ _ _ _ _ _ => true
  | .sraI32 _ _ _ _ _ _ => true
  | .clzI32 _ _ _ _ => true
  | .popcI32 _ _ _ _ => true
  | .brevI32 _ _ _ _ => true
  | .addsI32 _ _ _ _ _ _ => true
  | .subsI32 _ _ _ _ _ _ => true
  | .addsnI32 _ _ _ _ _ _ => true
  | .subsnI32 _ _ _ _ _ _ => true
  | .cmpeqI32 _ _ _ _ _ _ => true
  | .cmpneI32 _ _ _ _ _ _ => true
  | .cmpltI32 _ _ _ _ _ _ => true
  | .cmpleI32 _ _ _ _ _ _ => true
  | .cmpltnI32 _ _ _ _ _ _ => true
  | .cmplenI32 _ _ _ _ _ _ => true
  | .selI32 _ _ _ _ _ _ => true
  | .movI32 _ _ _ _ => true
  | .movsI32 _ _ _ => true
  | .vclmul _ _ _ _ _ _ => true
  | .vclmulh _ _ _ _ _ _ => true
  | .madI32 _ _ _ _ _ _ => true
  | .addiI32 _ _ _ _ => true
  | .andiI32 _ _ _ _ => true
  | .oriI32 _ _ _ _ => true
  | .xoriI32 _ _ _ _ => true
  | .shliI32 h _ _ i => immBelow (immI h i) 32
  | .shriI32 h _ _ i => immBelow (immI h i) 32
  | .sraiI32 h _ _ i => immBelow (immI h i) 32
  | .liiI32 _ _ _ => true
  | .addF32 _ _ _ _ _ _ => true
  | .subF32 _ _ _ _ _ _ => true
  | .mulF32 _ _ _ _ _ _ => true
  | .fmaF32 _ _ _ _ _ _ => true
  | .fmsF32 _ _ _ _ _ _ => true
  | .minF32 _ _ _ _ _ _ => true
  | .maxF32 _ _ _ _ _ _ => true
  | .absF32 _ _ _ _ => true
  | .negF32 _ _ _ _ => true
  | .cmpeqF32 _ _ _ _ _ _ => true
  | .cmpltF32 _ _ _ _ _ _ => true
  | .cmpleF32 _ _ _ _ _ _ => true
  | .cmpunF32 _ _ _ _ _ _ => true
  | .copysignF32 _ _ _ _ _ _ => true
  | .addH2 _ _ _ _ _ _ => true
  | .subH2 _ _ _ _ _ _ => true
  | .mulH2 _ _ _ _ _ _ => true
  | .fmaH2 _ _ _ _ _ _ => true
  | .minH2 _ _ _ _ _ _ => true
  | .maxH2 _ _ _ _ _ _ => true
  | .absH2 _ _ _ _ => true
  | .addBf2 _ _ _ _ _ _ => true
  | .subBf2 _ _ _ _ _ _ => true
  | .mulBf2 _ _ _ _ _ _ => true
  | .fmaBf2 _ _ _ _ _ _ => true
  | .minBf2 _ _ _ _ _ _ => true
  | .maxBf2 _ _ _ _ _ _ => true
  | .absBf2 _ _ _ _ => true
  | .cvtF32I32 _ _ _ _ => true
  | .cvtI32F32 _ _ _ _ => true
  | .cvtF32N32 _ _ _ _ => true
  | .cvtN32F32 _ _ _ _ => true
  | .cvtBf2F32 _ _ _ _ => true
  | .cvtF32Bf _ _ _ _ => true
  | .cvtH2F32 _ _ _ _ => true
  | .cvtF32H _ _ _ _ => true
  | .cvtE4x4F32 _ _ _ _ => true
  | .cvtF32E4 _ _ _ _ => true
  | .cvtE5x4F32 _ _ _ _ => true
  | .cvtF32E5 _ _ _ _ => true
  | .cvtQ4F32 _ _ _ _ _ _ => true
  | .cvtF32Q4 _ _ _ _ _ _ => true
  | .rintF32 _ _ _ _ => true
  | .rcp _ _ _ _ => true
  | .sqrt _ _ _ _ => true
  | .rsqrt _ _ _ _ => true
  | .exp2 _ _ _ _ => true
  | .log2 _ _ _ _ => true
  | .sinpi _ _ _ _ => true
  | .cospi _ _ _ _ => true
  | .shfl _ _ _ _ _ _ => true
  | .shfli _ _ _ n _ => n < 48
  | .bfly _ _ _ _ _ => true
  | .bcast _ _ _ _ _ => true
  | .xredAdd _ _ _ _ => true
  | .xredAddf _ _ _ _ => true
  | .xredMin _ _ _ _ => true
  | .xredMax _ _ _ _ => true
  | .xredMinf _ _ _ _ => true
  | .xredMaxf _ _ _ _ => true
  | .xredAnd _ _ _ _ => true
  | .xredOr _ _ _ _ => true
  | .xredXor _ _ _ _ => true
  | .scanAdd _ _ _ _ => true
  | .scanAddf _ _ _ _ => true
  | .scanXor _ _ _ _ => true
  | .scanMax _ _ _ _ => true
  | .matchB _ _ _ _ => true
  | .matchf _ _ _ _ => true
  | .ballot _ _ _ => true
  | .voteAny _ _ _ => true
  | .voteAll _ _ _ => true
  | .kand _ _ _ _ => true
  | .kor _ _ _ _ => true
  | .kxor _ _ _ _ => true
  | .knot _ _ _ => true
  | .kmov _ _ _ => true
  | .kfromp _ _ _ => true
  | .ktop _ _ _ => true
  | .kpop _ _ _ => true
  | .kfirst _ _ _ => true
  | .kfs _ _ _ => true
  | .ksk _ _ _ => true
  | .draw _ _ b => 1 ≤ b.toNat && b.toNat ≤ 4
  | .rhash _ _ _ _ _ _ => true
  | .sdiset _ _ _ => true
  | .sdiget _ _ => true
  | .ldB _ _ _ _ r g => g < 6 && r.toNat < 2
  | .ldBn _ _ _ _ r g => g < 6 && r.toNat < 2
  | .ldH _ _ _ _ r g => g < 6 && r.toNat < 2
  | .ldHn _ _ _ _ r g => g < 6 && r.toNat < 2
  | .ldW _ _ _ _ r g => g < 6 && r.toNat < 2
  | .ldD _ _ _ _ r g => g < 6 && r.toNat < 2
  | .ldDec _ _ _ _ r g => g < 6 && r.toNat < 2
  | .ldRaw _ _ _ _ r g => g < 6 && r.toNat < 2
  | .stB _ _ _ _ r g => g < 6 && (r == 0 || r == 2)
  | .stH _ _ _ _ r g => g < 6 && (r == 0 || r == 2)
  | .stW _ _ _ _ r g => g < 6 && (r == 0 || r == 2)
  | .stD _ _ _ _ r g => g < 6 && (r == 0 || r == 2)
  | .stRaw _ _ _ _ r g => g < 6 && (r == 0 || r == 2)
  | .sldW _ _ _ _ _ => true
  | .sldH _ _ _ _ _ => true
  | .sldB _ _ _ _ _ => true
  | .sstW _ _ _ _ _ => true
  | .sstH _ _ _ _ _ => true
  | .sstB _ _ _ _ _ => true
  | .bdecl _ _ b => b.toNat ≤ 62
  | .bsetEmpty _ _ => true
  | .bsetFull _ _ => true
  | .bstat _ _ _ => true
  | .sldDec _ _ _ _ _ => true
  | .atomAdd _ _ _ _ g => g < 6
  | .atomAddD _ _ _ _ g => g < 6
  | .atomMin _ _ _ _ g => g < 6
  | .atomMax _ _ _ _ g => g < 6
  | .atomMinn _ _ _ _ g => g < 6
  | .atomMaxn _ _ _ _ g => g < 6
  | .atomAnd _ _ _ _ g => g < 6
  | .atomOr _ _ _ _ g => g < 6
  | .atomXor _ _ _ _ g => g < 6
  | .atomXchg _ _ _ _ g => g < 6
  | .atomCas _ _ _ _ g => g < 6
  | .atomCasD _ _ _ _ g => g < 6
  | .atomFadd _ _ _ _ g => g < 6
  | .atomFaddBf2 _ _ _ _ g => g < 6
  | .atomFmin _ _ _ _ g => g < 6
  | .atomFmax _ _ _ _ g => g < 6
  | .redAdd _ _ _ _ g => g < 6
  | .redAddD _ _ _ _ g => g < 6
  | .redMin _ _ _ _ g => g < 6
  | .redMax _ _ _ _ g => g < 6
  | .redMinn _ _ _ _ g => g < 6
  | .redMaxn _ _ _ _ g => g < 6
  | .redAnd _ _ _ _ g => g < 6
  | .redOr _ _ _ _ g => g < 6
  | .redXor _ _ _ _ g => g < 6
  | .redFadd _ _ _ _ g => g < 6
  | .redFaddBf2 _ _ _ _ g => g < 6
  | .fenceAcq _ g => g < 6
  | .fenceRel _ g => g < 6
  | .fenceFull _ g => g < 6
  | .ifb _ => true
  | .bar _ _ => true
  | .barArv _ _ => true
  | .barWt _ _ => true
  | .semSig _ _ _ => true
  | .semWait _ _ _ => true
  | .tlwait _ g _ _ => g < 6
  | .txb _ _ => true
  | .txe _ => true
  | .txa _ _ => true
  | .wlput _ _ _ _ _ _ => true
  | .wlget _ _ => true
  | .amrecv _ _ _ => true
  | .bwaitDrained _ _ => true
  | .bwaitFull _ _ => true
  | .mmaBf _ _ _ _ _ _ => true
  | .mmaH _ _ _ _ _ _ => true
  | .mmaE4 _ _ _ _ _ _ => true
  | .mmaE5 _ _ _ _ _ _ => true
  | .mmaE4e5 _ _ _ _ _ _ => true
  | .mmaQ4 _ _ _ _ _ _ => true
  | .mmaI8 _ _ _ _ _ _ => true
  | .mzero _ _ => true
  | .mld _ _ _ _ => true
  | .mstReg _ _ _ => true
  | .mstBuf _ _ _ b => b != 0
  | .mwait _ _ => true
  | .mloop _ _ a _ => a.toNat ≤ 58
  | .mconv _ _ _ _ => true
  | .kick _ _ _ _ => true
  | .vchain _ _ _ _ => true
  | .pair _ _ _ _ => true
  | .pairResume _ _ _ _ => true
  | .lnch _ _ _ _ => true
  | .estat _ _ _ n => n.toNat < 16 && n != 7
  | .csend _ _ _ _ => true
  | .crecv _ _ _ _ => true
  | .cred _ _ a _ => a.toNat ≤ 62
  | .amsend _ _ _ _ _ => true
  | .rfe _ _ => true
  | .resume _ _ => true
  | .ctxrd _ _ _ _ => true
  | .ctxwr _ _ _ _ => true
  | .tlbinv _ _ _ _ => true
  | .psrd _ _ _ => true
  | .pswr _ _ _ => true
  | .idle _ _ => true
  | .rtwr _ _ _ => true
  | .sealBlock _ _ => true
  | .halt _ _ => true
  | .wake _ _ => true
  | .memoryWritePerform _ => true
  | .atomicPerform _ _ _ _ => true
  | .txCommitValidate _ _ _ => true
  | .wlputAnswer _ _ => true
  | .launchQuiet _ => true
  | .mstBufferComplete _ => true
  | .matrixOpComplete _ => true
  | .streamStartPhaseEnd _ _ => true
  | .copyJobStart _ _ _ => true
  | .fillSectorArrival _ _ _ _ => true
  | .copyJobRetire _ _ _ => true
  | .chainJobRetire _ _ _ => true
  | .pairJobStart _ => true
  | .pairJobSuspend _ _ _ => true
  | .pairJobRetire _ _ _ => true
  | .fabricInstanceComplete _ _ _ => true
  | .amArrival _ => true
  | .amsendJobRetire _ _ _ => true
  | .packetDecode _ _ _ => true
  | .waveSwap _ _ => true
  | .forcedSwap _ => true
  | .replyWrite _ _ _ _ _ => true
  | .regLineFill _ _ _ => true
  | .pageWalk _ _ _ _ => true
  | .commitTokenHandoff _ => true
  | .asyncCauseTake _ => true
  | .qtailWrite _ _ _ _ _ => true
  | .queueEnable _ _ _ _ _ => true
  | .queueDisable _ _ _ _ _ => true
  | .queueRetry _ _ _ _ _ => true
  | .queueSkip _ _ _ _ _ => true
  | .launchTake _ _ _ => true
  | .blockPlace _ _ => true
  | .blockEnd _ => true
  | .launchComplete _ => true
  | .preempt _ => true
  | .blockHalt _ _ => true
  | .blockStopped _ => true
  | .droneWrite _ _ _ _ _ => true
  | .dronePlace _ _ => true
  | .watchdog _ => true
  | .externalStall _ _ => true
  | .repeatTrap _ => true
  | .flitDrop _ _ _ _ => true
  | .tlbinvJobComplete _ _ _ => true
  | .contextTeardown _ => true
  | .splitcfgWrite _ _ _ _ => true
  | .semownWrite _ _ _ _ => true
  | .pstateCmdRun _ _ _ => true
  | .pstateCmdFreeze _ _ _ => true
  | .pstateCmdStop _ _ _ => true
  | .pstateCmdDrain _ _ _ => true
  | .pstateCmdFlush _ _ _ => true
  | .pstateCmdRemap _ _ _ => true
  | .quiesceStateDone _ => true
  | .tileProbe _ _ => true
  | .shapereqGrow _ _ => true
  | .shapereqShrink _ _ => true
  | .shapereqCompact _ _ => true
  | .shapereqMigrate _ _ => true
  | .doorbell _ _ => true
  | .killWave _ _ => true
  | .killBlock _ _ => true
  | .partitionReset _ => true
  | .partitionResetComplete _ => true
  | .ldReset _ => true
  | .stopInterface _ => true
  | .msixUnmask _ _ => true
  | .inboundMemoryRequest _ => true
  | .feataccWrite _ _ _ => true
  | .keyCreate _ _ => true
  | .keyDestroy _ _ => true
  | .edgeReqOff _ _ _ => true
  | .edgeReqCxl _ _ _ => true
  | .edgeReqUalink _ _ _ => true
  | .edgeReqUltraEthernet _ _ _ => true
  | .edgeDrainComplete _ => true
  | .edgeTrainComplete _ _ _ => true
  | .edgeTrainTimeout _ => true
  | .edgeEnumComplete _ => true
  | .linkLost _ => true
  | .hbmReset _ _ _ => true
  | .hbmZqcal _ _ _ => true
  | .hbmCatrain _ _ _ => true
  | .hbmRdtrain _ _ _ => true
  | .hbmWrtrain _ _ _ => true
  | .hbmRepair _ _ _ => true
  | .hbmMemtest _ _ _ => true
  | .hbmEnable _ _ _ => true
  | .hbmOpComplete _ _ _ => true
  | .patrolScrub _ _ _ => true
  | .bistGo _ _ => true
  | .bistComplete _ => true
  | .timeRun _ _ => true
  | .freqChangeRequest _ _ => true
  | .freqChangeApply => true
  | .limiterCheck _ _ => true
  | .thermalTrip _ _ => true
  | .railWrite _ _ _ => true
  | .railPgood _ _ => true
  | .idcheck _ _ => true
  | .verifyxip _ _ => true
  | .securityOpComplete _ _ => true
  | .xipLock _ _ => true
  | .loadgo _ _ => true
  | .rimrun _ _ => true
  | .moduleReset => true
  | .mepRead _ => true
  | .mepWrite _ => true
  | .mepReset _ => true
  | .getVersion _ _ => true
  | .getCapabilities _ _ => true
  | .negotiateAlgorithms _ _ => true
  | .getDigests _ _ => true
  | .getCertificate _ _ => true
  | .challenge _ _ => true
  | .getMeasurements _ _ _ => true
  | .setCertificate _ _ => true
  | .registerWrite _ _ _ => true
  | .reservedEncodingIssue _ => true
  | .powerOn => true
  | .idleTimeReached _ _ => true
  | .ualinkSemaphoreDoorbell _ _ => true
  | .mepBadcmd _ => true
  | .tdispLockInterface _ => true
  | .tdispStartInterface _ => true

/-- Does the instruction accept its modifier word (R169)? -/
def Shape.modOk (s : Shape) (m : Mod) : Bool :=
  s.modifier
  && (match s.kind with
      | .perThread => true
      | .memberMasked => m.p == 7 && !m.pn
      | .waveLevel => m.k == 0 && m.p == 7 && !m.pn)
  && (if s.round then m.rnd.toNat ≤ 5 else if s.rne then m.rnd.toNat ≤ 1 else m.rnd == 0)
  && (s.round || !m.sat)
  && (match s.third with
      | .no => m.c == 0 && !m.ec
      | .vector => true
      | .predicate => m.c.toNat < 8 && !m.ec)

/-- Does the instruction accept its extension words? -/
def Shape.hdrOk (s : Shape) (h : Hdr) : Bool :=
  (match h.modw with
   | none => true
   | some m => s.modOk m)
  && (s.immediate || h.imm.isNone)

/-- An instruction that the machine can meet in a packet: an encoded one within every static rule. -/
def Instr.wf (i : Instr) : Bool :=
  match i.shape with
  | none => false
  | some s => s.hdrOk i.hdr && i.limits

end Sys2Proof
end

