-- ==== Sys2Proof/Machine/Operands.lean ====
section
/-! DEFINITION. The operand forms: how a wave's registers are named, read and written (03, 07), the guard and the
members of an instruction, immediates, and the full/empty bits with the pending-reply slots that stand behind them. -/

namespace Sys2Proof.Machine

/-- All 48 lanes. -/
def fullMask : Lanes := BitVec.allOnes 48

/-! ### Vector registers (R56, R57) -/

/-- Register `r` of lane `L`. -/
def Wave.vreg (w : Wave) (r L : Nat) : W32 := w.v.get (r * 48 + L) 0

def Wave.setV (w : Wave) (r L : Nat) (x : W32) : Wave := { w with v := w.v.set (r * 48 + L) x 0 }

/-- The index registers (R63). -/
def Wave.idx (w : Wave) (n : Nat) : Nat := w.index.get n 0

/-- The register that a 6-bit vector field names (R57). -/
def Wave.vnum (w : Wave) (f : BitVec 6) : Nat :=
  if f.toNat < 48 then f.toNat else w.idx ((f.toNat - 48) / 4) + (f.toNat - 48) % 4

/-- Writes a span of consecutive registers in one lane, lowest first (R56). -/
def Wave.setSpan (w : Wave) (r L : Nat) : List W32 → Wave
  | [] => w
  | x :: xs => (w.setV r L x).setSpan (r + 1) L xs

/-! ### Scalar registers, condition codes, predicates, masks (R55, R59 to R62) -/

/-- s0 reads 0. -/
def Wave.sreg (w : Wave) (f : BitVec 6) : W64 := if f = 0 then 0 else w.sregs.get f.toNat 0

/-- A write to s0 has no effect (R55). -/
def Wave.setS (w : Wave) (f : BitVec 6) (x : W64) : Wave :=
  if f = 0 then w else { w with sregs := w.sregs.set f.toNat x 0 }

/-- p7 reads true in every lane. -/
def Wave.pred (w : Wave) (p : BitVec 3) : Lanes := if p = 7 then fullMask else w.preds.get p.toNat 0

/-- Predicate `p` takes the bits of `x` in the lanes of `m`; a write to p7 has no effect (R55). -/
def Wave.setPred (w : Wave) (p : BitVec 3) (m x : Lanes) : Wave :=
  if p = 7 then w
  else { w with preds := w.preds.set p.toNat ((w.pred p &&& ~~~ m) ||| (x &&& m)) 0 }

/-- k0 reads all ones. -/
def Wave.kmask (w : Wave) (k : BitVec 3) : Lanes := if k = 0 then fullMask else w.masks.get k.toNat 0

/-- A mask write without its flag (`ballot`); a write to k0 has no effect. -/
def Wave.setMask (w : Wave) (k : BitVec 3) (x : Lanes) : Wave :=
  if k = 0 then w else { w with masks := w.masks.set k.toNat x 0 }

/-- A mask write by an operation of major 12: KZ is set even when the destination is k0 (R62). -/
def Wave.setMaskZ (w : Wave) (k : BitVec 3) (x : Lanes) : Wave := { w.setMask k x with kz := x == 0 }

/-! ### Per-lane state -/

def Wave.pcOf (w : Wave) (L : Nat) : Nat := w.pc.get L 0
def Wave.setPc (w : Wave) (L a : Nat) : Wave := { w with pc := w.pc.set L a 0 }

/-- The PC of every lane of a mask. -/
def Wave.setPcs (w : Wave) (m : Lanes) (a : Nat) : Wave := (lanesOf m).foldl (fun w L => w.setPc L a) w

def Wave.sdiOf (w : Wave) (L : Nat) : W32 := w.sdi.get L 0
def Wave.setSdi (w : Wave) (L : Nat) (x : W32) : Wave := { w with sdi := w.sdi.set L x 0 }
def Wave.tstatOf (w : Wave) (L : Nat) : W32 := w.tstat.get L 0
def Wave.setTstat (w : Wave) (L : Nat) (x : W32) : Wave := { w with tstat := w.tstat.set L x 0 }
def Wave.txOf (w : Wave) (L : Nat) : Option Tx := w.tx.get L none
def Wave.setTx (w : Wave) (L : Nat) (x : Option Tx) : Wave := { w with tx := w.tx.set L x none }

/-- Element (i, j) of accumulator tile `t` (R64). -/
def Wave.accAt (w : Wave) (t i j : Nat) : W32 := w.acc.get (t * 2304 + i * 48 + j) 0
def Wave.setAcc (w : Wave) (t i j : Nat) (x : W32) : Wave := { w with acc := w.acc.set (t * 2304 + i * 48 + j) x 0 }

/-- FTZ of `fpctl` (R72). -/
def Wave.ftz (w : Wave) : Bool := w.fpctl.getLsbD 3

/-- A value of `wclk`: it stays at 2^64 − 1 (R191; assumption 26). -/
def clkOf (n : Nat) : W64 := BitVec.ofNat 64 (min n (2 ^ 64 - 1))

/-- Counts `n` retired threads in `wclk` (R47). -/
def Wave.count (w : Wave) (n : Nat) : Wave := { w with wclk := clkOf (w.wclk.toNat + n) }

/-! ### Full and empty registers, pending-reply slots (R66 to R69, R232) -/

def Wave.isEmpty (w : Wave) (r L : Nat) : Bool := laneIn (w.empty.get r 0) L

/-- Marks a span empty in the lanes of `m`. -/
def Wave.markEmpty (w : Wave) (r : Nat) (m : Lanes) : Nat → Wave
  | 0 => w
  | n + 1 => { w with empty := w.empty.upd r 0 (· ||| m) }.markEmpty (r + 1) m n

/-- Makes a span full in one lane. -/
def Wave.markFull (w : Wave) (r L : Nat) : Nat → Wave
  | 0 => w
  | n + 1 => { w with empty := w.empty.upd r 0 (fun e => setLane e L false) }.markFull (r + 1) L n

def Wave.slot (w : Wave) (i : Nat) : Slot := w.slots.get i {}
def Wave.setSlot (w : Wave) (i : Nat) (s : Slot) : Wave := { w with slots := w.slots.set i s {} }

/-- Does a slot hold destination register `r`? -/
def Slot.covers (s : Slot) (r : Nat) : Bool :=
  s.kind != .free && s.kind != .wlput && decide (s.reg ≤ r) && decide (r < s.reg + s.span)

/-- The address of the access whose uncorrectable reply marked register `r` of lane `L`, if it is marked (R232). -/
def Wave.marked (w : Wave) (r L : Nat) : Option Nat :=
  if !w.isEmpty r L then none
  else (w.slots.find? (fun e => e.2.covers r && laneIn e.2.err L)).map (fun e => e.2.errAddr.get L 0)

/-- A slot with nothing left awaited, nothing marked and no reply to come is free. -/
def Slot.tidy (s : Slot) : Slot := if s.lanes = 0 && s.err = 0 && s.reqs.isEmpty then {} else s

/-- Clears the mark of register `r` in lane `L`, its slot's share of it, and makes the slot's registers full there (R232). -/
def Wave.clearMark (w : Wave) (r L : Nat) : Wave :=
  match w.slots.find? (fun e => e.2.covers r && laneIn e.2.err L) with
  | none => w
  | some (i, s) =>
    (w.markFull s.reg L s.span).setSlot i
      ({ s with err := setLane s.err L false, errAddr := s.errAddr.erase L }).tidy

/-- Clears the marks of a span in the lanes of `m`. -/
def Wave.clearMarks (w : Wave) (r : Nat) (m : Lanes) : Nat → Wave
  | 0 => w
  | n + 1 => ((lanesOf m).foldl (fun w L => w.clearMark r L) w).clearMarks (r + 1) m n

/-- A register whose line is uncorrectable is marked in lanes of `m` (R232, R481): a slot beyond the 32 holds the mark, whose addresses are
those of the line's image (assumption 81). -/
def Wave.markLine (w : Wave) (r : Nat) (m : Lanes) (va : Nat) : Wave :=
  let x := w.slot (64 + r)
  { w with empty := w.empty.upd r 0 (· ||| m) }.setSlot (64 + r)
    { kind := .load, reg := r, span := 1, err := x.err ||| m, errAddr := (lanesOf m).foldl (fun t L => t.set L (va + 4 * L) 0) x.errAddr }

/-- The pending-reply slot that an instruction takes, if one of the 32 is free (R69): the lowest (assumption 109). -/
def Wave.freeSlot (w : Wave) : Option Nat := (List.range 32).find? (fun i => (w.slot i).kind == .free)

/-- Is a predicate still awaited from a `wlput` in a lane (R249)? -/
def Wave.predAwaited (w : Wave) (p : BitVec 3) (L : Nat) : Bool :=
  w.slots.any (fun e => e.2.kind == .wlput && e.2.reg == p.toNat && laneIn e.2.lanes L)

end Sys2Proof.Machine

namespace Sys2Proof

open Machine

/-! ### Guards, members, rounding -/

/-- The guard of a per-thread instruction (R169): bit L of mask k, and p XOR pn. -/
def Hdr.guard (h : Hdr) (w : Wave) (L : Nat) : Bool :=
  match h.modw with
  | none => true
  | some m => laneIn (w.kmask m.k) L && (laneIn (w.pred m.p) L != m.pn)

/-- The guarding predicate that an instruction reads (p7 where none is named). -/
def Hdr.guardPred (h : Hdr) : BitVec 3 := (h.modw.map (·.p)).getD 7

/-- The effective members of a member-masked instruction (R40): the lanes of mask k that are live. -/
def Hdr.members (h : Hdr) (w : Wave) : Lanes :=
  match h.modw with
  | none => w.live
  | some m => w.kmask m.k &&& w.live

/-- Field c of the modifier word, or v0 (R169). -/
def Hdr.fieldC (h : Hdr) : BitVec 6 := (h.modw.map (·.c)).getD 0
def Hdr.bitEc (h : Hdr) : Bool := (h.modw.map (·.ec)).getD false
def Hdr.sat (h : Hdr) : Bool := (h.modw.map (·.sat)).getD false

/-- The mode code in force: rnd of the modifier word, or RMODE of `fpctl` (R72, R90, R169):
0 RNE, 1 RZ, 2 RU, 3 RD, 4 RS. -/
def Hdr.modeCode (h : Hdr) (w : Wave) : Nat :=
  let r := ((h.modw.map Mod.rnd).getD 0).toNat
  if r = 0 then w.fpctl.toNat % 8 else r - 1

/-- The displacement of formats M and A (R168), modulo 2^64. -/
def Hdr.disp (h : Hdr) : W64 := BitVec.ofInt 64 (dispOf h)

end Sys2Proof

namespace Sys2Proof.Machine

/-- A vector source or destination: its first register, its span, and, for a source, its empty-behaviour bit. -/
structure VOp where
  reg : Nat
  span : Nat
  trap : Bool := false
  deriving DecidableEq, Repr

def Wave.op (w : Wave) (f : BitVec 6) (span : Nat) (trap : Bool := false) : VOp := ⟨w.vnum f, span, trap⟩

/-- The registers of an operand, ascending. -/
def VOp.regs (o : VOp) : List Nat := (List.range o.span).map (o.reg + ·)

/-- The first register number of VREGS or more that an operand's span reaches (R58), which `ebad` names (assumption 108). -/
def VOp.beyond (o : VOp) (vregs : Nat) : Option Nat :=
  if o.reg + o.span > vregs then some (max o.reg vregs) else none

end Sys2Proof.Machine
end

