-- ==== Sys2Proof/Machine/Flags.lean ====
section
/-! DEFINITION. The condition codes (R60) and the tests that wave branches make on them, and the layouts of the status
words that a wave holds: `tstat` (R73), `ecause` (R356). -/

namespace Sys2Proof.Machine

/-- `cmp` and `cmpi` set Z, N, C and V from a − b (R60). -/
def Wave.setCodes (w : Wave) (a b : W64) : Wave :=
  { w with z := a - b == 0, n := (a - b).msb, c := decide (b.toNat ≤ a.toNat),
           ovf := decide (a.toInt - b.toInt < -(2 ^ 63) ∨ 2 ^ 63 ≤ a.toInt - b.toInt) }

/-- The conditions of `bw` (R60, R172): 0 always, 1 eq, 2 ne, 3 lt, 4 ge, 5 ltn, 6 gen, 7 kz. -/
def Wave.cond (w : Wave) (q : BitVec 3) : Bool :=
  match q.toNat with
  | 0 => true
  | 1 => w.z
  | 2 => !w.z
  | 3 => w.n != w.ovf
  | 4 => w.n == w.ovf
  | 5 => !w.c
  | 6 => w.c
  | _ => w.kz

/-! ### `tstat` (R73) -/

def tsActive (t : W32) : Bool := t.getLsbD 0
def tsDepth (t : W32) : Nat := (t.extractLsb' 8 8).toNat

/-- ACTIVE = 1 at a depth; the other fields keep their values. -/
def tsOpen (t : W32) (depth : Nat) : W32 :=
  (t &&& 0xFFFF00FE) ||| 1 ||| BitVec.ofNat 32 (depth % 256 * 256)

/-- TX_ABORT: ABORTED = 1, ACTIVE = 0, DEPTH = 0, with cause and user code (R148). -/
def tsAbort (cause ucode : Nat) : W32 := BitVec.ofNat 32 (ucode % 256 * 2 ^ 24 + cause * 16 + 8)

/-- `ecause` (R356). -/
def ecauseWord (c : Cause) (lv : Bool) (lane : Nat) : W32 :=
  BitVec.ofNat 32 (c.code + (if lv then lane * 256 + 2 ^ 14 else 0))

end Sys2Proof.Machine
end

