-- ==== Sys2Proof/Machine/Aes.lean ====
section
/-! DEFINITION. AES-256 (FIPS 197) and its XTS mode (IEEE 1619), as R455 and R456 name them (assumption 5). -/

namespace Sys2Proof.Machine

/-- The product in GF(2^8) of `a` and the low `n` bits of `b`. -/
def gfMul : Nat → Byte → Byte → Byte
  | 0, _, _ => 0
  | n + 1, a, b => (if b.getLsbD 0 then a else 0) ^^^ gfMul n ((a <<< 1) ^^^ (if a.getLsbD 7 then 0x1B else 0)) (b >>> 1)

/-- The inverse in GF(2^8): the 254th power, as the product of the squares of squares. -/
def gfInv (a : Byte) : Byte :=
  ((List.range 7).foldl (fun (p : Byte × Byte) _ => let q := gfMul 8 p.2 p.2; (gfMul 8 p.1 q, q)) (1, a)).1

/-- The substitution of a byte. -/
def subByte (b : Byte) : Byte :=
  let i := gfInv b
  i ^^^ i.rotateLeft 1 ^^^ i.rotateLeft 2 ^^^ i.rotateLeft 3 ^^^ i.rotateLeft 4 ^^^ 0x63

def xorBytes (a b : List Byte) : List Byte := List.zipWith (· ^^^ ·) a b

/-- The next word of the key schedule, number `i`, from the word before it and the word eight before it. -/
def nextKeyWord (i : Nat) (last back : List Byte) : List Byte :=
  let t := if i % 8 = 0 then xorBytes ((last.drop 1 ++ last.take 1).map subByte) [BitVec.ofNat 8 (2 ^ (i / 8 - 1)), 0, 0, 0]
    else if i % 8 = 4 then last.map subByte else last
  xorBytes back t

/-- The key schedule: `n` words more, the list newest first. -/
def keyWords : Nat → List (List Byte) → List (List Byte)
  | 0, ws => ws
  | n + 1, ws => keyWords n (nextKeyWord ws.length (ws.getD 0 []) (ws.getD 7 []) :: ws)

/-- The 15 round keys of a 32-byte key. -/
def roundKeys (key : List Byte) : List (List Byte) :=
  let ws := (keyWords 52 ((List.range 8).map (fun i => (key.drop (4 * i)).take 4)).reverse).reverse
  (List.range 15).map (fun r => ((ws.drop (4 * r)).take 4).flatten)

/-- The rows of a block, shifted; byte `i` stands in row i mod 4. -/
def shiftRows (b : List Byte) : List Byte := (List.range 16).map (fun i => b.getD ((i + 4 * (i % 4)) % 16) 0)

/-- The columns of a block, mixed. -/
def mixColumns (b : List Byte) : List Byte :=
  (List.range 16).map fun i =>
    let cell := fun (k : Nat) => b.getD (4 * (i / 4) + (i + k) % 4) 0
    gfMul 8 (cell 0) 2 ^^^ gfMul 8 (cell 1) 3 ^^^ cell 2 ^^^ cell 3

/-- The rounds after the first key: the last has no mixing. -/
def aesRounds : List (List Byte) → List Byte → List Byte
  | [], b => b
  | [k], b => xorBytes (shiftRows (b.map subByte)) k
  | k :: ks, b => aesRounds ks (xorBytes (mixColumns (shiftRows (b.map subByte))) k)

/-- AES-256 of a 16-byte block. -/
def aes256 (key block : List Byte) : List Byte :=
  let ks := roundKeys key
  aesRounds (ks.drop 1) (xorBytes block (ks.getD 0 []))

/-- The tweak of the next block: twice this one in GF(2^128), least significant byte first. -/
def nextTweak (t : List Byte) : List Byte :=
  (List.range 16).map fun i =>
    ((t.getD i 0) <<< 1) ^^^ (if i = 0 then (if (t.getD 15 0).getLsbD 7 then (0x87 : Byte) else 0) else (t.getD (i - 1) 0) >>> 7)

/-- The blocks of a sector, `n` of them, from a tweak on. -/
def xtsBlocks (key : List Byte) : Nat → List Byte → List Byte → List Byte
  | 0, _, _ => []
  | n + 1, t, bs => xorBytes (aes256 key (xorBytes (bs.take 16) t)) t ++ xtsBlocks key n (nextTweak t) (bs.drop 16)

/-- A 48-byte sector under AES-256-XTS, with a 512-bit key and a number as the tweak. -/
def xtsSector (key : List Byte) (tweak : Nat) (plain : List Byte) : List Byte :=
  let number := (List.range 16).map (fun i => BitVec.ofNat 8 (tweak / 256 ^ i))
  xtsBlocks (key.take 32) 3 (aes256 (key.drop 32) number) plain

end Sys2Proof.Machine
end

