-- ==== Sys2Proof/Machine/Regs.lean ====
section
/-! DEFINITION. The maintenance address space (22 R461): which registers stand where, the access of each of their fields
(R6), their reset values, the error log (R463) and the naming registers that other units read (19). -/

namespace Sys2Proof.Machine

/-- Bits [h:l] set. -/
def bits (h l : Nat) : Nat := 2 ^ (h + 1) - 2 ^ l

/-- Bits [h:l] of a word, as a number. -/
def field (x : W64) (h l : Nat) : Nat := x.toNat / 2 ^ l % 2 ^ (h + 1 - l)

/-- `x` with bits [h:l] replaced by `v`. -/
def withField (x : W64) (h l v : Nat) : W64 :=
  (x &&& ~~~ BitVec.ofNat 64 (bits h l)) ||| BitVec.ofNat 64 (v % 2 ^ (h + 1 - l) * 2 ^ l)

/-- The field masks of a register: RW, W1S, W1C, WO and RO fields, and its reset value. Every other bit is reserved. -/
structure RegDesc where
  rw : Nat := 0
  w1s : Nat := 0
  w1c : Nat := 0
  wo : Nat := 0
  ro : Nat := 0
  reset : W64 := 0
  deriving DecidableEq, Repr

def RegDesc.known (r : RegDesc) : W64 :=
  BitVec.ofNat 64 r.rw ||| BitVec.ofNat 64 r.w1s ||| BitVec.ofNat 64 r.w1c ||| BitVec.ofNat 64 r.wo |||
    BitVec.ofNat 64 r.ro

/-! ### Addresses (R396, R410, R415, R434, R443, R461, R471, R482) -/

def dieBase (d : Nat) : Nat := 0x10000000 + 0x100000 * d
def queueReg (d pslot q off : Nat) : Nat := dieBase d + 0x10000 + 0x400 * pslot + 0x40 * q + off
def partReg (d pslot off : Nat) : Nat := dieBase d + 0x20000 + 0x100 * pslot + off
def splitReg (d t : Nat) : Nat := dieBase d + 0x30000 + 0x20 * t
def tileReg (d t : Nat) : Nat := dieBase d + 0x80100 + 8 * t
def dropReg (d n : Nat) : Nat := dieBase d + 0x80800 + 16 * n
def dropHead (d : Nat) : Nat := dieBase d + 0x80A00
def semOwnReg (d i : Nat) : Nat := dieBase d + 0x88000 + 8 * i
def bistReg (d p : Nat) : Nat := dieBase d + 0xA0000 + 8 * p
def dieEvReg (d n : Nat) : Nat := dieBase d + 0xC0000 + 16 * n
def coreEvReg (d t n : Nat) : Nat := dieBase d + 0xD0000 + 0x100 * t + 16 * n
def partCtl (pid off : Nat) : Nat := 0x06000000 + 0x1000 * pid + off
def ldReg (l off : Nat) : Nat := 0x05000000 + 0x200 * l + off
def edgeReg (g off : Nat) : Nat := 0x04000000 + 0x100 * g + off
def hbmReg (s off : Nat) : Nat := 0x01000000 + 0x100000 * s + off
def ctxOwnReg (n : Nat) : Nat := 0x00200000 + 8 * n

/-! ### The loader ROM (R478) -/

/-- The words of the loader of R478, laid out by R179: three words a packet. -/
def romWords : List W32 :=
  [0x00108005, 0x1830401A, 0x0C400044, 0x1C503801, 0x1C803801, 0x1C903802, 0x1860C022, 0x1C61A008, 0x1861850C,
   0x7C180000, 0x7E040000, 0x3C604040, 0x12000006, 0x11700005, 0x0830C001, 0x0400C41C, 0x113FFFFD, 0x1C603802,
   0x7C180000, 0x7E040000, 0x3C604040, 0x12000003, 0x11700002, 0, 0x7E0300B0, 0x38A040A0, 0x14028000,
   0x00000002, 0, 0, 0x7E040008, 0x38704080, 0x1C71C803, 0x1821C81A, 0x30108005, 0x11700002, 0x110FFFFE, 0, 0,
   0x1811C91A, 0x30204005, 0x14000002]

def romWord (i : Nat) : W32 := romWords.getD i 0

/-- Byte `a` of the 64 KiB ROM. -/
def romByte (a : Nat) : Byte := (romWord (a / 4)).extractLsb' (8 * (a % 4)) 8

/-! ### The register table -/

/-- Registers of a die, by offset from DIE(d). -/
def dieDesc (d o : Nat) : Option RegDesc :=
  if o < 0x10000 then none
  else if o < 0x20000 then
    match o % 0x40 with
    | 0x00 => some { rw := bits 31 20 + bits 15 12 + 3, wo := bits 4 3, ro := 4 }
    | 0x08 => some { rw := bits 55 0 }
    | 0x10 => some { ro := bits 31 0 }
    | 0x18 => some { rw := bits 31 0 }
    | 0x20 => some { ro := bits 63 32 + bits 15 8 + 3 }
    | 0x28 => some { rw := bits 55 0 }
    | 0x30 => some { rw := bits 4 0 }
    | 0x38 => some { ro := bits 63 8 + 3 }
    | _ => none
  else if o < 0x24000 then
    match o % 0x100 with
    | 0x00 => some { rw := bits 23 0 }
    | 0x08 => some { rw := bits 47 0 }
    | 0x10 => some { rw := bits 47 0 }
    | 0x18 => some { ro := bits 63 63 + bits 43 32 + bits 7 0 }
    | 0x20 => some { ro := bits 55 0 }
    | 0x28 => some { ro := bits 8 0 }
    | 0x30 => some { ro := bits 63 32 + bits 8 0 }
    | 0x38 => some { ro := bits 63 0 }
    | 0x40 => some { w1c := bits 31 0 }
    | 0x48 => some { ro := bits 55 0 }
    | _ => none
  else if o < 0x30000 then none
  else if o < 0x30000 + 0x20 * 144 then
    match o % 0x20 with
    | 0x00 => some { rw := bits 47 32 + bits 23 0, reset := 0x000F0101 }
    | 0x08 => some { ro := bits 63 0 }
    | 0x10 => some { ro := bits 63 0 }
    | _ => none
  else if o < 0x80000 then none
  else if o = 0x80000 then some { ro := bits 47 0, reset := Config.fuseSkip d }
  else if o = 0x80008 then some { ro := bits 63 0, reset := Config.fuseHoles d 0 }
  else if o = 0x80010 then some { ro := bits 63 0, reset := Config.fuseHoles d 1 }
  else if o = 0x80018 then some { ro := bits 15 0, reset := Config.fuseHoles d 2 }
  else if o < 0x80100 then none
  else if o < 0x80100 + 8 * 144 then
    let t := (o - 0x80100) / 8
    let hole := (Config.fuseHoles d (t / 64)).getLsbD (t % 64)
    some { rw := bits 59 56 + bits 47 32, ro := bits 11 0, reset := if hole then 0x0300000000000000 else 0 }
  else if o < 0x80800 then none
  else if o < 0x80A00 then some { ro := bits 63 0 }
  else if o = 0x80A00 then some { ro := bits 63 32 + bits 4 0 }
  else if o < 0x81000 then none
  else if o < 0x81000 + 0x80 * 144 then some { rw := bits 63 63 + bits 59 58 + bits 45 32 + bits 13 0 }
  else if o < 0x88000 then none
  else if o < 0x90000 then some { rw := bits 63 63 + bits 7 0 }
  else if o < 0xA0000 then none
  else if o < 0xA0000 + 8 * 156 then some { ro := bits 15 13 + bits 11 0 }
  else if o < 0xC0000 then none
  else if o < 0xC0100 then
    if o % 16 = 0 then some { rw := bits 63 63 + bits 17 16 + bits 7 0 } else some { rw := bits 47 0 }
  else if o < 0xD0000 then none
  else if o < 0xD0000 + 0x100 * 144 then
    if o % 0x100 ≥ 0x80 then none
    else if o % 16 = 0 then some { rw := bits 63 63 + bits 17 16 + bits 7 0 } else some { rw := bits 47 0 }
  else none

/-- Registers of a partition control block (R415, R433, R441), by offset. -/
def partCtlDesc (o : Nat) : Option RegDesc :=
  if o = 0 then some { rw := bits 41 38, wo := bits 11 8, ro := bits 7 7 + bits 3 0 }
  else if o < 0x48 then some { rw := 0xBFBFBFBFBFBFBFBF }
  else if o < 0x100 then none
  else if o < 0x700 then some { rw := bits 63 0 }
  else if o = 0x700 then some { w1c := bits 31 0 }
  else if o < 0x800 then none
  else if o < 0x880 then
    if o % 16 = 0 then some { rw := bits 47 27 } else some { rw := bits 63 61 + bits 51 48 + bits 20 0 }
  else if o = 0x900 then some { rw := bits 23 0, reset := 0x101010 }
  else if o = 0x908 then some { rw := bits 15 0, reset := 0x1000 }
  else none

/-- Registers of a logical device (R434), by offset. -/
def ldDesc (o : Nat) : Option RegDesc :=
  if o = 0 then some { rw := bits 55 32 + bits 20 16, ro := bits 31 31 }
  else if o < 0x88 then some { rw := bits 63 63 + bits 7 0 }
  else if o < 0xA8 then some { rw := bits 63 63 + bits 45 32 + bits 13 0 }
  else if o = 0xA8 then some { rw := bits 7 0, reset := 16 }
  else none

/-- The XIP descriptor (R474), by offset. -/
def xipDesc (o : Nat) : Option RegDesc :=
  if o = 0 then some { rw := bits 47 0 }
  else if o = 8 then some { rw := bits 19 0 }
  else if o < 0xA0 then some { rw := bits 63 0 }
  else if o = 0xA0 then some { rw := bits 63 0 }
  else if o = 0xA8 then some { w1s := 1, ro := 6 }
  else if o = 0xB0 then some { ro := bits 63 0 }
  else if o < 0x100 then none
  else if o < 0x168 then some { rw := bits 63 0 }
  else none

/-- The register at a maintenance address that is a multiple of 8, if one stands there (R461). -/
def regDesc (a : Nat) : Option RegDesc :=
  if a % 8 ≠ 0 then none
  else if a = 0 then
    some { ro := bits 31 0, reset := BitVec.ofNat 64 (0x92161012 + 0x100 * Config.stepn) }
  else if a = 0x100 then some { ro := bits 15 8 + 3, reset := 0xFF00 }
  else if a = 0x200 then some { ro := bits 63 0, reset := 0x1FF }
  else if a = 0x208 then some { ro := bits 63 0 }
  else if a = 0x210 ∨ a = 0x218 then some { rw := bits 63 0 }
  else if a = 0xF00 then some { ro := bits 63 32 + bits 7 0 }
  else if a = 0xF08 then some { rw := bits 31 0 }
  else if a < 0x1000 then none
  else if a < 0x2000 then some { ro := bits 63 0 }
  else if a < 0x10000 then none
  else if a < 0x10020 then some { rw := bits 16 0, ro := bits 47 31 }
  else if a = 0x10040 then some { wo := bits 63 56 + bits 47 0 }
  else if a = 0x10048 then some { ro := bits 31 8 + bits 2 0 }
  else if a = 0x10050 then some { rw := bits 15 0, ro := bits 47 32, reset := 260 }
  else if a < 0x10100 then none
  else if a < 0x10300 then some { ro := bits 11 0 }
  else if a = 0x20000 then some { w1s := 1 }
  else if a = 0x20008 then some { rw := bits 63 0 }
  else if a < 0x30000 then none
  else if a < 0x30168 then xipDesc (a - 0x30000)
  else if a = 0x40000 then some { wo := bits 15 8 + bits 3 0 }
  else if a = 0x40008 then some { ro := bits 15 8 + 3 }
  else if a = 0x40020 then some { w1s := 1 }
  else if a = 0x40028 then some { w1s := bits 7 1, ro := 1 }
  else if a < 0x40040 then none
  else if a < 0x40070 then some { ro := bits 63 0, reset := Config.fwKeyHash ((a - 0x40040) / 8) }
  else if a < 0x400A0 then some { ro := bits 63 0, reset := Config.ownKeyHash ((a - 0x40070) / 8) }
  else if a = 0x50000 then some { w1s := 1, ro := 6 }
  else if a < 0x60000 then none
  else if a < 0x70000 then
    let i := (a - 0x60000) / 4
    some { ro := bits 63 0, reset := (romWord (i + 1)).zeroExtend 64 <<< 32 ||| (romWord i).zeroExtend 64 }
  else if a = 0x100000 then some { rw := bits 27 20 + bits 11 0, wo := bits 31 30, ro := bits 29 28 }
  else if a < 0x200000 then none
  else if a < 0x208000 then some { rw := bits 63 63 + bits 7 0 }
  else if a < 0x01000000 then none
  else if a < 0x03000000 then
    match a % 0x100000 with
    | 0x00 => some { wo := bits 7 4 }
    | 0x08 => some { ro := bits 31 8 + 3 }
    | 0x10 => some { rw := bits 15 0 }
    | _ => none
  else if a < 0x04000000 then none
  else if a < 0x04001800 then
    match a % 0x100 with
    | 0x00 => some { rw := bits 3 0, wo := bits 15 12, ro := bits 23 16 }
    | 0x08 => some { ro := bits 31 0 }
    | 0x10 => some { rw := bits 23 20 + bits 16 16 + bits 7 0 }
    | _ => none
  else if a < 0x05000000 then none
  else if a < 0x05002000 then ldDesc (a % 0x200)
  else if a < 0x06000000 then none
  else if a < 0x06100000 then partCtlDesc (a % 0x1000)
  else if a < 0x10000000 then none
  else if a < 0x14000000 then dieDesc ((a - 0x10000000) / 0x100000) (a % 0x100000)
  else none

/-- The reset value of the register at an address (0 where none stands). -/
def regReset (a : Nat) : W64 := ((regDesc a).map RegDesc.reset).getD 0

/-- The stored value of a register: an unlisted one holds its reset value. -/
def State.reg (s : State) (a : Nat) : W64 := s.maint.get a (regReset a)

/-- Puts a value into a register, without any of the checks of a write. -/
def State.setReg (s : State) (a : Nat) (v : W64) : State := { s with maint := s.maint.set a v (regReset a) }

/-- Replaces a field of a register. -/
def State.setFld (s : State) (a h l v : Nat) : State := s.setReg a (withField (s.reg a) h l v)

/-- A field of a register. -/
def State.fld (s : State) (a h l : Nat) : Nat := field (s.reg a) h l

/-- The time counter (R466). -/
def State.time (s : State) : Nat := (s.reg 0x20008).toNat

/-- TIMECTL RUN. -/
def State.running (s : State) : Bool := (s.reg 0x20000).getLsbD 0

/-- Logs an event in the maintenance error log (R463). -/
def State.log (s : State) (code detail : Nat) : State :=
  let n := s.fld 0xF00 7 0
  let total := min (s.fld 0xF00 63 32 + 1) 0xFFFFFFFF
  let s := s.setReg (0x1000 + 16 * n) (BitVec.ofNat 64 (code % 2 ^ 16 + detail % 2 ^ 48 * 2 ^ 16))
  let s := s.setReg (0x1008 + 16 * n) (if s.running then BitVec.ofNat 64 s.time else 0)
  s.setReg 0xF00 (BitVec.ofNat 64 (total * 2 ^ 32 + (n + 1) % 256))

/-- The output MINT_N (R458, R463): low while the log holds an entry that is not acknowledged, SEEN ≠ TOTAL. -/
def State.mintN (s : State) : Bool := s.fld 0xF08 31 0 == s.fld 0xF00 63 32

/-- Does an access of 4 bytes to a maintenance address name the high half of its register (R462)? -/
def highHalf (a width : Nat) : Bool := width == 4 && a % 8 == 4

/-- Logs an ignored write (CODE 0x0001); detail 0 for a write that has no maintenance address. -/
def State.logIgnored (s : State) (detail : Nat) : State := s.log 1 detail

/-! ### Naming (19 R412 to R416) and partition state -/

/-- QSTATE of a partition (R415). -/
def State.qstate (s : State) (pid : Nat) : Nat := s.fld (partCtl pid 0) 3 0

/-- Is a partition sealed (R415)? -/
def State.sealed (s : State) (pid : Nat) : Bool := (s.reg (partCtl pid 0)).getLsbD 39

/-- The DIEMAP entry of a `dieid` of a partition: the physical die, if the entry is valid. -/
def State.dieOf (s : State) (pid k : Nat) : Option Nat :=
  let e := field (s.reg (partCtl pid (8 + 8 * (k / 8)))) (8 * (k % 8) + 7) (8 * (k % 8))
  if e ≥ 128 then some (e % 64) else none

/-- The `dieid` of a physical die in a partition (R19). -/
def State.dieidOf (s : State) (pid die : Nat) : Option Nat := (List.range 64).find? (fun k => s.dieOf pid k == some die)

def State.tileKind (s : State) (d t : Nat) : Nat := s.fld (tileReg d t) 59 56

/-- The world of a quarter of a tile (R413): 0 or 1, or none. -/
def State.worldOf (s : State) (d t q : Nat) : Option Nat :=
  let c := s.reg (splitReg d t)
  if s.tileKind d t ≠ 1 then none
  else if c.getLsbD (16 + q) then some 0
  else if c.getLsbD (20 + q) then some 1
  else none

/-- The world index that a partition has on a tile, if it owns quarters there (R413). -/
def State.worldIn (s : State) (d t pid : Nat) : Option Nat :=
  let c := s.reg (splitReg d t)
  if s.tileKind d t ≠ 1 then none
  else if field c 39 32 = pid ∧ field c 19 16 ≠ 0 then some 0
  else if field c 47 40 = pid ∧ field c 23 20 ≠ 0 then some 1
  else none

/-- The quarters that a partition owns on a tile. -/
def State.quartersOf (s : State) (d t pid : Nat) : List Nat :=
  match s.worldIn d t pid with
  | none => []
  | some w => (List.range 4).filter (fun q => (s.reg (splitReg d t)).getLsbD (16 + 4 * w + q))

/-- The virtual core number of a partition on a tile (R412, R413). -/
def State.vcidAt (s : State) (d t pid : Nat) : Nat :=
  match s.worldIn d t pid with
  | some 1 => s.fld (tileReg d t) 47 40
  | _ => s.fld (tileReg d t) 39 32

/-- The tiles that a partition holds on a die. -/
def State.tilesOf (s : State) (d pid : Nat) : List Nat :=
  (List.range 144).filter (fun t => (s.worldIn d t pid).isSome)

/-- The tile of a virtual core of a partition on a die. -/
def State.tileOfVcid (s : State) (d pid vcid : Nat) : Option Nat :=
  (List.range 144).find? (fun t => (s.worldIn d t pid).isSome && s.vcidAt d t pid == vcid)

/-- The grade of a quarter (R22, R412). -/
def State.grade (s : State) (d t q : Nat) : Nat := s.fld (tileReg d t) (3 * q + 2) (3 * q)

/-- The partition that owns a context number (R416). -/
def State.ctxPid (s : State) (n : Nat) : Option Nat :=
  let e := s.reg (ctxOwnReg n)
  if e.getLsbD 63 then some (field e 7 0) else none

/-- The partition that owns a semaphore of a physical die (R416). -/
def State.semPid (s : State) (d i : Nat) : Option Nat :=
  let e := s.reg (semOwnReg d i)
  if e.getLsbD 63 then some (field e 7 0) else none

/-- The key ids that a partition holds (R455). -/
def State.keysOf (s : State) (pid : Nat) : List Nat :=
  (s.keys.filter (fun e => (e.2.map (·.pid)) == some pid)).map (·.1)

/-- The partition key: the lowest key id that a partition holds (R455). -/
def State.partKey (s : State) (pid : Nat) : Option Nat := (s.keysOf pid).min?

/-- Is a feature accepted (R446)? Until FEATACC is written every feature of FEATOFF is treated as accepted. -/
def State.feature (s : State) (n : Nat) : Bool := !s.featWritten || (s.reg 0x210).getLsbD n

/-! ### Per-context tables (R369) -/

/-- The state address of a word. -/
def stAddr (space ctxn index : Nat) : Nat := space * 2 ^ 56 + ctxn * 2 ^ 32 + index

def State.ctxWord (s : State) (space ctxn index : Nat) : W64 := s.ctxWords.get (stAddr space ctxn index) 0
def State.setCtxWord (s : State) (space ctxn index : Nat) (v : W64) : State :=
  { s with ctxWords := s.ctxWords.set (stAddr space ctxn index) v 0 }

/-- GEN of a context descriptor. -/
def State.ctxGen (s : State) (n : Nat) : Nat := field (s.ctxWord 0 n 0) 11 0
/-- ENABLED. -/
def State.ctxEnabled (s : State) (n : Nat) : Bool := (s.ctxWord 0 n 0).getLsbD 17
/-- SEALIMG. -/
def State.ctxSealimg (s : State) (n : Nat) : Bool := (s.ctxWord 0 n 0).getLsbD 18

/-! ### Event counters (R482) -/

/-- Adds to one counter if it is enabled for the source (and, for a core counter, for the world). -/
def State.bumpCtr (s : State) (selA src : Nat) (world : Option Nat) (n : Nat) : State :=
  let sel := s.reg selA
  let on := sel.getLsbD 63 && field sel 7 0 == src &&
    (match world with | none => true | some w => sel.getLsbD (16 + w))
  if on then s.setFld (selA + 8) 47 0 (s.fld (selA + 8) 47 0 + n) else s

def State.bumpCore (s : State) (d t src : Nat) (world : Option Nat) (n : Nat) : State :=
  (List.range 8).foldl (fun s i => s.bumpCtr (coreEvReg d t i) src world n) s

def State.bumpDie (s : State) (d src n : Nat) : State :=
  (List.range 16).foldl (fun s i => s.bumpCtr (dieEvReg d i) src none n) s

end Sys2Proof.Machine
end

