-- ==== Sys2Proof/Machine/Report.lean ====
section
/-! DEFINITION. What the machine reports: events to a partition's event log (R408), MSI-X messages (R438), machine
checks (R481), and the inboxes that messages stand in (R325). -/

namespace Sys2Proof.Machine

/-- The key of an inbox: context, `dieid`, `vcid`, number. -/
def inboxKey (ctxn dieid vcid n : Nat) : Nat := ((ctxn * 64 + dieid) * 256 + vcid) * 16 + n

/-- PSLOT of a partition on a die, if it has one (R396). -/
def State.pslot (s : State) (die pid : Nat) : Option Nat :=
  match s.pslots.get (die * 256 + pid) 0 with
  | 0 => none
  | n + 1 => some n

/-- The partition that holds a PSLOT of a die. -/
def State.pidOfSlot (s : State) (die pslot : Nat) : Option Nat :=
  (List.range 256).find? (fun pid => s.pslot die pid == some pslot)

/-- A partition register (R405); 0 where the partition has no slot on the die. -/
def State.preg (s : State) (die pid off : Nat) : W64 :=
  match s.pslot die pid with
  | none => 0
  | some n => s.reg (partReg die n off)

/-- The drone of a partition on a die: context and virtual core, if DRONE.V (R405). -/
def State.drone (s : State) (die pid : Nat) : Option (Nat × Nat) :=
  let d := s.preg die pid 0x18
  if d.getLsbD 63 then some (field d 43 32, field d 7 0) else none

/-- SVCN of a partition on a die (R405). -/
def State.svcn (s : State) (die pid : Nat) : Nat := field (s.preg die pid 0x28) 8 0

/-- The capacity of an inbox on a core: space 4 of R369, but SVCN for inbox 15 of the drone context on the drone's core (R404). -/
def State.inboxCap (s : State) (die pid ctxn vcid n : Nat) : Nat :=
  if n = 15 ∧ s.drone die pid = some (ctxn, vcid) then s.svcn die pid
  else field (s.ctxWord 4 ctxn n) 12 0

def State.inbox (s : State) (key : Nat) : List Msg := s.inboxes.get key []
def State.setInbox (s : State) (key : Nat) (l : List Msg) : State := { s with inboxes := s.inboxes.set key l [] }

/-! ### MSI-X (R435, R438): the table of partition `pid` at keys 64·pid + 2·vector + word, its pending bits at 64·pid + 32 -/

/-- A vector is masked at reset (assumption 9). -/
def msixReset (k : Nat) : W64 := if k % 64 < 32 ∧ k % 2 = 1 then 0x100000000 else 0
def State.msixWord (s : State) (k : Nat) : W64 := s.msix.get k (msixReset k)
def State.setMsixWord (s : State) (k : Nat) (v : W64) : State := { s with msix := s.msix.set k v (msixReset k) }

/-- The partition of VF v of an LD, if the LD offers that VF and it is bound (R434). -/
def State.vfPid (s : State) (l v : Nat) : Option Nat :=
  let e := s.reg (ldReg l (8 + 8 * v))
  if v < s.fld (ldReg l 0) 20 16 ∧ e.getLsbD 63 = true then some (field e 7 0) else none

/-- Is the partition bound to a VF? -/
def State.bound (s : State) (pid : Nat) : Bool := (List.range 16).any fun l => (List.range 16).any fun v => s.vfPid l v == some pid

/-- Sends a vector of the partition's VF, or collects it in the pending bit (R438). -/
def State.sendMsix (s : State) (pid v : Nat) : State :=
  let pba := s.msixWord (64 * pid + 32)
  if !s.bound pid then s
  else if (s.msixWord (64 * pid + 2 * v + 1)).getLsbD 32 || pba.getLsbD v then
    s.setMsixWord (64 * pid + 32) (pba ||| BitVec.ofNat 64 (2 ^ v))
  else { s with irqs := s.irqs ++ [(pid, v)] }

/-- An event that is not queued counts in EVLOST. -/
def State.countLost (s : State) (die n : Nat) : State :=
  s.setFld (partReg die n 0x40) 31 0 (min (s.fld (partReg die n 0x40) 31 0 + 1) 0xFFFFFFFF)

/-- An event is copied to EVLAST and signalled by MSI-X vector 0. -/
def State.tellEvent (s : State) (pid die n w0 w1 : Nat) : State :=
  (s.setReg (partReg die n 0x38) (BitVec.ofNat 64 (w1 % 2 ^ 32 * 2 ^ 32 + w0 % 2 ^ 32))).sendMsix pid 0

/-- Raises an event of a partition on a die (R408): queued to inbox 13 of the drone context on the drone's core, copied
to EVLAST, signalled by MSI-X vector 0; counted in EVLOST where it cannot be queued. -/
def State.event (s : State) (pid die w0 w1 : Nat) : State :=
  match s.pslot die pid with
  | none => s.sendMsix pid 0
  | some n =>
    let did := (s.dieidOf pid die).getD 0
    let m : Msg := { w0 := BitVec.ofNat 32 w0, w1 := BitVec.ofNat 32 w1, from_ := BitVec.ofNat 32 (0xFF + did * 256) }
    let s1 :=
      match s.drone die pid with
      | none => s.countLost die n
      | some (ctxn, vcid) =>
        let key := inboxKey ctxn did vcid 13
        if (s.inbox key).length < s.inboxCap die pid ctxn vcid 13 then s.setInbox key (s.inbox key ++ [m])
        else s.countLost die n
    s1.tellEvent pid die n w0 w1

/-- A logical tile in the layout of SRC and DST (R311). -/
def tileTag (die tile : Nat) : Nat := die % 8 * 2 ^ 11 + die / 8 % 8 * 2 ^ 8 + tile % 256

/-- Records a dropped flit (R420): the die's drop log, DROPS of its PID, and the event DROP (R430) where that partition exists. `hdr` is header bits [45:0]. -/
def State.logDrop (s : State) (die hdr reason : Nat) : State :=
  let n := s.fld (dropHead die) 4 0
  let pid := hdr % 256
  let total := min (s.fld (dropHead die) 63 32 + 1) 0xFFFFFFFF
  let s1 := s.setReg (dropReg die n) (BitVec.ofNat 64 (hdr % 2 ^ 46 + reason % 16 * 2 ^ 48))
  let s2 := s1.setReg (dropReg die n + 8) (BitVec.ofNat 64 s1.time)
  let s3 := s2.setReg (dropHead die) (BitVec.ofNat 64 (total * 2 ^ 32 + (n + 1) % 32))
  let s4 := s3.setFld (partCtl pid 0x700) 31 0 (min (s3.fld (partCtl pid 0x700) 31 0 + 1) 0xFFFFFFFF)
  if s4.qstate pid = 0 then s4 else s4.event pid die (5 + reason % 16 * 256) (hdr / 2 ^ 18 % 2 ^ 28)

/-- The partition whose frame map holds a granule of module HBM (R415). -/
def State.granOwner (s : State) (g : Nat) : Option Nat :=
  (List.range 256).find? (fun pid => (s.reg (partCtl pid (0x100 + 8 * (g / 64)))).getLsbD (g % 64))

/-- A partition that is not OFF needs a pass of the quiesce protocol without a change of shape (R421, R481). -/
def State.askPass (s : State) (pid : Nat) : State :=
  if s.qstate pid = 0 ∨ s.shaped.contains pid then s else { s with shaped := s.shaped ++ [pid] }

/-- A machine check with no consumer (R481): logged, reported to the owning partition on the die of its `dieid` 0, and followed by a pass of
the quiesce protocol. -/
def State.mcheck (s : State) (store w1 : Nat) (owner : Option (Nat × Nat)) : State :=
  match owner with
  | none => s.log 5 (8 + store * 256)
  | some (pid, die) => ((s.askPass pid).log 5 (8 + store * 256)).event pid die (8 + store * 256) w1

end Sys2Proof.Machine
end

