-- ==== Sys2Proof/Machine/Memory.lean ====
section
/-! DEFINITION. Global memory (06): home bytes, writes in flight at the visibility points of their thread, core and die,
what a reader may see, releases and acquires, update-only copies, and the arithmetic of atomics. Addresses here are
physical. -/

namespace Sys2Proof.Machine

/-! ### Ranges, scopes (R132, R133, R432) -/

def isHbm (pa : Nat) : Bool := pa < 0x018000000000
def isHost (pa : Nat) : Bool := 0x400000000000 ≤ pa && pa < 0x800000000000
def isPeer (pa : Nat) : Bool := 0x800000000000 ≤ pa && pa < 0xC00000000000

/-- Does a scope cover a location (R133)? -/
def covers (scope pa : Nat) : Bool :=
  if isHbm pa then true else if isPeer pa then decide (scope ≥ 4) else scope == 5

/-- The level at which a write is performed at a scope: 1 core, 2 quad, 3 die, 4 pkg, 5 pod and sys (R13). A quad has a level of its
own, since between cores of different quads `quad` scope promises no more than R131 (R133). -/
def scopeLevel (scope : Nat) : Nat := if scope ≤ 3 then scope + 1 else 5

/-- The nearest scope that covers a location (R233). -/
def coverScope (scope pa : Nat) : Nat :=
  if covers scope pa then scope else if isPeer pa then 4 else 5

/-- The level at which a write to a location leaves the list of writes in flight: its home. -/
def homeLevel (pa : Nat) : Nat := if isHbm pa then 4 else 5

/-- Who reads or writes: a die, a tile (a rim core has die 64), and the thread, if it is a thread. -/
structure View where
  die : Nat
  tile : Nat
  uid : Nat := 0
  wid : Nat := 0
  lane : Nat := 48
  deriving DecidableEq, Repr

/-- The quad of a tile on its die (R14). -/
def tileQuad (tile : Nat) : Nat := tile % 12 / 2 + 6 * (tile / 12 / 2)

/-- Do two cores lie in one instance of a level: one core, one quad, one die, the module? -/
def sameAt (lvl d1 t1 d2 t2 : Nat) : Bool :=
  match lvl with
  | 1 => d1 == d2 && t1 == t2
  | 2 => d1 == d2 && tileQuad t1 == tileQuad t2
  | 3 => d1 == d2
  | _ => true

/-- A thread's key. -/
def tkey (uid wid lane : Nat) : Nat := (uid * 32 + wid) * 48 + lane
def View.key (v : View) : Nat := tkey v.uid v.wid v.lane

/-! ### Home memory -/

/-- The 48-byte sector of a location under a key: encrypted with its physical address divided by 48 as the tweak (R456). -/
def State.cipherSector (s : State) (t pa : Nat) : List Byte :=
  xtsSector (Config.xtsKey t) (pa / 48) ((List.range 48).map (fun i => Tab.get s.mem (pa / 48 * 48 + i) 0))

/-- A home byte, as a clear access sees it: a byte of a protected page is ciphertext (R127). -/
def State.homeByte (s : State) (pa : Nat) : Byte :=
  match s.ptag.get pa 0 with
  | 0 => Tab.get s.mem pa 0
  | t => (s.cipherSector t pa).getD (pa % 48) 0

/-- The MAC of a 192-byte line written under a key: over its ciphertext and its physical address (R456). It verifies where the line was
written whole under that key, which is what `State.plainBytes` tests. -/
def State.lineMac (s : State) (t pa : Nat) : BitVec 64 :=
  Config.gmac (Config.macKey t) ((List.range 4).flatMap (fun i => s.cipherSector t (pa / 192 * 192 + 48 * i))) (pa / 192 * 192)

/-- Home bytes from `pa` up. -/
def State.homeBytes (s : State) (pa : Nat) : Nat → List Byte
  | 0 => []
  | n + 1 => s.homeByte pa :: s.homeBytes (pa + 1) n

/-- The bytes of a location's sector that are ciphertext, with their addresses. -/
def State.sealedNear (s : State) (pa : Nat) : List (Nat × Byte) :=
  if s.ptag = [] then []
  else (((List.range 48).map (pa / 48 * 48 + ·)).filter (fun a => s.ptag.get a 0 != 0)).map (fun a => (a, s.homeByte a))

/-- Writes one home byte in the clear. The ciphertext beside it in its sector stays as it stands, whatever it now decrypts to. -/
def State.putByte (s : State) (pa : Nat) (b : Byte) : State :=
  let new := s.sealedNear pa ++ [(pa, b)]
  { s with mem := new.foldl (fun m e => Tab.set m e.1 e.2 0) s.mem, ptag := new.foldl (fun t e => t.set e.1 0 0) s.ptag }

/-- Writes bytes at home; a write that covers all 8 bytes of a marked word clears its mark (R481). -/
def State.putBytes (s : State) (pa : Nat) : List Byte → State
  | [] => s
  | b :: bs => (s.putByte pa b).putBytes (pa + 1) bs

def State.clearCovered (s : State) (pa n : Nat) : State :=
  { s with marks := s.marks.filter (fun g => !(decide (pa ≤ 8 * g) && decide (8 * g + 8 ≤ pa + n))) }

def State.putHome (s : State) (pa : Nat) (bs : List Byte) : State := (s.putBytes pa bs).clearCovered pa bs.length

/-- Bytes written to a protected page, under a generation of its key (R127, R456). -/
def State.putSealed (s : State) (g pa : Nat) : List Byte → State
  | [] => s
  | b :: bs =>
    ({ s with mem := Tab.set s.mem pa b 0, ptag := s.ptag.set pa g 0 }).putSealed g (pa + 1) bs

/-- Little-endian bytes of a word (R4), and back. -/
def leBytes (x : Nat) : Nat → List Byte
  | 0 => []
  | n + 1 => BitVec.ofNat 8 x :: leBytes (x / 256) n

def leNat : List Byte → Nat
  | [] => 0
  | b :: bs => b.toNat + 256 * leNat bs

/-- Is a stack enabled (R471, R472)? -/
def State.stackOn (s : State) (st : Nat) : Bool := s.fld (hbmReg st 8) 15 8 == 8 && s.fld (hbmReg st 8) 1 0 == 2

/-- The LD whose host memory a location is: UNIT of a valid window of KIND 1 that holds it (R433). -/
def State.unitOf (s : State) (pa : Nat) : Option Nat :=
  s.maint.findSome? fun e =>
    let o := e.1 - partCtl 0 0
    let base := s.fld (e.1 - 8) 47 27
    if partCtl 0 0 ≤ e.1 ∧ o < 0x100000 ∧ 0x808 ≤ o % 0x1000 ∧ o % 0x1000 < 0x880 ∧ o % 16 = 8 ∧ e.2.getLsbD 63 = true ∧ field e.2 62 61 = 1 ∧
        base ≤ pa / 2 ^ 27 ∧ pa / 2 ^ 27 < base + field e.2 20 0 then
      some (field e.2 51 48)
    else none

/-- Does an edge group lead to a location outside the module: as CXL with the LD of the window, for host memory, or as UALink to the
peer (R433, R434)? -/
def State.leadsTo (s : State) (g pa : Nat) : Bool :=
  if isHost pa then
    s.fld (edgeReg g 0) 19 16 == 1 && (match s.unitOf pa with
      | some l => (s.reg (ldReg l 0)).getLsbD (32 + g)
      | none => true)
  else s.fld (edgeReg g 0) 19 16 == 2 && s.fld (edgeReg g 0) 3 0 == (pa - 0x800000000000) / 2 ^ 42

/-- Does an ACTIVE edge group serve a location outside the module (R444, R445)? -/
def State.served (s : State) (pa : Nat) : Bool :=
  isHbm pa || (List.range 24).any fun g => s.fld (edgeReg g 0) 23 20 == 1 && s.leadsTo g pa

/-- Does a group that completes what is in flight, and accepts nothing new, lead to a location (DRAIN of R444)? -/
def State.draining (s : State) (pa : Nat) : Bool :=
  (List.range 24).any fun g => s.fld (edgeReg g 0) 23 20 == 2 && s.leadsTo g pa

/-- Is a location's data uncorrectable: its 8-byte word is marked, its stack is not enabled, or nothing serves it (R445, R471,
R481)? -/
def State.badAt (s : State) (pa : Nat) : Bool :=
  s.marks.contains (pa / 8) || (isHbm pa && !s.stackOn (pa / 2 ^ 27 / 384)) || !s.served pa

/-- Is any of `n` bytes marked at its home? -/
def State.markedRange (s : State) (pa n : Nat) : Bool := (List.range n).any (fun i => s.marks.contains ((pa + i) / 8))

/-- Is any of `n` bytes uncorrectable? -/
def State.badRange (s : State) (pa n : Nat) : Bool := (List.range n).any (fun i => s.badAt (pa + i))

/-! ### Writes in flight -/

def PWrite.hits (w : PWrite) (pa n : Nat) : Bool :=
  decide (w.pa < pa + n) && decide (pa < w.pa + w.bytes.length)

def PWrite.byteAt (w : PWrite) (pa : Nat) : Option Byte :=
  if w.pa ≤ pa then w.bytes[pa - w.pa]? else none

/-- Is a write in flight visible to a reader (R132)? -/
def PWrite.seenBy (w : PWrite) (v : View) : Bool :=
  if w.level = 0 then w.uid == v.uid && w.wid == v.wid && w.lane == v.lane
  else sameAt w.level w.die w.tile v.die v.tile

/-- The newest byte that the writes in flight at levels lo to hi give a reader: the lowest level first, and the
latest within a level. -/
def overlay (ws : List PWrite) (v : View) (pa lo hi : Nat) : Option (PWrite × Byte) :=
  ws.foldl (fun best w =>
    if decide (lo ≤ w.level) && decide (w.level ≤ hi) && w.seenBy v && w.sealGen == 0 then
      match w.byteAt pa with
      | none => best
      | some b =>
        match best with
        | none => some (w, b)
        | some (u, _) => if w.level ≤ u.level then some (w, b) else best
    else best) none

/-- The index of a reader's instance of a level: its core, its quad, its die. -/
def View.inst (v : View) (lvl : Nat) : Nat :=
  match lvl with
  | 1 => v.die * 144 + v.tile
  | 2 => v.die * 144 + tileQuad v.tile
  | _ => v.die

/-- The key of the copy of an 8-byte word in an instance of level 1, 2 or 3; its low 48 bits are the word's address. -/
def copyKey (lvl inst g : Nat) : Nat := (lvl * 100000 + inst) * 2 ^ 48 + 8 * g

/-- What a read of one byte returns: the byte, the write in flight that it came from, the level that gave it (5 the home), and whether
the data was uncorrectable. -/
structure ByteRead where
  byte : Byte
  src : Option Nat
  depth : Nat
  bad : Bool
  deriving DecidableEq, Repr

/-- A byte of a copy, with its source. -/
def State.copyByte (s : State) (v : View) (lvl pa : Nat) : Option (Byte × Option Nat) :=
  (s.stale.get (copyKey lvl (v.inst lvl) (pa / 8)) none).map (fun c => (c.bytes.getD (pa % 8) 0, c.srcs.getD (pa % 8) none))

/-- A read of one byte from a list of levels on (R134): at each, a write visible there; else, where the read may use the copies of
that level (`stale` at most it, 0 for none), the copy; past the last the home. -/
def State.readFrom (s : State) (v : View) (stale pa : Nat) : List Nat → ByteRead
  | [] => ⟨s.homeByte pa, none, 5, s.badAt pa⟩
  | l :: ls =>
    match overlay s.writes v pa (if l = 1 then 0 else l) l with
    | some (w, b) => ⟨b, some w.id, l, false⟩
    | none =>
      match (if stale ≠ 0 ∧ stale ≤ l ∧ l < 4 then s.copyByte v l pa else none) with
      | some (b, src) => ⟨b, src, l, false⟩
      | none => s.readFrom v stale pa ls

/-- The levels from `n` out to `pkg`. -/
def levelsFrom (n : Nat) : List Nat := ([1, 2, 3, 4] : List Nat).filter (fun l => decide (n ≤ l))

/-- A read of one byte by a thread or an agent of a core. -/
def State.readByte (s : State) (v : View) (stale pa : Nat) : ByteRead := s.readFrom v stale pa (levelsFrom 1)

/-- The 48-byte sector of a location. -/
def sectorOf (pa : Nat) : Nat := pa / 48

/-- The 8-byte words that `n` bytes touch. -/
def wordsOf (pa n : Nat) : List Nat := (List.range ((pa + n + 7) / 8 - pa / 8)).map (pa / 8 + ·)

/-- A level of a reader takes a copy of a word as the levels beyond it give it; an uncorrectable word leaves none. -/
def State.fillCopy (s : State) (v : View) (stale lvl g : Nat) : State :=
  let rs := (List.range 8).map (fun i => s.readFrom v stale (8 * g + i) (levelsFrom (lvl + 1)))
  let c := if rs.any (·.bad) then none else some ⟨rs.map (·.byte), rs.map (·.src), s.clk⟩
  { s with stale := s.stale.set (copyKey lvl (v.inst lvl) g) c none }

/-- A read leaves copies of its words in its die, its quad and its core, but where it used the copy that was there. -/
def State.snapWord (s : State) (v : View) (stale g : Nat) : State :=
  ([3, 2, 1] : List Nat).foldl (fun s l =>
    if stale ≠ 0 ∧ stale ≤ l ∧ (s.stale.get (copyKey l (v.inst l) g) none).isSome = true then s else s.fillCopy v stale l g) s

/-- Adds an observed write of another thread to what a thread's next release covers (R137). -/
def State.observe (s : State) (k : Nat) (r : ByteRead) : State :=
  match r.src with
  | none => s
  | some id => { s with observed := s.observed.upd k [] (fun l => if l.any (·.1 == id) then l else l ++ [(id, 0)]) }

/-- A read of `n` bytes, with what a thread's read does to the copies and to what it has observed: bytes, and whether any was bad.
The bytes of one word come from one copy (R130). -/
def State.readMem (s : State) (v : View) (stale pa n : Nat) : State × List Byte × Bool :=
  let rs := (List.range n).map (fun i => s.readByte v stale (pa + i))
  let s1 := if v.lane < 48 then rs.foldl (fun s r => s.observe v.key r) ((wordsOf pa n).foldl (fun s g => s.snapWord v stale g) s)
    else s
  (s1, rs.map (·.byte), rs.any (·.bad))

/-- The same read without its effects. -/
def State.peekMem (s : State) (v : View) (pa n : Nat) : List Byte := (List.range n).map (fun i => (s.readByte v 0 (pa + i)).byte)

/-! ### Order -/

/-- Is write `id` performed at a level: in flight no longer, or there already? -/
def State.performedAt (s : State) (id lvl : Nat) : Bool :=
  s.writes.all (fun w => w.id != id || decide (lvl ≤ w.level))

/-- What must be performed, and where, before a later write of the thread is (R137). -/
def State.depsOf (s : State) (k : Nat) : List (Nat × Nat) :=
  (s.observed.get k []).filter (fun e => decide (1 ≤ e.2) && !s.performedAt e.1 e.2)

/-- A release at a scope (R137): every write of the thread in flight, and every write it observed, is to be performed
at the scope (where the scope covers it) before any later write of the thread. -/
def State.release (s : State) (uid wid lane scope : Nat) : State :=
  let k := tkey uid wid lane
  let own := (s.writes.filter (fun w => w.uid == uid && w.wid == wid && w.lane == lane)).map (·.id)
  let seen := s.observed.get k []
  let all := seen ++ (own.filter (fun i => !seen.any (·.1 == i))).map (fun i => (i, 0))
  let up := fun (e : Nat × Nat) =>
    match s.writes.find? (·.id == e.1) with
    | none => none
    | some w => some (e.1, if covers scope w.pa then max e.2 (scopeLevel scope) else e.2)
  { s with observed := s.observed.set k (all.filterMap up) [] }

/-- Is everything that a release at a scope covers performed there? -/
def State.released (s : State) (uid wid lane scope : Nat) : Bool :=
  let k := tkey uid wid lane
  s.writes.all fun w =>
    !((w.uid == uid && w.wid == wid && w.lane == lane) || (s.observed.get k []).any (·.1 == w.id)) ||
      !covers scope w.pa || decide (scopeLevel scope ≤ w.level)

/-- The copies that a core's instances of the levels below `lvl` hold of locations that a test picks are dropped. -/
def State.dropBelow (s : State) (die tile lvl : Nat) (p : Nat → Bool) : State :=
  let v : View := { die := die, tile := tile }
  { s with stale := s.stale.filter (fun e =>
      !(p (e.1 % 2 ^ 48) && ([1, 2, 3] : List Nat).any (fun l => decide (l < lvl) && e.1 / 2 ^ 48 == l * 100000 + v.inst l))) }

/-- An acquire at a scope (R138): the copies nearer than the scope, which could be older than a write performed there, are
dropped. -/
def State.acquire (s : State) (die tile scope : Nat) : State := s.dropBelow die tile (scopeLevel scope) (covers scope)

/-- The copies of `n` bytes nearer than a level, of a core whose agent wrote them there: a core prefers its own writes (R134). -/
def State.dropOwn (s : State) (die tile lvl pa n : Nat) : State :=
  s.dropBelow die tile lvl (fun a => decide (a / 8 * 8 < pa + n) && decide (pa < a / 8 * 8 + 8))

/-- Copies live no longer than `Config.copyLife` clk: a write becomes visible to every agent within finite time (R131). -/
def State.dropOld (s : State) : State :=
  { s with stale := s.stale.filter (fun e => match e.2 with
      | some c => decide (s.clk < c.since + Config.copyLife)
      | none => false) }

/-! ### Performing writes (R131, R132) -/

/-- Is the frame of a location locked for migration (R392)? -/
def State.lockOf (s : State) (pa : Nat) : Option MigLock :=
  s.locks.find? (fun l => decide (l.frame ≤ pa) && decide (pa < l.frame + l.size))

/-- May a write be raised by one level: nothing older of the same location stands before it at its level, its
dependencies are performed, no atomic performed below the home would lose its place, it is not held, and it is not for a group in DRAIN, which
accepts nothing new (R444). -/
def State.mayRaise (s : State) (w : PWrite) : Bool :=
  let before := s.writes.takeWhile (fun u => u.id != w.id)
  let n := w.bytes.length
  let same := fun (lvl : Nat) (u : PWrite) =>
    if lvl = 0 then u.uid == w.uid && u.wid == w.wid && u.lane == w.lane else sameAt lvl u.die u.tile w.die w.tile
  let fifo := !before.any (fun u => u.level == w.level && u.hits w.pa n && same w.level u)
  let deps := w.deps.all (fun d => s.performedAt d.1 d.2)
  let clash := s.writes.any fun r => r.rmw && r.hits w.pa n && r.id != w.id && decide (1 ≤ w.level) && decide (r.level ≤ w.level) &&
    !same w.level r && same (w.level + 1) r
  let stays := !isHbm w.pa && w.level == 3 && !s.served w.pa && s.draining w.pa
  fifo && deps && !clash && !w.held && !stays

/-- The copies of the words of a write that passes a level of its core take its bytes. -/
def State.leave (s : State) (lvl : Nat) (w : PWrite) : State :=
  let v : View := { die := w.die, tile := w.tile }
  (wordsOf w.pa w.bytes.length).foldl (fun s g =>
    let k := copyKey lvl (v.inst lvl) g
    let s1 := if (s.stale.get k none).isSome then s else s.fillCopy v (lvl + 1) lvl g
    match s1.stale.get k none with
    | none => s1
    | some c =>
      let at_ := fun (i : Nat) => w.byteAt (8 * g + i)
      { s1 with stale := s1.stale.set k (some { c with
          bytes := (List.range 8).map (fun i => (at_ i).getD (c.bytes.getD i 0))
          srcs := (List.range 8).map (fun i => if (at_ i).isSome then some w.id else c.srcs.getD i none) }) none }) s

/-- Puts a new write into flight at a level; its core's nearer copies of it go. An agent's write to a frame that is locked is held at the
home (R155). -/
def State.send (s : State) (v : View) (level ctxn va pa : Nat) (bs : List Byte) (deps : List (Nat × Nat))
    (rmw : Bool) : State :=
  let s1 := s.dropOwn v.die v.tile level pa bs.length
  let held := decide (1 ≤ level) && (s.lockOf pa).isSome
  if level ≥ homeLevel pa ∧ held = false then s1.putHome pa bs
  else
    let w : PWrite :=
      { id := s.nextWrite, die := v.die, tile := v.tile, uid := v.uid, wid := v.wid, lane := v.lane, pa := pa, va := va, ctxn := ctxn,
        bytes := bs, level := if held then 1 else level, target := homeLevel pa, deps := deps, rmw := rmw, held := held }
    { s1 with nextWrite := s1.nextWrite + 1, writes := s1.writes ++ [w] }

/-! ### The arithmetic of atomics and reductions (R233, R108) -/

/-- RNE of a sum of two FP32 codes, without FTZ (R108). -/
def memFadd (a b : Nat) : Nat := fp32.round .rne false false (FVal.add false (fp32.value a) (fp32.value b))

/-- The packed BF16 sum (R233). -/
def memFaddBf2 (a b : Nat) : Nat :=
  let f := fun (x y : Nat) => bf16.round .rne false false (FVal.add false (bf16.value x) (bf16.value y))
  f (a % 65536) (b % 65536) + 65536 * f (a / 65536) (b / 65536)

/-- The width in bytes of an operation, by the minor of its `atom` form (R233). -/
def atomWidth (op : Nat) : Nat := if op = 1 ∨ op = 11 then 8 else 4

/-- The operand span and the reply span (R233). -/
def atomSpan (op : Nat) : Nat := if op = 1 ∨ op = 10 then 2 else if op = 11 then 4 else 1
def atomReply (op : Nat) : Nat := if op = 1 ∨ op = 11 then 2 else 1

/-- The new value of an atomic: the old value, the operand, and for a compare the second operand (R233). -/
def atomNew (op old a b : Nat) : Nat :=
  let i32 := fun (x : Nat) => (BitVec.ofNat 32 x).toInt
  match op with
  | 0 => (old + a) % 2 ^ 32
  | 1 => (old + a) % 2 ^ 64
  | 2 => if i32 a < i32 old then a else old
  | 3 => if i32 old < i32 a then a else old
  | 4 => min old a
  | 5 => max old a
  | 6 => old &&& a
  | 7 => old ||| a
  | 8 => old ^^^ a
  | 9 => a
  | 10 => if old = a then b else old
  | 11 => if old = a then b else old
  | 12 => memFadd old a
  | 13 => memFaddBf2 old a
  | 14 => fp32.minmax false old a
  | _ => fp32.minmax true old a

/-- The `atom` minor of a reduction's minor (R234). -/
def redOp (minor : Nat) : Nat := if minor ≥ 9 then minor + 3 else minor

/-! ### Update-only copies (R144, R145) -/

/-- The partition and die that a machine check of a location is reported to. -/
def State.ownerOf (s : State) (pa : Nat) : Option (Nat × Nat) :=
  match s.granOwner (pa / 2 ^ 27) with
  | none => none
  | some pid => (s.dieOf pid 0).map (fun d => (pid, d))

/-- Combines one partial into the home value, which every later read returns (R145): the copies of the word go. Where the value is
uncorrectable the reduction is dropped and reported (R481). -/
def State.combine (s : State) (u : UPart) : State :=
  if s.badRange u.pa u.width then s.mcheck 4 (u.pa / 2 ^ 27) (s.ownerOf u.pa)
  else
    { s with stale := s.stale.filter (fun e => e.1 % 2 ^ 48 / 8 != u.pa / 8) }.putHome u.pa
      (leBytes (atomNew u.op (leNat (s.homeBytes u.pa u.width)) u.val.toNat 0) u.width)

/-- Recalls every U copy of the lines that `n` bytes from `pa` touch (R145). -/
def State.recall (s : State) (pa n : Nat) : State :=
  let hit := fun (u : UPart) => decide (pa / 192 ≤ u.pa / 192) && decide (u.pa / 192 ≤ (pa + n - 1) / 192)
  (s.ucopies.filter hit).foldl State.combine ({ s with ucopies := s.ucopies.filter (fun u => !hit u) })

/-- A reduction applied to the U copy of the issuing core's L1 (R144): a partial of another operation or width in its
8-byte word is first recalled, and a shared copy of the word in that L1 goes. -/
def State.reduceU (s0 : State) (die tile op pa width : Nat) (val : W64) : State :=
  let s := s0.dropOwn die tile 2 pa width
  let word := fun (u : UPart) => u.die == die && u.tile == tile && u.pa / 8 == pa / 8
  let s1 := if s.ucopies.any (fun u => word u && (u.op != op || u.width != width)) then s.recall pa width else s
  if s1.ucopies.any (fun u => word u && u.pa == pa) then
    let step := fun (u : UPart) =>
      if word u && u.pa == pa then { u with val := BitVec.ofNat 64 (atomNew op u.val.toNat val.toNat 0) } else u
    { s1 with ucopies := s1.ucopies.map step }
  else
    let u : UPart := ⟨die, tile, pa, width, op, val⟩
    { s1 with ucopies := s1.ucopies ++ [u] }

/-- A write is performed at its home, under its key where its page is protected. -/
def State.land (s : State) (w : PWrite) : State :=
  let s1 := s.recall w.pa w.bytes.length
  if w.sealGen = 0 then s1.putHome w.pa w.bytes else (s1.putSealed w.sealGen w.pa w.bytes).clearCovered w.pa w.bytes.length

/-- Has a write of a thread reached the home of a locked frame behind held writes: all that its release still waits for is held (R155)? -/
def State.mayHold (s : State) (w : PWrite) : Bool :=
  let before := s.writes.takeWhile (fun u => u.id != w.id)
  !w.held && (s.lockOf w.pa).isSome && !before.any (fun u => u.level == w.level && u.hits w.pa w.bytes.length && !u.held &&
      u.uid == w.uid && u.wid == w.wid && u.lane == w.lane) &&
    w.deps.any (fun d => !s.performedAt d.1 d.2) &&
    w.deps.all (fun d => s.performedAt d.1 d.2 || s.writes.any (fun u => u.id == d.1 && u.held))

/-- A write is held at its home, in the order of arrival. -/
def State.holdWrite (s : State) (w : PWrite) : State :=
  { s with writes := s.writes.filter (fun u => u.id != w.id) ++ [{ w with held := true }] }

/-- Is a write performed at its home, and not lost, where nothing serves its location or its stack is not enabled (R445, R471)? -/
def State.lands (s : State) (pa : Nat) : Bool := if isHbm pa then s.stackOn (pa / 2 ^ 27 / 384) else s.served pa || s.draining pa

/-- Raises a write by one level: to its core, its quad, its die, the module, or its home (R132). Past its core, a write to a frame
that is locked has reached the home and is held there (R155). A store that nothing serves, or whose stack is not enabled, is lost and logged
(R445, R471). -/
def State.raise (s : State) (w : PWrite) : State :=
  let rest := s.writes.filter (fun u => u.id != w.id)
  if decide (1 ≤ w.level) && (s.lockOf w.pa).isSome then s.holdWrite w
  else
    let s1 := if 1 ≤ w.level ∧ w.level ≤ 3 then s.leave w.level w else s
    if w.level + 1 ≥ w.target then
      let s2 := { s1 with writes := rest }
      if s.lands w.pa then s2.land w
      else s2.log (Config.lostCode w.pa).toNat (Config.lostDetail w.pa).toNat
    else { s1 with writes := rest ++ [{ w with level := w.level + 1 }] }

/-- Is any write in flight that a thread, its core or its die could see there? -/
def State.inFlight (s : State) (v : View) (pa n : Nat) : Bool :=
  s.writes.any (fun w => w.hits pa n && w.seenBy v)

/-- Is an atomic performed below the home in flight there? -/
def State.rmwInFlight (s : State) (pa n : Nat) : Bool := s.writes.any (fun w => w.rmw && w.hits pa n)

end Sys2Proof.Machine
end

