-- ==== Sys2Proof/Machine/Translate.lean ====
section
/-! DEFINITION. Address translation (17, 22 R462): the page tables and their walk, what a leaf permits (R385), the
format and key checks of each kind of access (R111), the boot map of the rim cores. -/

namespace Sys2Proof.Machine

/-! ### Leaf entries (R383) -/

def leafMig (e : W64) : Bool := e.getLsbD 63
def leafOrd (e : W64) : Bool := e.getLsbD 62
def leafKey (e : W64) : Nat := field e 59 48
def leafPa (e : W64) : Nat := field e 47 17 * 2 ^ 17
def leafWb (e : W64) : Bool := e.getLsbD 16
def leafFmt (e : W64) : Nat := field e 15 12
def leafGeo (e : W64) : Nat := field e 11 11
def leafSize (e : W64) : Nat := field e 10 9
def leafX (e : W64) : Bool := e.getLsbD 6
def leafW (e : W64) : Bool := e.getLsbD 5
def leafR (e : W64) : Bool := e.getLsbD 4
def leafSup (e : W64) : Bool := e.getLsbD 3

/-- Bytes of a page by SIZE code. -/
def pageBytes (size : Nat) : Nat := 2 ^ (if size = 3 then 32 else 17 + 5 * size)

/-- Is a granule of 128 MiB in a partition's frame map, or in one of its windows (R393, R433)? -/
def State.granIn (s : State) (pid g : Nat) : Bool :=
  if g < 12288 then (s.reg (partCtl pid (0x100 + 8 * (g / 64)))).getLsbD (g % 64)
  else
    (List.range 8).any fun k =>
      let c := s.reg (partCtl pid (0x808 + 16 * k))
      let b := s.fld (partCtl pid (0x800 + 16 * k)) 47 27
      c.getLsbD 63 && decide (b ≤ g) && decide (g < b + field c 20 0)

/-- Is a range of physical memory in a partition's frame map and windows? -/
def State.inFrames (s : State) (pid pa n : Nat) : Bool :=
  (List.range ((pa + n - 1) / 2 ^ 27 + 1 - pa / 2 ^ 27)).all (fun i => s.granIn pid (pa / 2 ^ 27 + i))

/-- Is a present leaf at a level malformed (R384)? -/
def State.badLeaf (s : State) (pid lvl : Nat) (e : W64) : Bool :=
  let sz := leafSize e
  let fits := match lvl with
    | 2 => sz == 3
    | 1 => sz == 1 || sz == 2
    | 0 => sz == 0
    | _ => false
  field e 8 7 != 0 || field e 2 2 != 0 || !fits || leafPa e % pageBytes sz != 0 ||
    decide (leafFmt e > 6) || (leafGeo e == 1 && leafFmt e != 6) || (leafFmt e == 6 && !s.feature 3) ||
    field e 61 60 == 3 || (leafW e && !leafR e) ||
    (leafKey e != 0 && !(s.keysOf pid).contains (leafKey e)) || !s.inFrames pid (leafPa e) (pageBytes sz)

/-- Table bytes and index of each level (R381). -/
def tableBytes (lvl : Nat) : Nat := match lvl with | 3 => 131072 | 0 => 256 | _ => 8192
def levelIndex (lvl va : Nat) : Nat :=
  match lvl with
  | 3 => va / 2 ^ 42 % 16384
  | 2 => va / 2 ^ 32 % 1024
  | 1 => va / 2 ^ 22 % 1024
  | _ => va / 2 ^ 17 % 32

/-- An entry, read at `pkg` scope, with every U copy combined as any read does (R145, R381). -/
def State.entryAt (s : State) (pa : Nat) : W64 :=
  BitVec.ofNat 64 (leNat ((s.recall pa 8).peekMem { die := 65, tile := 0 } pa 8))

/-- The entry of a VA in a table. A leaf of a 128 MiB page is any one of its 32 where they differ (R384). -/
def State.entryFor (s : State) (lvl table va : Nat) : W64 :=
  let i := levelIndex lvl va
  let e := s.entryAt (table + 8 * i)
  if lvl = 1 ∧ e.getLsbD 0 = true ∧ e.getLsbD 1 = true ∧ leafSize e = 2 then
    let first := table + 8 * (i / 32 * 32)
    if (List.range 32).all (fun j => s.entryAt (first + 8 * j) == e) then e
    else s.entryAt (first + 8 * (Config.pick128 (first + va / 2 ^ 27) % 32))
  else e

/-- A translation found by a walk: the page's base, its bytes and its leaf. -/
structure Page where
  base : Nat
  bytes : Nat
  leaf : W64
  deriving DecidableEq, Repr

/-- The bytes of VA that an entry at a level covers. -/
def levelBytes (lvl : Nat) : Nat := match lvl with | 3 => 2 ^ 42 | 2 => 2 ^ 32 | 1 => 2 ^ 22 | _ => 2 ^ 17

/-- The entry of a VA in a table as a die's walk reads it (R386): the one in memory, or, while its walk cache holds an older one, either. -/
def State.dieEntry (s : State) (die ctxn lvl table va : Nat) : W64 :=
  let e := s.entryFor lvl table va
  match s.tlb.find? (fun x => x.die == die && x.quarter == none && x.level == lvl + 1 && x.ctxn == ctxn &&
      decide (x.base ≤ va) && decide (va < x.base + x.size)) with
  | none => e
  | some x => if x.leaf = e then e else if Config.oldEntry s.clk va lvl then x.leaf else e

/-- Does a TDI outside RUN keep a partition from host memory (R437)? -/
def State.hostShut (s : State) (pid : Nat) : Bool := s.bound pid && s.feature 4 && s.tdi.get pid 0 != 2

/-- The walk of a die from a table at level `lvl` down (R381, R385), with the table entries on its path; none is PAGE_FAULT. A
TDI outside RUN keeps the walk from tables in host memory too (R437; assumption 128). -/
def State.walkFrom (s : State) (die ctxn pid va : Nat) (lvl table : Nat) : Option (Page × List (Nat × W64)) :=
  if !s.inFrames pid table (tableBytes lvl) || (isHost table && s.hostShut pid) then none
  else
    let e := s.dieEntry die ctxn lvl table va
    if !e.getLsbD 0 then none
    else if e.getLsbD 1 then
      if s.badLeaf pid lvl e then none
      else some (⟨va / pageBytes (leafSize e) * pageBytes (leafSize e), pageBytes (leafSize e), e⟩, [])
    else
      match lvl with
      | 0 => none
      | n + 1 =>
        let next := field e 47 8 * 256
        if field e 63 48 != 0 || field e 7 2 != 0 || next % tableBytes n != 0 then none
        else (s.walkFrom die ctxn pid va n next).map (fun r => (r.1, (lvl, e) :: r.2))

/-- The walk of a context's VA on a die (R381, R382), with the table entries that it read. -/
def State.walkPath (s : State) (die ctxn pid va : Nat) : Option (Page × List (Nat × W64)) :=
  let root := s.ctxWord 0 ctxn 3
  if !root.getLsbD 0 then none else s.walkFrom die ctxn pid va 3 (field root 47 17 * 2 ^ 17)

/-- The page that a walk on a die finds. -/
def State.walkOn (s : State) (die ctxn pid va : Nat) : Option Page := (s.walkPath die ctxn pid va).map (·.1)

/-- The page as memory alone holds it: a walk that no walk cache serves. -/
def State.walk (s : State) (ctxn pid va : Nat) : Option Page := s.walkOn 65 ctxn pid va

/-! ### Accesses -/

/-- Who accesses: where it stands, its context and partition, its level. -/
structure Who where
  die : Nat
  tile : Nat
  q : Nat
  ctxn : Nat
  pid : Nat
  level : Level
  deriving DecidableEq, Repr

def Block.who (b : Block) (w : Wave) : Who := ⟨b.die, b.tile, w.quarter, b.ctxn, b.pid, b.level⟩

/-- A rim core's threads translate through the boot map (R462). -/
def Who.rim (w : Who) : Bool := w.die == 64

/-- The kinds of access (R111, R385). -/
inductive AccKind where
  | load | store | atomic | dec | rawLoad | rawStore | fetch | spill | refill | engRead | engWrite
  deriving DecidableEq, Repr

def AccKind.needsR : AccKind → Bool
  | .load => true | .dec => true | .rawLoad => true | .refill => true | .engRead => true | .atomic => true | _ => false
def AccKind.needsW : AccKind → Bool
  | .store => true | .rawStore => true | .spill => true | .engWrite => true | .atomic => true | _ => false

/-- Where an access goes: a physical address with its leaf, or a maintenance address (R462). -/
structure Xlat where
  pa : Nat
  leaf : W64 := 0x10
  maint : Bool := false
  deriving DecidableEq, Repr

/-- What translation answers: a place, a miss to wait for (R388), or a fault. -/
inductive XRes where
  | ok (x : Xlat)
  | miss
  | fault (c : Cause)
  deriving DecidableEq, Repr

/-- The TLB entry of a quarter that covers a VA (R386). -/
def State.tlbFind (s : State) (w : Who) (va : Nat) : Option TlbE :=
  s.tlb.find? fun e => e.die == w.die && e.quarter == some (w.tile, w.q) && e.ctxn == w.ctxn &&
    decide (e.base ≤ va) && decide (va < e.base + e.size)

/-- What a leaf permits (R385), and host windows (R437). -/
def State.permits (s : State) (w : Who) (k : AccKind) (leaf : W64) (pa : Nat) : Bool :=
  (!k.needsR || leafR leaf) && (!k.needsW || leafW leaf) && (k != .fetch || leafX leaf) &&
    (w.level != .u || !leafSup leaf) && (w.level == .m || !leafWb leaf) && !(isHost pa && s.hostShut w.pid)

/-- The verified image that rim cores may fetch from (R479). -/
def State.inImage (s : State) (pa : Nat) : Bool :=
  let b := (s.reg 0x30000).toNat
  (s.reg 0x300A8).getLsbD 1 && decide (b ≤ pa) && decide (pa < b + 192 * (s.reg 0x30008).toNat)

/-- The boot map (R462). -/
def State.bootMap (s : State) (k : AccKind) (va : Nat) : XRes :=
  if va < 2 ^ 48 then
    if !(isHbm va || isHost va || isPeer va) then .fault .pageFault
    else if k = .fetch ∧ s.inImage va = false then .fault .access
    else .ok { pa := va, leaf := 0x70 }
  else if 0x00F0000000000000 ≤ va ∧ va < 0x00F0000020000000 then
    let a := va - 0x00F0000000000000
    if k = .fetch ∧ !(0x60000 ≤ a && a < 0x70000) then .fault .access
    else .ok { pa := a, leaf := 0x70, maint := true }
  else .fault .pageFault

/-- Translation with the checks of R385: step 1 of R111. -/
def State.translate (s : State) (w : Who) (k : AccKind) (va : Nat) : XRes :=
  if va ≥ 2 ^ 56 then .fault .pageFault
  else if w.rim then s.bootMap k va
  else
    match s.tlbFind w va with
    | some e =>
      let pa := leafPa e.leaf + (va - e.base)
      if s.permits w k e.leaf pa then .ok { pa := pa, leaf := e.leaf } else .fault .access
    | none =>
      match s.walkOn w.die w.ctxn w.pid va with
      | none => .fault .pageFault
      | some _ => .miss

/-- The byte offset in its 128 KiB unit of a physical address (R88). -/
def unitOff (va : Nat) : Nat := va % 131072

/-- Does a unit offset hold a code byte of a Q4 unit (R88)? -/
def q4IsCode (geo o : Nat) : Bool := if geo = 0 then decide (o < 120960) else decide (o < 108288)

/-- Is a unit offset reserved (R88)? -/
def q4Reserved (geo o : Nat) : Bool := if geo = 0 then decide (131040 ≤ o) else decide (130848 ≤ o)

/-- Steps 2 and 3 of R111, by kind, from the leaf. -/
def fmtCheck (k : AccKind) (leaf : W64) (va : Nat) : Option Cause :=
  if leafKey leaf ≠ 0 then some .protPlain
  else
    match k with
    | .dec =>
      if leafFmt leaf = 0 then some .formatMismatch
      else if leafFmt leaf = 6 ∧ q4IsCode (leafGeo leaf) (unitOff va) = false then some .formatMismatch
      else none
    | .rawLoad => none
    | .rawStore => none
    | .fetch => if leafFmt leaf ≠ 0 then some .access else none
    | .engRead => none
    | .engWrite => none
    | _ => if leafFmt leaf ≠ 0 then some .formatMismatch else none

/-- The width that an access has, given the leaf: an element for `ld.dec` (R112). -/
def accWidth (k : AccKind) (leaf : W64) (width : Nat) : Nat :=
  if k = .dec then (if leafFmt leaf = 6 then 1 else elemSize (leafFmt leaf)) else width

/-- Every check of R111 for one access at `va` of a width: a place, a miss, or the fault that comes first. -/
def State.access (s : State) (w : Who) (k : AccKind) (va width : Nat) : XRes :=
  if va + width > 2 ^ 56 then .fault .pageFault else
  match s.translate w k va with
  | .fault c => .fault c
  | .miss => .miss
  | .ok x =>
    if x.maint then
      if k = .dec then .fault .formatMismatch
      else if k = .atomic ∨ (k ≠ .fetch ∧ width < 4) then .fault .access
      else if va % width ≠ 0 then .fault .align
      else .ok x
    else if va + accWidth k x.leaf width > 2 ^ 56 then .fault .pageFault
    else
      match fmtCheck k x.leaf va with
      | some c => .fault c
      | none => if va % accWidth k x.leaf width ≠ 0 then .fault .align else .ok x

end Sys2Proof.Machine
end

