-- ==== Sys2Proof/Machine/Ops.lean ====
section
/-! DEFINITION. The operations that the meanings share: the three kinds of instruction (R39 to R41, R61), checks of
operands, taking a fault or a trap (R357, R358, R366) and returning from one, transaction aborts (R247), pending-reply
slots (R69), the call stack (R75 to R77). -/

namespace Sys2Proof.Machine

/-- What an access by a rim core or a tile thread is seen as. -/
def State.who (s : State) : Who := s.bk.who s.pre

/-- The thread of a lane as a reader and writer. -/
def State.view (s : State) (L : Nat) : View := ⟨s.bk.die, s.bk.tile, s.cur.uid, s.cur.wid, L⟩

def State.setW (s : State) (w : Wave) : State := { s with wv := w }

/-- What a meaning answers. -/
abbrev Out := Host.Outcome State Fault Refusal

/-! ### Blocks and waves by name -/

/-- A block; the block of the issue in progress is the one in the issue stage. -/
def State.block (s : State) (uid : Nat) : Block :=
  if s.cur.on && s.cur.uid == uid then s.bk else s.blocks.get uid {}

def State.setBlock (s : State) (uid : Nat) (b : Block) : State :=
  if s.cur.on && s.cur.uid == uid then { s with bk := b } else { s with blocks := s.blocks.set uid b {} }

/-- A wave of a block; the issuing wave is the one in the issue stage. -/
def State.wave (s : State) (uid wid : Nat) : Wave :=
  if s.cur.on && s.cur.uid == uid && s.cur.wid == wid then s.wv else (s.block uid).waves[wid]?.getD {}

def State.setWave (s : State) (uid wid : Nat) (w : Wave) : State :=
  if s.cur.on && s.cur.uid == uid && s.cur.wid == wid then { s with wv := w }
  else
    let b := s.block uid
    s.setBlock uid { b with waves := b.waves.set wid w }

/-- The uids of every block. -/
def State.uids (s : State) : List Nat := s.blocks.map (·.1)

def State.launch (s : State) (id : Nat) : Launch := s.launches.get id {}
def State.setLaunch (s : State) (id : Nat) (l : Launch) : State := { s with launches := s.launches.set id l {} }

/-- The launch of the issuing block. -/
def State.curLaunch (s : State) : Launch := s.launch s.bk.launch

/-! ### Stops -/

/-- Why a thread does not perform its instruction now: it waits; it waits only for its turn in the order of memory or of the commit
token, and so is ready (R36 lists no such wait); it waits for the walk of an address; it faults, with `ebad`; its transaction aborts. -/
inductive Stop where
  | wait
  | order
  | walk (va : Nat)
  | fault (c : Cause) (ebad : W64)
  | abort (cause ucode : Nat)
  deriving DecidableEq, Repr

def Stop.isFault : Stop → Bool
  | .fault _ _ => true
  | _ => false

def Stop.isWait : Stop → Bool
  | .wait => true
  | .order => true
  | .walk _ => true
  | _ => false

/-- A walk is asked for (R386): the die, the quarter, the context, the page of the least size that holds the address. -/
def State.want (s : State) (w : Who) (va : Nat) : State :=
  let x := (w.die, w.tile * 4 + w.q, w.ctxn, va / 2 ^ 17 * 2 ^ 17)
  if s.walks.contains x then s else { s with walks := s.walks ++ [x] }

/-- The walks that a list of stops asks for. -/
def State.wantAll (s : State) (stops : List (Nat × Stop)) : State :=
  stops.foldl (fun s e => match e.2 with
    | .walk va => s.want s.who va
    | _ => s) s

/-- The first stop of a list of checks. -/
def firstStop : List (Option Stop) → Option Stop
  | [] => none
  | some x :: _ => some x
  | none :: r => firstStop r

/-- A fault when a condition fails. -/
def need (ok : Bool) (c : Cause) (ebad : W64) : Option Stop := if ok then none else some (.fault c ebad)

/-- A wait unless a condition holds. -/
def await (ok : Bool) : Option Stop := if ok then none else some .wait

/-- A wait for the thread's turn in an order unless a condition holds. -/
def inTurn (ok : Bool) : Option Stop := if ok then none else some .order

/-- A lane's pending loads no longer belong to a transaction. -/
def Wave.untx (w : Wave) (L : Nat) : Wave :=
  { w with slots := w.slots.map (fun e => (e.1, { e.2 with
      reqs := e.2.reqs.map (fun q => if q.lane = L then { q with tx := false } else q) })) }

/-- An abort of a lane's transaction (R247): `tstat`, the recorded predicate, the call-stack depth and the PC. -/
def Wave.txAbort (w : Wave) (L cause ucode : Nat) : Wave :=
  match w.txOf L with
  | none => w
  | some t =>
    let st := (w.stack.get L []).take t.depth
    let w1 := (((w.untx L).setTstat L (tsAbort cause ucode)).setTx L none).setPc L t.resumePc
    { w1.setPred (BitVec.ofNat 3 t.pred) (BitVec.ofNat 48 (2 ^ L)) 0 with
        stack := w.stack.set L st [], memDepth := w.memDepth.set L (min (w.memDepth.get L 0) t.depth) 0 }

/-- The lanes of a list of stops whose stop passes a test. -/
def stopLanes (f : Stop → Bool) (stops : List (Nat × Stop)) : Lanes := maskOf (fun L => stops.any (fun e => e.1 == L && f e.2))

/-- Threads that do not issue now keep their PC at the group's first word. -/
def State.hold (s : State) (m : Lanes) : State :=
  { s with wv := s.wv.setPcs m s.cur.pc, cur := { s.cur with held := s.cur.held ||| m } }

/-! ### Taking a fault or a trap (R356 to R358, R366) -/

/-- Does a cause record itself in FCODE of the lane (a fault does, a trap does not)? -/
def Cause.isTrap : Cause → Bool
  | .softTrap => true | .breakpoint => true | .singleStep => true | _ => false

/-- One faulting lane: inside a transaction the abort with FAULT comes first and the PC is the resume point (R148, R247);
otherwise the PC is the group's first word. FCODE records the code (R357). -/
def Wave.laneFault (w : Wave) (pc : Nat) (f : LaneFault) : Wave :=
  let w1 := (w.setPc f.lane pc).txAbort f.lane 5 0
  if f.cause.isTrap then w1 else { w1 with fcode := w1.fcode.set f.lane f.cause.code 0 }

/-- The wave stops for a cause: `ecause`, `epc`, `ebad`, `skid`. -/
def Wave.stopFor (w : Wave) (c : Cause) (lv : Bool) (lane : Nat) (epc : Nat) (ebad : W64) : Wave :=
  { w with ecause := ecauseWord c lv lane, epc := BitVec.ofNat 64 epc, ebad := ebad, skid := 0, stopped := true,
           skidding := false, parked := [] }

/-- Does a block stop for a cause that one of its waves met at the issue of clk `clk`, before the broadcast to the others (R357)? -/
def Block.trapsAt (b : Block) (clk : Nat) : Bool := b.stopping == .trap && !b.broadcast && b.haltClk == some clk

/-- The block begins to stop for the cause of wave `wid` (R358); the broadcast to its other waves follows. Among the waves that stop for a
cause of their own in one clk, given for a cause met at issue, the lowest is the faulting wave (R357). -/
def Block.beginTrap (b : Block) (wid : Nat) (clk : Option Nat := none) : Block :=
  if b.stopping = .no then { b with stopping := .trap, causeWave := some wid, broadcast := false, haltClk := clk }
  else if clk.any b.trapsAt ∧ wid < b.causeWave.getD 0 then { b with causeWave := some wid }
  else b

/-- Taking an exception: every faulting lane as `laneFault`; the wave's registers describe the lowest (R357); its
block begins to stop. In a group of several words the faults are only collected, and the group is not performed for
those lanes (R164). `epc` of a branch that is not uniform is its own address where it is chained, and else the PC or, in a transaction, the
resume point (R197; assumption 116). -/
def State.takeFaults (s : State) (fs : List LaneFault) : State :=
  match fs with
  | [] => s
  | f :: _ =>
    if s.cur.chained then
      let at_ := fun (f : LaneFault) => { f with at_ := if f.cause = .uniformity then some s.cur.wordPc else none }
      { s with cur := { s.cur with faults := s.cur.faults ++ fs.map at_ },
               wv := fs.foldl (fun w f => w.setPc f.lane s.cur.pc) s.wv }
    else
      let w1 := fs.foldl (fun w f => w.laneFault s.cur.pc f) s.wv
      { s with wv := w1.stopFor f.cause f.lv f.lane (f.at_.getD (w1.pcOf f.lane)) f.ebad, bk := s.bk.beginTrap s.cur.wid (some s.clk) }

/-- A wave in its skid stops in front of a fault, a `brk` or a `trap` (R202): nothing of it is retired, and `epc` names the first word of its
group (assumption 132). A hit of a
breakpoint register, given by its `ebad`, in the skid of a sealing is kept for the debugger (R370). -/
def State.stopSkid (s : State) (bp : Option Nat := none) : State :=
  let w0 := match bp with
    | some n => if s.bk.stopping = Stopping.sealing then { s.wv with dbgpend := 0x80 + n % 4, skipbp := true } else s.wv
    | none => s.wv
  let lane := match bp with
    | some n => n / 2 ^ 12 % 64
    | none => (lanesOf s.cur.lanes).headD 0
  let w1 := { w0.setPcs s.cur.lanes s.cur.pc with front := some (s.cur.pc, lane) }
  { s with wv := { w1 with ecause := ecauseWord .halted false 0, epc := BitVec.ofNat 64 s.cur.pc, stopped := true,
                           skidding := false, parked := [] },
           cur := { s.cur with held := s.cur.lanes } }

/-- The `ebad` of the first data hit among stops. -/
def bpOf (stops : List (Nat × Stop)) : Option Nat :=
  stops.findSome? fun e => match e.2 with
    | .fault .breakpoint b => some b.toNat
    | _ => none

/-- The first breakpoint register of a context that is enabled and passes a test of its KIND and VA (R370). -/
def State.bpFind (s : State) (ctxn : Nat) (f : Nat → Nat → Bool) : Option Nat :=
  (List.range 4).find? fun n =>
    let r := s.ctxWord 5 ctxn n
    r.getLsbD 63 && f (field r 62 61) (field r 55 0)

/-- A hit by the words of a group. -/
def State.bpExec (s : State) (ctxn lo hi : Nat) : Option Nat :=
  s.bpFind ctxn (fun k va => k == 0 && decide (lo ≤ va) && decide (va < hi))

/-- `ebad` of a breakpoint-register hit (R370). -/
def bpBad (n lane : Nat) : W64 := BitVec.ofNat 64 (2 ^ 63 + lane * 2 ^ 12 + n)

/-- A hit by a data access that touches the aligned 8-byte granule of VA. -/
def State.bpData (s : State) (L : Nat) (load store : Bool) (va width : Nat) : Option Stop :=
  if s.wv.skipbp then none
  else
    (s.bpFind s.bk.ctxn (fun k b => ((k == 1 && load) || (k == 2 && store) || (k == 3 && (load || store))) &&
      decide (va < b / 8 * 8 + 8) && decide (b / 8 * 8 < va + width))).map (fun n => .fault .breakpoint (bpBad n L))

/-- Settles the lanes that did not perform an instruction: waits, aborts, faults. -/
def State.settle (s : State) (lv : Bool) (stops : List (Nat × Stop)) : State :=
  let s0 := s.hold (stopLanes Stop.isWait stops)
  let s1 := { s0 with cur := { s0.cur with ordered := s0.cur.ordered ||| stopLanes (· == Stop.order) stops } }.wantAll stops
  let s2 := stops.foldl (fun s e => match e.2 with
    | .abort c u => s.setW (s.wv.txAbort e.1 c u)
    | _ => s) s1
  s2.takeFaults (stops.filterMap fun e => match e.2 with
    | .fault c b => some ⟨e.1, c, b, lv, none⟩
    | _ => none)

/-! ### The three kinds of instruction -/

/-- What stops a lane of a per-thread instruction: its guarding predicate may still be awaited (R249); a lane whose
guard is false is checked no further (R61). -/
def State.laneStop (s : State) (h : Hdr) (chk : Nat → Option Stop) (L : Nat) : Option Stop :=
  if h.guardPred != 7 && s.pre.predAwaited h.guardPred L then some .wait
  else if h.guard s.pre L then chk L else none

/-- What stops a lane of an instruction that may be an ordered operation of a DET launch (R48): its lanes go together, in ascending order and
at one value of `wclk`, so that none passes, not one whose guard is false either, while another still waits. -/
def State.together (s : State) (h : Hdr) (ordered : Bool) (chk : Nat → Option Stop) (L : Nat) : Option Stop :=
  let x := s.laneStop h chk L
  if ordered && s.curLaunch.rcd.det && (lanesOf s.cur.lanes).any (fun K => ((s.laneStop h chk K).map Stop.isWait).getD false) &&
    !((x.map (fun y => y.isFault || y.isWait)).getD false) then some .order
  else x

/-- A per-thread instruction whose lanes stop as `stop` says: those that pass with a true guard perform; every lane that passes or whose
transaction aborts counts in `wclk` (R47; assumption 115). A wave in its skid stops in front of a fault (R202). -/
def perThreadBy (h : Hdr) (s : State) (stop : Nat → Option Stop) (eff : Lanes → State → State) : State :=
  let ls := lanesOf s.cur.lanes
  let stops := ls.filterMap (fun L => (stop L).map (fun x => (L, x)))
  if s.wv.skidding && stops.any (fun e => e.2.isFault) then s.stopSkid (bpOf stops)
  else
    let run := maskOf (fun L => laneIn s.cur.lanes L && h.guard s.pre L && (stop L).isNone)
    let n := (ls.filter (fun L => match stop L with
      | some (.abort _ _) => true
      | some _ => false
      | none => true)).length
    let s1 := eff run s
    (s1.setW (s1.wv.count n)).settle true stops

/-- A per-thread instruction (R61, R226): each lane issued is checked. -/
def perThread (h : Hdr) (s : State) (chk : Nat → Option Stop) (eff : Lanes → State → State) : State :=
  perThreadBy h s (s.laneStop h chk) eff

/-- A per-thread instruction that is an ordered operation in a DET launch where `ordered` says so (R48). -/
def orderedBy (h : Hdr) (s : State) (ordered : Bool) (chk : Nat → Option Stop) (eff : Lanes → State → State) : State :=
  perThreadBy h s (s.together h ordered chk) eff

/-- A wave-level instruction (R39) without its count in `wclk`: once every live thread stands at it, it is checked and
acts once. -/
def waveRaw (s : State) (chk : Option Stop) (eff : State → State) : State :=
  if s.cur.lanes != s.pre.live then s.hold s.cur.lanes
  else
    match chk with
    | none => eff s
    | some x =>
      if s.wv.skidding && x.isFault then s.stopSkid (bpOf [(0, x)])
      else s.settle false ((lanesOf s.cur.lanes).map (fun L => (L, x)))

/-- The wave's live threads count as having executed a wave-level instruction (R47). -/
def State.countLive (s : State) : State := s.setW (s.wv.count (countLanes s.pre.live))

/-- A wave-level instruction (R39). -/
def waveLevel (s : State) (chk : Option Stop) (eff : State → State) : State := waveRaw s chk (fun s => (eff s).countLive)

/-- A member-masked instruction (R40): once every effective member stands at it, it is checked and acts once. Lanes
issued that are not members pass over it. With no effective member it issues at once and writes nothing (R213), but for the fault of a check
that is made once, which it takes for the lanes that issue it (R204). -/
def memberMasked (h : Hdr) (s : State) (chk : Option Stop) (eff : Lanes → State → State) : State :=
  let m := h.members s.pre
  if m = 0 then
    match chk.filter Stop.isFault with
    | none => s
    | some x =>
      if s.wv.skidding then s.stopSkid
      else s.settle false ((lanesOf s.cur.lanes).map (fun L => (L, x)))
  else if m &&& s.cur.lanes != m then s.hold (m &&& s.cur.lanes)
  else
    match chk with
    | none =>
      let s1 := eff m s
      s1.setW (s1.wv.count (countLanes m))
    | some x =>
      if s.wv.skidding && x.isFault then s.stopSkid
      else s.settle false ((lanesOf m).map (fun L => (L, x)))

/-! ### Operand checks (R58, R67, R68, R232) -/

/-- REG_BOUNDS over every register of every span (R58): the first operand that fails is reported, destinations before sources
(assumption 108). -/
def boundsCheck (w : Wave) : List VOp → Option Stop
  | [] => none
  | o :: r =>
    match o.beyond w.vregs with
    | some n => some (.fault .regBounds (BitVec.ofNat 64 n))
    | none => boundsCheck w r

/-- Does a destination make a lane wait: empty and not marked (R68, R232)? -/
def dstWaits (w : Wave) (L : Nat) (o : VOp) : Bool := o.regs.any (fun r => w.isEmpty r L && (w.marked r L).isNone)

/-- A source register that is not full in a lane: DATA_ERROR where it is marked (R232), else REG_EMPTY or a wait, as the operand's
empty-behaviour bit says (R67). -/
def regStop (w : Wave) (L : Nat) (trap : Bool) (r : Nat) : Stop :=
  match w.marked r L with
  | some a => .fault .dataError (BitVec.ofNat 64 a)
  | none => if trap then .fault .regEmpty (BitVec.ofNat 64 r) else .wait

/-- The first fault of several tests, or else their first wait. -/
def faultFirst (l : List (Option Stop)) : Option Stop :=
  match firstStop (l.filter (fun x => (x.map Stop.isFault).getD false)) with
  | some x => some x
  | none => firstStop l

/-- The test of a source in a lane: of its registers that are not full the first that faults, else the first that waits (assumption 25). -/
def srcTest (w : Wave) (L : Nat) (o : VOp) : Option Stop :=
  faultFirst ((o.regs.filter (fun r => w.isEmpty r L)).map (fun r => some (regStop w L o.trap r)))

/-- The tests of the sources of a lane, in operand order: a source that faults decides before one that waits, since R183, R204
and R226 order the faults and name no wait among them (assumption 25). -/
def srcsTest (w : Wave) (L : Nat) (srcs : List VOp) : Option Stop := faultFirst (srcs.map (srcTest w L))

/-- The operand checks of one lane: bounds, the sources, then the destinations. -/
def opCheck (w : Wave) (L : Nat) (dsts srcs : List VOp) : Option Stop :=
  firstStop [boundsCheck w (dsts ++ srcs), srcsTest w L srcs, await (!dsts.any (dstWaits w L))]

/-- A lane's instruction that names a predicate destination or source waits for a `wlput` answer (R249). -/
def predCheck (w : Wave) (L : Nat) (ps : List (BitVec 3)) : Option Stop :=
  await (!ps.any (fun p => p != 7 && w.predAwaited p L))

/-- Writes a span of vector registers in one lane; a mark there is cleared (R232). -/
def Wave.put (w : Wave) (L : Nat) (d : VOp) (xs : List W32) : Wave :=
  (w.clearMarks d.reg (BitVec.ofNat 48 (2 ^ L)) d.span).setSpan d.reg L xs

/-- A per-thread instruction that computes vector registers from vector registers. -/
def vecOp (h : Hdr) (s : State) (d : VOp) (srcs : List VOp) (f : Nat → List W32) : State :=
  perThread h s (fun L => opCheck s.pre L [d] srcs)
    (fun m s => s.setW ((lanesOf m).foldl (fun w L => w.put L d (f L)) s.wv))

/-- A per-thread instruction that computes a predicate. -/
def vecCmp (h : Hdr) (s : State) (p : BitVec 3) (srcs : List VOp) (f : Nat → Bool) : State :=
  perThread h s (fun L => firstStop [boundsCheck s.pre srcs, predCheck s.pre L [p], opCheck s.pre L [] srcs])
    (fun m s => s.setW (s.wv.setPred p m (maskOf f)))

/-! ### Long-latency instructions (R66, R69) -/

/-- Takes the lowest free pending-reply slot for a span in the lanes of `m` and marks the span empty there. -/
def Wave.openSlot (w : Wave) (kind : SlotKind) (d : VOp) (m : Lanes) (reqs : List Req) : Wave :=
  if m = 0 then w else
  match w.freeSlot with
  | none => w
  | some i =>
    let w1 := (w.clearMarks d.reg m d.span).markEmpty d.reg m d.span
    { w1.setSlot i { kind := kind, reg := d.reg, span := d.span, lanes := m, reqs := reqs, ord := w1.slotSeq }
      with slotSeq := w1.slotSeq + 1 }

/-- The checks of a long-latency instruction: its operands, and a free slot (R69) that no other word of the group takes. -/
def longCheck (s : State) (L : Nat) (dsts srcs : List VOp) : Option Stop :=
  firstStop [boundsCheck s.pre (dsts ++ srcs), await s.wv.freeSlot.isSome, opCheck s.pre L dsts srcs]

/-- The reply of a lane that its slot no longer awaits is discarded (R70, R368). -/
def Wave.discard (w : Wave) (i L : Nat) : Wave :=
  let s := w.slot i
  w.setSlot i ({ s with reqs := s.reqs.filter (fun q => q.lane != L) }).tidy

/-- Writes the reply of one lane of slot `i`: the values, the full bits, the lane's share of the slot. -/
def Wave.reply (w : Wave) (i L : Nat) (xs : List W32) : Wave :=
  let s := w.slot i
  if !laneIn s.lanes L then w.discard i L
  else
    let w1 := (w.setSpan s.reg L xs).markFull s.reg L xs.length
    w1.setSlot i ({ s with lanes := setLane s.lanes L false, reqs := s.reqs.filter (fun q => q.lane != L) }).tidy

/-- An uncorrectable reply: the registers stay empty and the lane is marked with its address (R232). -/
def Wave.replyBad (w : Wave) (i L addr : Nat) : Wave :=
  let s := w.slot i
  if !laneIn s.lanes L then w.discard i L
  else w.setSlot i { s with lanes := setLane s.lanes L false, err := setLane s.err L true,
                            errAddr := s.errAddr.set L addr 0, reqs := s.reqs.filter (fun q => q.lane != L) }

/-! ### Ordered operations of a DET launch (R47 to R49) -/

/-- Is a wave counted for the commit token (R49)? -/
def Wave.counted (w : Wave) : Bool :=
  !w.ended && w.live != 0 &&
    !(match w.waiting with
      | .barrier _ _ => true
      | .semaphore _ _ granted _ => !granted
      | _ => false) && !(w.wlgetBlocked &&& w.live == w.live)

/-- The clocks and logical ids of the counted waves of a launch. -/
def State.tokens (s : State) (launch waves : Nat) : List (Nat × Nat) :=
  s.uids.flatMap fun u =>
    let b := s.block u
    if b.launch != launch || b.state == .ended || b.state == .lost then []
    else ((List.range b.waves.length).filter (fun i => (s.wave u i).counted)).map
      (fun i => ((s.wave u i).wclk.toNat, b.bid * waves + i))

/-- The logical id of the counted wave of the least pair (R48). -/
def leastId (ts : List (Nat × Nat)) : Option Nat :=
  (ts.foldl (fun (m : Option (Nat × Nat)) t => match m with
    | none => some t
    | some u => if t.1 < u.1 ∨ (t.1 = u.1 ∧ t.2 < u.2) then some t else some u) none).map (·.2)

/-- Does a wave whose clock is `clk` hold the commit token of its launch (R48): its pair is the least, and the token has reached
it (R51)? -/
def State.tokenAt (s : State) (uid wid clk : Nat) : Bool :=
  let b := s.block uid
  let l := s.launch b.launch
  let me := (clk, b.bid * l.rcd.waves + wid)
  l.token == some me.2 &&
    (s.tokens b.launch l.rcd.waves).all fun t => decide (me.1 < t.1) || (me.1 == t.1 && decide (me.2 ≤ t.2))

/-- Does the issuing wave hold it? -/
def State.holdsToken (s : State) : Bool := s.tokenAt s.cur.uid s.cur.wid s.pre.wclk.toNat

/-- An ordered operation waits for the token in a DET launch (R48). -/
def State.tokenCheck (s : State) : Option Stop := inTurn (!s.curLaunch.rcd.det || s.holdsToken)

/-- In a DET launch a store to an ORD page is an ordered operation (R48, R114): it waits for the token, and until no other
thread's write of the launch to those bytes is in flight (R158). -/
def State.ordWait (s : State) (L : Nat) (x : Xlat) (width : Nat) : Option Stop :=
  if s.curLaunch.rcd.det && leafOrd x.leaf && (s.wv.txOf L).isNone then
    firstStop [s.tokenCheck, inTurn (!s.writes.any (fun w => w.hits x.pa width &&
      (s.block w.uid).launch == s.bk.launch && !(w.uid == s.cur.uid && w.wid == s.cur.wid && w.lane == L)))]
  else none

/-! ### The call stack (R75 to R77) -/

/-- N of `cstk` (R74). -/
def Wave.stackN (w : Wave) : Nat := let sz := field w.cstk 58 56; if sz = 0 then 0 else 16 * 2 ^ (sz - 1)

/-- The address of memory slot `j` of a lane. -/
def Wave.stackAddr (w : Wave) (L j : Nat) : Nat := field w.cstk 55 12 * 4096 + L * w.stackN * 8 + 8 * j

def Wave.hwDepth (w : Wave) (L : Nat) : Nat := (w.stack.get L []).length - w.memDepth.get L 0

/-- A stop from what an access answers. -/
def XRes.stop (r : XRes) (va : Nat) : Option Stop :=
  match r with
  | .ok _ => none
  | .miss => some (.walk va)
  | .fault c => some (.fault c (BitVec.ofNat 64 va))

/-- What a push would stop for: the depth (R77), the fault of its spill (R76), a data hit (R370), or the order of a spill to an ORD page: a
spill is a plain store (R76, R114). -/
def State.pushCheck (s : State) (L : Nat) : Option Stop :=
  if s.wv.hwDepth L < 8 then none
  else
    let j := s.wv.memDepth.get L 0
    let a := s.wv.stackAddr L j
    if j ≥ s.wv.stackN then some (.fault .access (BitVec.ofNat 64 a))
    else
      match s.access s.who .spill a 8 with
      | .ok x => firstStop [s.bpData L false true a 8, s.ordWait L x 8]
      | r => r.stop a

/-- Does a lane's push spill to an ORD page, outside a transaction: an ordered operation of a DET launch (R48, R76, R114)? -/
def State.ordSpill (s : State) (L : Nat) : Bool :=
  decide (s.wv.hwDepth L ≥ 8) && (s.wv.txOf L).isNone &&
    (match s.access s.who .spill (s.wv.stackAddr L (s.wv.memDepth.get L 0)) 8 with
      | .ok x => leafOrd x.leaf
      | _ => false)

/-- Is an instruction that pushes an ordered operation (R48, R76): does a lane of it spill to an ORD page? -/
def State.ordPush (s : State) (h : Hdr) : Bool := (lanesOf s.cur.lanes).any (fun L => h.guard s.pre L && s.ordSpill L)

/-- What a pop would stop for: an empty stack, or the fault of its refill. -/
def State.popCheck (s : State) (L : Nat) : Option Stop :=
  if s.wv.hwDepth L > 0 then none
  else
    let j := s.wv.memDepth.get L 0
    if j = 0 then some (.fault .access 0)
    else
      let a := s.wv.stackAddr L (j - 1)
      firstStop [(s.access s.who .refill a 8).stop a, s.bpData L true false a 8]

/-- The newest return address. -/
def Wave.top (w : Wave) (L : Nat) : Nat := (w.stack.get L []).getLastD 0

/-- Pops the newest entry, after a refill if the hardware part is empty. -/
def Wave.pop (w : Wave) (L : Nat) : Wave :=
  let st := w.stack.get L []
  { w with stack := w.stack.set L st.dropLast [],
           memDepth := w.memDepth.set L (min (w.memDepth.get L 0) (st.length - 1)) 0 }

/-- The logical id's global lane index (R98). -/
def State.gIndex (s : State) (L : Nat) : Nat := (s.bk.bid * s.curLaunch.rcd.waves + s.cur.wid) * 48 + L

/-! ### The block barrier (R241, R242) and the end of a thread (R42, R187) -/

/-- A wave that waits at a barrier's phase is released: it completes at its next issue. -/
def Wave.releaseAt (w : Wave) (h phase : Nat) : Wave :=
  match w.waiting with
  | .barrier h' p => if h' = h ∧ p = phase then { w with waiting := .released h } else w
  | _ => w

/-- In a DET launch each participant's clock becomes 1 plus the greatest of them (R50). -/
def State.syncClocks (s : State) (uid : Nat) (ws : List Nat) : State :=
  let m := ws.foldl (fun m i => max m (s.wave uid i).wclk.toNat) 0
  ws.foldl (fun s i => s.setWave uid i { s.wave uid i with wclk := clkOf (m + 1) }) s

/-- Releases the phase of a block's barrier if its count of arrivals is reached: the waves that have not ended (R241). -/
def State.barrierTry (s : State) (uid : Nat) : State :=
  let b := s.block uid
  let open_ := ((List.range b.waves.length).filter (fun i => !(s.wave uid i).ended)).length
  if b.barArrived = [] ∨ b.barArrived.length < open_ then s
  else
    let s1 := if (s.launch b.launch).rcd.det then s.syncClocks uid b.barArrived else s
    let s2 := (List.range b.waves.length).foldl
      (fun s i => s.setWave uid i ((s.wave uid i).releaseAt 0 b.barPhase)) s1
    s2.setBlock uid { s2.block uid with barPhase := (b.barPhase + 1) % 2 ^ 32, barArrived := [] }

/-- One thread ends (R187): an open transaction aborts with EXPLICIT, its call stack is discarded, it is no longer live. -/
def Wave.endThread (w : Wave) (L : Nat) : Wave :=
  let w1 := w.txAbort L 7 0
  { w1 with stack := w1.stack.set L [] [], memDepth := w1.memDepth.set L 0 0, live := setLane w1.live L false }

/-- The threads of a mask end; a wave none of whose threads is live has ended (R42). -/
def Wave.endThreads (w : Wave) (m : Lanes) : Wave :=
  let w1 := (lanesOf m).foldl Wave.endThread w
  if w1.live = 0 then { w1 with ended := true, waiting := .none } else w1

/-- The issuing wave stops for a trap (R188), which retires: `epc` is the word, and the PCs stand after it. -/
def State.raiseTrap (s : State) (c : Cause) (lane : Nat) (ebad : W64) : State :=
  { s with wv := s.wv.stopFor c true lane s.cur.wordPc ebad, bk := s.bk.beginTrap s.cur.wid (some s.clk) }

end Sys2Proof.Machine
end

