-- ==== Sys2Proof/Machine/Buffer.lean ====
section
/-! DEFINITION. The scratchpad of a block (05 R115 to R126): declared buffers, their states, presence bits, byte access, and
the place of Q4 codes and scales (R88, R119). -/

namespace Sys2Proof.Machine

/-! ### Where the parts of a Q4 element stand (R88, R119) -/

/-- Bytes of the codes and of the scales of one block, and its rows. -/
def q4CodeBytes (geo : Nat) : Nat := if geo = 0 then 1152 else 288
def q4Rows (geo : Nat) : Nat := if geo = 0 then 48 else 12
def q4ScaleBytes (geo : Nat) : Nat := q4Rows geo + 48
/-- Blocks of one 128 KiB unit. -/
def q4PerUnit (geo : Nat) : Nat := if geo = 0 then 105 else 376

/-- The offsets of a code byte's row scale, its even column's scale and its odd column's scale, in a layout of `nblk`
blocks; none where the offset names no code. -/
def q4Scales (geo nblk o : Nat) : Option (Nat × Nat × Nat) :=
  let cb := q4CodeBytes geo
  if o ≥ cb * nblk then none
  else
    let base := cb * nblk + q4ScaleBytes geo * (o / cb)
    some (base + o % cb / 24, base + q4Rows geo + 2 * (o % 24), base + q4Rows geo + 2 * (o % 24) + 1)

/-- The same in a page, by unit. -/
def q4PageScales (geo va : Nat) : Option (Nat × Nat × Nat) :=
  let u := va / 131072 * 131072
  (q4Scales geo (q4PerUnit geo) (va % 131072)).map (fun e => (u + e.1, u + e.2.1, u + e.2.2))

/-- The same in a buffer of `size` bytes (R119): whole units, or one compact layout. -/
def q4BufScales (geo size off : Nat) : Option (Nat × Nat × Nat) :=
  if size % 131072 = 0 then q4PageScales geo off
  else q4Scales geo (size / (q4CodeBytes geo + q4ScaleBytes geo)) off

/-- A Q4 element as FP32, rounded RNE without FTZ (R112, R210). -/
def q4f32 (row col code : Nat) : W32 := BitVec.ofNat 32 (fp32.round .rne false false (q4value row col code))

/-- An element of codes 1 to 5 as FP32, exactly (R112). -/
def elem32 (fmt raw : Nat) : W32 := BitVec.ofNat 32 (fp32.round .rne false false (elemValue fmt raw))

/-! ### Buffers -/

def Block.buf (b : Block) (id : Nat) : Buf := b.bufs.get id {}
def Block.setBuf (b : Block) (id : Nat) (u : Buf) : Block := { b with bufs := b.bufs.set id u {} }

/-- The first line of a buffer, and the line after its last (R118). -/
def Buf.line0 (u : Buf) : Nat := u.offset / 192
def Buf.lineEnd (u : Buf) : Nat := (u.offset + u.size - 1) / 192 + 1

def Buf.isSealed (u : Buf) : Bool := u.flags.testBit 0
def Buf.zfull (u : Buf) : Bool := u.flags.testBit 1
def Buf.retain (u : Buf) : Bool := u.flags.testBit 2

def Block.lineIn (b : Block) (n : Nat) : Bool := b.present.get n false

/-- Sets or clears the presence bits of lines `lo` up to `hi`. -/
def Block.setLines (b : Block) (lo hi : Nat) (v : Bool) : Block :=
  { b with present := (List.range (hi - lo)).foldl (fun t i => t.set (lo + i) v false) b.present }

/-- The lines that `n` bytes at offset `off` of a buffer touch, as first and end. -/
def Buf.span (u : Buf) (off n : Nat) : Nat × Nat := ((u.offset + off) / 192, (u.offset + off + n - 1) / 192 + 1)

/-- Are all lines of a range of a buffer present? -/
def Block.rangeIn (b : Block) (u : Buf) (off n : Nat) : Bool :=
  (List.range ((u.span off n).2 - (u.span off n).1)).all (fun i => b.lineIn ((u.span off n).1 + i))

/-- Bytes of the allotment. -/
def Block.spmBytes (b : Block) (a n : Nat) : List Byte := (List.range n).map (fun i => b.spm.get (a + i) 0)

def Block.putSpm (b : Block) (a : Nat) : List Byte → Block
  | [] => b
  | x :: xs => { b with spm := b.spm.set a x 0, spmMarks := b.spmMarks.filter (· != a) }.putSpm (a + 1) xs

/-- Is any of `n` bytes of the allotment in an 8-byte word that is uncorrectable (R481)? -/
def Block.spmBad (b : Block) (a n : Nat) : Bool :=
  b.spmMarks.any (fun m => decide (a / 8 ≤ m / 8) && decide (m / 8 ≤ (a + n - 1) / 8))

/-- Bytes of a buffer. -/
def Block.bufBytes (b : Block) (id off n : Nat) : List Byte := b.spmBytes ((b.buf id).offset + off) n
def Block.bufMarked (b : Block) (id off n : Nat) : Bool := b.spmBad ((b.buf id).offset + off) n
def Block.putBuf (b : Block) (id off : Nat) (xs : List Byte) : Block := b.putSpm ((b.buf id).offset + off) xs

/-! ### Declarations (R118 to R121, R236) -/

/-- The size rule of a Q4 buffer (R119). -/
def q4SizeOk (geo size : Nat) : Bool :=
  size % 131072 == 0 || (decide (size < 131072) && decide (size / (q4CodeBytes geo + q4ScaleBytes geo) ≥ 1))

/-- Does an entry keep the limits of R118, R119 and R110, with Q4 formats accepted or not (R446)? -/
def Buf.entryOk (u : Buf) (spmb : Nat) (q4 : Bool) : Bool :=
  u.offset % 192 == 0 && decide (u.offset < spmb) && decide (8 ≤ u.size) && decide (u.offset + u.size ≤ spmb) &&
    u.size % 8 == 0 && decide (u.fmt ≤ 6) &&
    (if u.fmt = 6 then q4 && decide (u.geo ≤ 1) && q4SizeOk u.geo u.size else u.geo == 0) &&
    decide (u.flags < 8) && (u.isSealed == (u.key != 0))

/-- Do two entries cover a common line? -/
def Buf.overlaps (u v : Buf) : Bool := decide (u.line0 < v.lineEnd) && decide (v.line0 < u.lineEnd)

/-- Declares a buffer (R120): EMPTY, or FULL with every presence bit under ZFULL. -/
def Block.declare (b : Block) (id : Nat) (u : Buf) : Block :=
  let v := { u with decl := true, state := if u.zfull then .full else .empty, bytes := 0, outs := 0, heldN := 0,
                    fails := (b.buf id).fails }
  (b.setBuf id v).setLines u.line0 u.lineEnd u.zfull

/-- The bytes 0 to 15 of a declaration entry as a buffer. -/
def Buf.ofWords (w0 w1 : W64) : Buf :=
  { offset := field w0 31 0, size := field w0 63 32, fmt := field w1 7 0, geo := field w1 15 8,
    flags := field w1 31 16, key := field w1 47 32 }

/-! ### Program accesses (R126) -/

/-- `ebad` of a scratchpad fault. -/
def bufBad (id off : Nat) : W64 := BitVec.ofNat 64 (id % 64 * 2 ^ 32 + off % 2 ^ 32)

/-- The width of an `sld.dec` (R235). -/
def Buf.decWidth (u : Buf) : Nat := if u.fmt = 0 ∨ u.fmt = 6 then 1 else elemSize u.fmt

/-- Step 5 of R126. -/
def Buf.fmtOk (u : Buf) (dec : Bool) (off : Nat) : Bool :=
  if dec then u.fmt != 0 && (u.fmt != 6 || (q4BufScales u.geo u.size off).isSome) else u.fmt == 0

/-- Step 4 of R126, by R121: a fault, or the park of a load on an absent line. -/
def Block.stateCheck (b : Block) (u : Buf) (store : Bool) (id off width : Nat) : Option Stop :=
  match u.state with
  | .empty => need store .bufState (bufBad id off)
  | .filling => if store then some (.fault .bufState (bufBad id off)) else await (b.rangeIn u off width)
  | .full => none
  | .draining => need (!store) .bufState (bufBad id off)

/-- The checks of one scratchpad access, in the order of R126. -/
def Block.spmCheck (b : Block) (store dec : Bool) (id off width : Nat) : Option Stop :=
  let u := b.buf id
  let bad := bufBad id off
  firstStop [need u.decl .bufState bad, need (decide (off + width ≤ u.size)) .access bad,
    need (off % width == 0) .align bad, b.stateCheck u store id off width, need (u.fmtOk dec off) .formatMismatch bad]

/-! ### Moves of a buffer's state (R121, R123, R125) -/

/-- The buffer becomes FULL with every presence bit set. -/
def Block.fillDone (b : Block) (id : Nat) : Block :=
  let u := b.buf id
  (b.setBuf id { u with state := .full, bytes := 0, awaited := [] }).setLines u.line0 u.lineEnd true

/-- A fill that ends with an error moves its buffer to EMPTY (R125). -/
def Block.fillFailed (b : Block) (id : Nat) : Block :=
  let u := b.buf id
  b.setBuf id { u with state := .empty, bytes := 0, awaited := [], fails := u.fails + 1 }

/-- The last outstanding copy-out completes (R121). -/
def Block.copyOutDone (b : Block) (id : Nat) : Block :=
  let u := b.buf id
  let n := u.outs - 1
  if n = 0 ∧ u.state = BufSt.draining then
    b.setBuf id { u with outs := 0, state := if u.retain then .full else .empty }
  else b.setBuf id { u with outs := n }

/-- An operation that writes a buffer begins to hold it, and ends (R120). -/
def Block.holdBuf (b : Block) (id : Nat) : Block := b.setBuf id { b.buf id with heldN := (b.buf id).heldN + 1 }
def Block.unholdBuf (b : Block) (id : Nat) : Block := b.setBuf id { b.buf id with heldN := (b.buf id).heldN - 1 }

end Sys2Proof.Machine
end

