-- ==== Sys2Proof/Machine/Pending.lean ====
section
/-! DEFINITION. Loads in flight (R134, R229, R230): when a pending load takes its value, and what its reply writes. -/

namespace Sys2Proof.Machine

/-- The thread of a lane of any wave as a reader and writer. -/
def State.viewOf (s : State) (uid wid L : Nat) : View := ⟨(s.block uid).die, (s.block uid).tile, uid, wid, L⟩

/-- Is a request a Q4 decode, which also reads scale bytes of its unit? -/
def Req.isQ4 (q : Req) : Bool := q.aux == 6 && q.opnd.headD 0 == 6

/-- Does a pending load read any of `n` bytes at `pa`? -/
def Req.reads (q : Req) (pa n : Nat) : Bool :=
  if q.isQ4 then decide (q.pa / 131072 * 131072 < pa + n) && decide (pa < q.pa / 131072 * 131072 + 131072)
  else decide (q.pa < pa + n) && decide (pa < q.pa + q.width)

/-- The register words of a load by its form: the minor of major 14 (R228). -/
def loadRegs (form fmt : Nat) (bs : List Byte) : List W32 :=
  let n := leNat bs
  match form with
  | 0 => [(BitVec.ofNat 8 n).signExtend 32]
  | 2 => [(BitVec.ofNat 16 n).signExtend 32]
  | 5 => [BitVec.ofNat 32 n, BitVec.ofNat 32 (n / 2 ^ 32)]
  | 6 => [elem32 fmt n]
  | _ => [BitVec.ofNat 32 n]

/-- Bytes read for a lane (R134), after every U copy of the line is recalled (R145). In a transaction the lane's own
writes come first, and what memory returned is recorded (R147). -/
def State.readLane (s : State) (uid wid L stale : Nat) (tx : Bool) (pa n : Nat) : State × List Byte × Bool :=
  let (s1, bs, bad) := (s.recall pa n).readMem (s.viewOf uid wid L) stale pa n
  let w := s1.wave uid wid
  match (if tx then w.txOf L else none) with
  | none => (s1, bs, bad)
  | some t =>
    let own := fun (i : Nat) => (t.data.find? (fun e => e.1 == pa + i)).map (·.2)
    let seen := (bs.zipIdx.filter (fun e => (own e.2).isNone)).map (fun e => (pa + e.2, e.1))
    let t1 := { t with seen := t.seen ++ seen }
    (s1.setWave uid wid (w.setTx L (some t1)), bs.zipIdx.map (fun e => (own e.2).getD e.1), bad)

/-- The value of a pending load (R229, R230). -/
def State.loadValue (s : State) (uid wid stale : Nat) (q : Req) : State × List W32 × Bool :=
  let rd := fun (s : State) (pa n : Nat) => s.readLane uid wid q.lane stale q.tx pa n
  if q.isQ4 then
    match q4PageScales (q.opnd.getD 1 0).toNat q.pa with
    | none => (s, [0, 0], false)
    | some (r, c0, c1) =>
      let (s1, b, e1) := rd s q.pa 1
      let (s2, br, e2) := rd s1 r 1
      let (s3, b0, e3) := rd s2 c0 1
      let (s4, b1, e4) := rd s3 c1 1
      (s4, [q4f32 (leNat br) (leNat b0) (leNat b % 16), q4f32 (leNat br) (leNat b1) (leNat b / 16)], e1 || e2 || e3 || e4)
  else
    let (s1, bs, bad) := rd s q.pa q.width
    (s1, loadRegs q.aux (q.opnd.headD 0).toNat bs, bad)

/-- Slots in the order they were issued. -/
def insertSlot (e : Nat × Slot) : List (Nat × Slot) → List (Nat × Slot)
  | [] => [e]
  | f :: r => if e.2.ord ≤ f.2.ord then e :: f :: r else f :: insertSlot e r

def Wave.slotsByAge (w : Wave) : List (Nat × Slot) := w.slots.foldl (fun l e => insertSlot e l) []

/-- Is a request a load that has not taken its value? -/
def Req.open_ (q : Req) : Bool := q.val.isNone && !q.err

/-- Puts a request back into its slot. -/
def Wave.setReq (w : Wave) (i : Nat) (q : Req) : Wave :=
  let s := w.slot i
  w.setSlot i { s with reqs := s.reqs.map (fun r => if r.lane = q.lane then q else r) }

/-- From which level on a load may return a copy (R134): 1 its core's, 2 its quad's, 3 its die's, 0 none; where the scope it names
covers the location, no nearer than that scope. -/
def Req.mayStale (q : Req) (stale : Nat) : Nat :=
  if !covers q.scope q.pa then stale
  else if stale = 0 ∨ scopeLevel q.scope ≥ 4 then 0
  else max stale (scopeLevel q.scope)

/-- The pending load of one lane in slot `i` takes its value now. -/
def State.fixOne (s : State) (uid wid i L stale : Nat) : State :=
  let sl := (s.wave uid wid).slot i
  match sl.reqs.find? (fun q => q.lane == L) with
  | none => s
  | some q =>
    if sl.kind = .load ∧ q.open_ = true then
      let (s1, v, bad) := s.loadValue uid wid (q.mayStale stale) q
      let lost := bad && !(q.sent && !s.markedRange q.pa q.width)
      s1.setWave uid wid ((s1.wave uid wid).setReq i (if lost then { q with err := true } else { q with val := some v }))
    else s

/-- The pending load of a lane in slot `i` takes its value now, after the lower lanes that name the same bytes (R130). -/
def State.fixLane (s : State) (uid wid i L stale : Nat) : State :=
  let sl := (s.wave uid wid).slot i
  match sl.reqs.find? (fun q => q.lane == L) with
  | none => s
  | some q =>
    let lower := allLanes.filter (fun K => decide (K < L) &&
      sl.reqs.any (fun r => r.lane == K && r.open_ && (r.reads q.pa q.width || q.reads r.pa r.width)))
    (lower ++ [L]).foldl (fun s K => s.fixOne uid wid i K stale) s

/-- Pending loads of a lane that pass a test take their values now, oldest first. -/
def State.fixLoads (s : State) (uid wid L : Nat) (sel : Req → Bool) : State :=
  ((s.wave uid wid).slotsByAge).foldl (fun s e =>
    if e.2.reqs.any (fun q => q.lane == L && sel q) then s.fixLane uid wid e.1 L 0 else s) s

/-- Has a lane an older pending load of bytes that a request reads (R131: loads of one location in order)? -/
def Wave.olderLoad (w : Wave) (ord : Nat) (q : Req) : Bool :=
  w.slots.any fun e => e.2.kind == .load && decide (e.2.ord < ord) &&
    e.2.reqs.any (fun r => r.lane == q.lane && r.open_ && (r.reads q.pa q.width || q.reads r.pa r.width))

/-- Has a lane a returning atomic that is not yet performed? Its later memory operations wait for it (R138, R142). -/
def Wave.atomicPending (w : Wave) (L : Nat) : Bool :=
  w.slots.any (fun e => e.2.kind == .atomic && e.2.reqs.any (fun q => q.lane == L && q.open_))

/-- A release by the thread of a lane at a scope (R137): its loads have returned, and what it wrote and saw is to be
performed there first. -/
def State.releaseLane (s : State) (L scope : Nat) : State :=
  (s.fixLoads s.cur.uid s.cur.wid L (fun _ => true)).release s.cur.uid s.cur.wid L scope

/-- Is everything that a release of a lane at a scope covers performed there? -/
def State.releasedLane (s : State) (L scope : Nat) : Bool :=
  ((s.fixLoads s.cur.uid s.cur.wid L (fun _ => true)).release s.cur.uid s.cur.wid L scope).released
    s.cur.uid s.cur.wid L scope

/-- An acquire at a scope by threads of a wave (R138): copies that could be older are dropped, and every write performed at
the scope counts as observed by those threads, so that their later releases cover it (R137). -/
def State.acquireFor (s : State) (uid wid : Nat) (m : Lanes) (scope : Nat) : State :=
  let v := s.viewOf uid wid 48
  let ids := (s.writes.filter (fun w => covers scope w.pa && decide (scopeLevel scope ≤ w.level) && w.seenBy v)).map (·.id)
  let s1 := s.acquire v.die v.tile scope
  if ids = [] then s1
  else
    { s1 with observed := (lanesOf m).foldl (fun t L => t.upd (tkey uid wid L) []
        (fun l => l ++ (ids.filter (fun i => !l.any (·.1 == i))).map (fun i => (i, 0)))) s1.observed }

/-- An acquire by threads of the issuing wave. -/
def State.acquireHere (s : State) (m : Lanes) (scope : Nat) : State := s.acquireFor s.cur.uid s.cur.wid m scope

end Sys2Proof.Machine
end

