-- ==== Sys2Proof/Machine/Matrix.lean ====
section
/-! DEFINITION. Major 20 (11 R253 to R264): the matrix queue of a quarter, register-form multiplies, tile initialise, load,
store and wait. -/

namespace Sys2Proof.Machine

/-! ### The queue of a quarter (R65, R255) -/

/-- The key of a quarter's queue. -/
def quarterKey (die tile q : Nat) : Nat := (die * 144 + tile) * 4 + q

def State.mq (s : State) (k : Nat) : List MEntry := s.mqueue.get k []
def State.setMq (s : State) (k : Nat) (l : List MEntry) : State := { s with mqueue := s.mqueue.set k l [] }

/-- The queue of the issuing wave's quarter. -/
def State.myQueue (s : State) : Nat := quarterKey s.bk.die s.bk.tile s.pre.quarter

/-- An entry whose place in the queue has not come. -/
def MEntry.queued (e : MEntry) : Bool := e.sampled.isNone

def MOp.isStore : MOp → Bool
  | .storeReg _ => true
  | .storeBuf _ _ _ _ _ => true
  | _ => false

/-- Is one of the 8 entries free? -/
def State.mqRoom (s : State) : Bool := decide (((s.mq s.myQueue).filter MEntry.queued).length < 8)

/-- An operation takes an entry when it issues. -/
def State.enqueue (s : State) (tile : BitVec 3) (op : MOp) (pins : List TlbE) : State :=
  let e : MEntry := { uid := s.cur.uid, wid := s.cur.wid, tile := tile.toNat, op := op, pins := pins }
  s.setMq s.myQueue (s.mq s.myQueue ++ [e])

/-- The busy bit of a tile of a wave (R65). -/
def State.tileBusy (s : State) (k uid wid tile : Nat) : Bool :=
  (s.mq k).any (fun e => e.uid == uid && e.wid == wid && e.tile == tile && !e.op.isStore)

/-- REG_BOUNDS of a tile field (R64). -/
def State.tileCheck (s : State) (t : BitVec 3) : Option Stop :=
  need (decide (t.toNat < s.pre.accN)) .regBounds (BitVec.ofNat 64 t.toNat)

/-! ### Sources of wave-level instructions: all 48 lanes (R254) -/

/-- The tests of vector sources read in all lanes: registers in operand order, within one the lowest lane; a fault comes before a
wait. -/
def allSrcCheck (w : Wave) (srcs : List VOp) : Option Stop :=
  faultFirst (srcs.flatMap fun o => o.regs.flatMap fun r =>
    allLanes.map (fun L => if w.isEmpty r L then some (regStop w L o.trap r) else none))

/-! ### Register-form multiply (R256 to R259) -/

/-- Bits of an element of a format code. -/
def mBits (fmt : Nat) : Nat := if fmt = 6 then 4 else 8 * elemSize fmt

/-- The dot group of a format (R103). -/
def mKs (fmt : Nat) : Nat := if fmt = 6 then 32 else if fmt ≤ 2 then 8 else 16

/-- A Q4 element with its scale bytes. -/
def q4Word (row col code : Nat) : W32 := BitVec.ofNat 32 (code % 16 + row % 256 * 2 ^ 8 + col % 256 * 2 ^ 16)

/-- Element `n` of one lane's words (R257, R259). -/
def mmaElem (fmt : Nat) (ws : List W32) (n : Nat) : W32 :=
  let b := mBits fmt
  let e := 32 / b
  let x := (ws.getD (n / e) 0).toNat / 2 ^ (b * (n % e)) % 2 ^ b
  if fmt = 6 then q4Word ((ws.getD 4 0).toNat % 256) ((ws.getD 4 0).toNat / 256 % 256) x else BitVec.ofNat 32 x

/-- The row, or column, of each lane. -/
def State.mmaRows (s : State) (o : VOp) (fmt : Nat) : List (List W32) :=
  allLanes.map fun L =>
    let ws := o.regs.map (fun r => s.pre.vreg r L)
    (List.range (mKs fmt)).map (mmaElem fmt ws)

def mmaOp (d : BitVec 3) (a b : BitVec 6) (x y : Bool) (fa fb : Nat) (s : State) : State :=
  let span := if fa = 6 then 5 else 4
  let A := s.pre.op a span x
  let B := s.pre.op b span y
  waveLevel s
    (firstStop [boundsCheck s.pre [A, B], s.tileCheck d, await s.mqRoom, allSrcCheck s.pre [A, B]])
    fun s => s.enqueue d (.steps false fa fb [(s.mmaRows A fa, s.mmaRows B fb)]) []

def execMmaBf (_h : Hdr) (d : BitVec 3) (a b : BitVec 6) (x y : Bool) (s : State) : Out := .next (mmaOp d a b x y 1 1 s)
def execMmaH (_h : Hdr) (d : BitVec 3) (a b : BitVec 6) (x y : Bool) (s : State) : Out := .next (mmaOp d a b x y 2 2 s)
def execMmaE4 (_h : Hdr) (d : BitVec 3) (a b : BitVec 6) (x y : Bool) (s : State) : Out := .next (mmaOp d a b x y 3 3 s)
def execMmaE5 (_h : Hdr) (d : BitVec 3) (a b : BitVec 6) (x y : Bool) (s : State) : Out := .next (mmaOp d a b x y 4 4 s)
def execMmaE4e5 (_h : Hdr) (d : BitVec 3) (a b : BitVec 6) (x y : Bool) (s : State) : Out := .next (mmaOp d a b x y 3 4 s)
def execMmaQ4 (_h : Hdr) (d : BitVec 3) (a b : BitVec 6) (x y : Bool) (s : State) : Out := .next (mmaOp d a b x y 6 6 s)
def execMmaI8 (_h : Hdr) (d : BitVec 3) (a b : BitVec 6) (x y : Bool) (s : State) : Out := .next (mmaOp d a b x y 5 5 s)

/-! ### Tile initialise, load, store and wait (R260 to R264) -/

def execMzero (_h : Hdr) (d : BitVec 3) (s : State) : Out := .next <|
  waveLevel s (firstStop [s.tileCheck d, await s.mqRoom]) (fun s => s.enqueue d .zero [])

/-- Buffer id and offset of an operand (R261, R272). -/
def opBuf (x : W64) : Nat × Nat := (field x 37 32, field x 31 0)

/-- R126 of a range read or written by an engine or the matrix unit, but for its state and format. -/
def Block.engRange (b : Block) (id off n align_ : Nat) : Option Stop :=
  let u := b.buf id
  firstStop [need u.decl .bufState (bufBad id off), need (decide (off + n ≤ u.size)) .access (bufBad id off),
    need (off % align_ == 0) .align (bufBad id off)]

/-- The buffer state of an engine read (R121): EMPTY is a fault; FILLING waits for the lines of the range. -/
def Block.engRead (b : Block) (id off n : Nat) : Option Stop :=
  let u := b.buf id
  match u.state with
  | .empty => some (.fault .bufState (bufBad id off))
  | .filling => await (b.rangeIn u off n)
  | _ => none

/-- The buffer state of an engine write. -/
def Block.engWrite (b : Block) (id off : Nat) : Option Stop :=
  let u := b.buf id
  need (u.state == .empty || u.state == .full) .bufState (bufBad id off)

/-- `mld` (R261). -/
def execMld (_h : Hdr) (d : BitVec 3) (a b : BitVec 6) (s : State) : Out := .next <|
  let at_ := opBuf (s.pre.sreg a)
  let sB := s.pre.sreg b
  let t := sB.toNat
  let row := fun (i : Nat) =>
    let bs := s.bk.bufBytes at_.1 (at_.2 + i * t) 192
    (List.range 48).map (fun j => BitVec.ofNat 32 (leNat ((bs.drop (4 * j)).take 4)))
  waveLevel s
    (firstStop [s.tileCheck d, await s.mqRoom, need (t % 4 == 0 && decide (t ≤ 2 ^ 31)) .access sB,
      s.bk.engRange at_.1 at_.2 (47 * t + 192) 4, s.bk.engRead at_.1 at_.2 (47 * t + 192),
      need ((s.bk.buf at_.1).fmt == 0) .formatMismatch (bufBad at_.1 at_.2),
      need (!(List.range 48).any (fun i => s.bk.bufMarked at_.1 (at_.2 + i * t) 192)) .dataError (bufBad at_.1 at_.2)])
    fun s => s.enqueue d (.load ((List.range 48).map row)) []

/-- `mst` to registers (R262): every live lane is marked empty at issue. -/
def execMstReg (_h : Hdr) (d : BitVec 6) (a : BitVec 3) (s : State) : Out := .next <|
  let D := s.pre.op d 48
  waveLevel s
    (firstStop [boundsCheck s.pre [D], s.tileCheck a, await (s.wv.freeSlot.isSome && s.mqRoom),
      await (!(lanesOf s.pre.live).any (fun L => dstWaits s.pre L D))])
    fun s =>
      let reqs := (lanesOf s.pre.live).map fun L =>
        let q : Req := { lane := L, aux := a.toNat }
        q
      (s.setW (s.wv.openSlot .mst D s.pre.live reqs)).enqueue a (.storeReg (s.wv.freeSlot.getD 0)) []

/-- `mst` to a buffer (R263): the buffer is held from issue until its last byte is written. -/
def execMstBuf (_h : Hdr) (d : BitVec 6) (a : BitVec 3) (b : BitVec 6) (s : State) : Out := .next <|
  let at_ := opBuf (s.pre.sreg d)
  let sB := s.pre.sreg b
  let t := field sB 31 0
  let ty := field sB 35 32
  let size := elemSize ty
  let fmt := (s.bk.buf at_.1).fmt
  waveLevel s
    (firstStop [s.tileCheck a, await s.mqRoom,
      need (field sB 63 37 == 0 && ([1, 2, 3, 4, 8] : List Nat).contains ty && t % size == 0) .access sB,
      s.bk.engRange at_.1 at_.2 (47 * t + 48 * size) size, s.bk.engWrite at_.1 at_.2,
      need (fmt == 0 || (decide (fmt ≤ 4) && fmt == ty)) .formatMismatch (bufBad at_.1 at_.2)])
    fun s => ({ s with bk := s.bk.holdBuf at_.1 }).enqueue a (.storeBuf at_.1 at_.2 t ty (sB.getLsbD 36)) []

/-- Has every `mst` of a tile that the wave issued written all its registers or bytes? -/
def State.mstDone (s : State) (k uid wid tile : Nat) : Bool :=
  !(s.mq k).any (fun e => e.uid == uid && e.wid == wid && e.tile == tile && e.op.isStore) &&
    !(s.wave uid wid).slots.any (fun e => e.2.kind == .mst && e.2.reqs.any (fun q => q.aux == tile))

/-- `mwait` (R264). -/
def execMwait (_h : Hdr) (a : BitVec 3) (s : State) : Out := .next <|
  let t := a.toNat
  waveLevel s
    (firstStop [s.tileCheck a, await (!s.tileBusy s.myQueue s.cur.uid s.cur.wid t &&
      s.mstDone s.myQueue s.cur.uid s.cur.wid t)])
    fun s => s.acquireHere s.pre.live 0

/-! ### The unit (R103, R255, R258) -/

/-- An operand element read exactly. -/
def mVal (fmt : Nat) (x : W32) : FVal :=
  if fmt = 6 then q4value (x.toNat / 2 ^ 8 % 256) (x.toNat / 2 ^ 16 % 256) (x.toNat % 16) else elemValue fmt x.toNat

/-- One step added to every element of a tile: a sum of exact products, rounded once. -/
def Wave.accStep (w : Wave) (t fa fb : Nat) (a b : List (List W32)) : Wave :=
  let av := a.map (·.map (mVal fa))
  let bv := b.map (·.map (mVal fb))
  allLanes.foldl (fun w i => allLanes.foldl (fun w j =>
    w.setAcc t i j (dotStep (w.accAt t i j) (groupSum fa (av.getD i []) (bv.getD j [])))) w) w

/-- Every element of a tile from a function. -/
def Wave.fillAcc (w : Wave) (t : Nat) (f : Nat → Nat → W32) : Wave :=
  allLanes.foldl (fun w i => allLanes.foldl (fun w j => w.setAcc t i j (f i j)) w) w

/-- The words of a tile, row by row. -/
def Wave.tileWords (w : Wave) (t : Nat) : List W32 := allLanes.flatMap (fun i => allLanes.map (fun j => w.accAt t i j))

/-- An element as `mst` writes it to a buffer: RNE, no FTZ; type 8 keeps its bits. -/
def mstBytes (ty : Nat) (sat : Bool) (x : W32) : List Byte :=
  if ty = 8 then leBytes x.toNat 4
  else leBytes ((elemFmt ty).round .rne sat false (fp32.value x.toNat)) (elemSize ty)

/-- The replies of an `mst` to registers: column j for lane j. -/
def Wave.mstReply (w : Wave) (i t : Nat) : Wave :=
  let sl := w.slot i
  w.setSlot i { sl with reqs := sl.reqs.map (fun q => { q with val := some (allLanes.map (fun r => w.accAt t r q.lane)) }) }

/-- What the unit does with an operation whose place has come: to a multiply or a load, all of it; from a store, the read. -/
def State.applyMatrix (s : State) (e : MEntry) : State :=
  let w := s.wave e.uid e.wid
  let put := fun (w : Wave) => s.setWave e.uid e.wid w
  match e.op with
  | .zero => put (w.fillAcc e.tile (fun _ _ => 0))
  | .load rows => put (w.fillAcc e.tile (fun i j => (rows.getD i []).getD j 0))
  | .steps z fa fb ss =>
    let w0 := if z then w.fillAcc e.tile (fun _ _ => 0) else w
    put (ss.foldl (fun w p => w.accStep e.tile fa fb p.1 p.2) w0)
  | .storeReg i => put (w.mstReply i e.tile)
  | .storeBuf _ _ _ _ _ => s

/-- MATRIX_OP_COMPLETE: the oldest queued operation of a quarter (key `quarter`) completes and its entry frees; a `mst` to a
buffer keeps the tile it read until its bytes are written. -/
def execMatrixOpComplete (quarter : Nat) (s : State) : Out := .next <|
  let q := s.mq quarter
  match q.find? MEntry.queued with
  | none => s
  | some e =>
    let before := q.takeWhile (fun x => !x.queued)
    let after := (q.dropWhile (fun x => !x.queued)).drop 1
    match e.op with
    | .storeBuf _ _ _ _ _ =>
      s.setMq quarter (before ++ { e with sampled := some ((s.wave e.uid e.wid).tileWords e.tile) } :: after)
    | _ => (s.applyMatrix e).setMq quarter (before ++ after)

/-- MST_BUFFER_COMPLETE: the oldest read tile of a quarter is written to its buffer, which is held no longer. -/
def execMstBufferComplete (quarter : Nat) (s : State) : Out := .next <|
  let q := s.mq quarter
  match q.find? (fun x => !x.queued) with
  | none => s
  | some e =>
    let before := q.takeWhile MEntry.queued
    let after := (q.dropWhile MEntry.queued).drop 1
    match e.op, e.sampled with
    | .storeBuf id off t ty sat, some ws =>
      let b := s.block e.uid
      let b1 := allLanes.foldl (fun (b : Block) i =>
        b.putBuf id (off + i * t) (((ws.drop (48 * i)).take 48).flatMap (mstBytes ty sat))) b
      (s.setBlock e.uid (b1.unholdBuf id)).setMq quarter (before ++ after)
    | _, _ => s.setMq quarter (before ++ after)

end Sys2Proof.Machine
end

