-- ==== Sys2Proof/Machine/Worklist.lean ====
section
/-! DEFINITION. Work lists (02 R46, 10 R249 and R250, 18 R409), semaphores (10 R243) and the fate of items, as the
instructions and the events share them. -/

namespace Sys2Proof.Machine

/-! ### The area of a queue (R409) -/

/-- A register of the queue that a launch came from. -/
def State.queueOf (s : State) (l : Launch) (off : Nat) : W64 :=
  match s.pslot l.die l.pid with
  | none => 0
  | some n => s.reg (queueReg l.die n l.queue off)

/-- LOG2CAP of a launch's queue. -/
def State.listLog (s : State) (l : Launch) : Nat := field (s.queueOf l 0x30) 4 0

/-- Does another launch of the same queue own the area? -/
def State.areaTaken (s : State) (id : Nat) (l : Launch) : Bool :=
  s.launches.any fun e => e.1 != id && e.2.ownsArea && e.2.kind == .queue && e.2.die == l.die &&
    e.2.pid == l.pid && e.2.queue == l.queue

/-- The stops of a `wlput` or `wlget` for its area: none for a block of no queue, no area, or an area owned by another launch. -/
def State.areaCheck (s : State) : Option Stop :=
  let l := s.curLaunch
  firstStop [need (s.bk.kind == .queue) .access 16, need (s.listLog l != 0) .access (BitVec.ofNat 64 l.queue),
    await (!s.areaTaken s.bk.launch l)]

/-- The address of place `i` of a core's list. -/
def State.listAddr (s : State) (l : Launch) (vcid i : Nat) : Nat :=
  field (s.queueOf l 0x28) 55 0 + 8 * 2 ^ s.listLog l * vcid + 8 * i

/-- Writes one item of a list to the area's memory; an area that is not mapped holds nothing. -/
def State.putItem (s : State) (l : Launch) (vcid i : Nat) (x : W64) : State :=
  let va := s.listAddr l vcid i
  match s.walk l.ctxn l.pid va with
  | none => s
  | some p =>
    if leafW p.leaf ∧ leafFmt p.leaf = 0 ∧ leafKey p.leaf = 0 then
      let pa := leafPa p.leaf + (va - p.base)
      (s.recall pa 8).putHome pa (leBytes x.toNat 8)
    else s

/-- Appends an item to a list: at its end, or, where the list has reached the end of its memory, after a move of its items to
the start. -/
def State.appendItem (s : State) (id vcid : Nat) (x : W64) : State :=
  let l := s.launch id
  let items := l.lists.get vcid []
  let head := if items = [] then 0 else l.heads.get vcid 0
  let moves := decide (head + items.length ≥ 2 ^ s.listLog l)
  let h := if moves then 0 else head
  let s1 := if moves then items.zipIdx.foldl (fun s e => s.putItem l vcid e.2 e.1) s else s
  (s1.putItem l vcid (h + items.length) x).setLaunch id
    { l with lists := l.lists.set vcid (items ++ [x]) [], heads := l.heads.set vcid h 0 }

/-- Takes the first item of a list. -/
def State.popItem (s : State) (id vcid : Nat) : State :=
  let l := s.launch id
  let items := l.lists.get vcid []
  s.setLaunch id { l with lists := l.lists.set vcid items.tail [],
                          heads := l.heads.set vcid (if items.length ≤ 1 then 0 else l.heads.get vcid 0 + 1) 0 }

/-- The words of an item as `wlget` writes them. -/
def itemWords (x : W64) : List W32 := [x.truncate 32, (x >>> 32).truncate 32, 0]

/-- Fixes the reply of one lane of a waiting slot. -/
def State.answer (s : State) (uid wid slot L : Nat) (xs : List W32) : State :=
  let w := s.wave uid wid
  let sl := w.slot slot
  let w1 := w.setSlot slot { sl with reqs := sl.reqs.map (fun q => if q.lane = L then { q with val := some xs } else q) }
  if sl.kind = .wlget then
    s.setWave uid wid { w1 with wlgetOut := setLane w1.wlgetOut L false, wlgetBlocked := setLane w1.wlgetBlocked L false }
  else s.setWave uid wid w1

/-- Gives items of a list to the requests that wait for them, in the order they were entered. -/
def State.pairUp (s : State) (id vcid : Nat) : Nat → State
  | 0 => s
  | n + 1 =>
    let l := s.launch id
    match l.lists.get vcid [], l.getters.find? (fun g => g.vcid == vcid) with
    | x :: _, some g =>
      let s1 := (s.popItem id vcid).setLaunch id { (s.popItem id vcid).launch id with getters := l.getters.erase g }
      ((s1.answer g.uid g.wid g.slot g.lane (itemWords x)).acquireFor g.uid g.wid
        (BitVec.ofNat 48 (2 ^ g.lane)) 2).pairUp id vcid n
    | _, _ => s

/-! ### Semaphores (R243) -/

def State.sem (s : State) (key : Nat) : Sem := s.sems.get key {}
def State.setSem (s : State) (key : Nat) (x : Sem) : State := { s with sems := s.sems.set key x {} }

/-- Grants the waits of a semaphore that can be granted, in order of arrival; one whose wave has stopped leaves the order. -/
def State.semGrant (s : State) (key : Nat) : Nat → State
  | 0 => s
  | n + 1 =>
    let x := s.sem key
    match x.waits with
    | (u, w, c) :: r =>
      let wv := s.wave u w
      if wv.stopped then (s.setSem key { x with waits := r }).semGrant key n
      else if c ≤ x.value then
        let wv1 := match wv.waiting with
          | .semaphore k cnt _ ext => { wv with waiting := .semaphore k cnt true ext, extSince := none, extFired := false }
          | _ => wv
        ((s.setSem key { value := x.value - c, waits := r }).setWave u w wv1).semGrant key n
      else s
    | [] => s

/-- A signal adds to a semaphore, saturating with a log entry. -/
def State.semAdd (s : State) (key n pid : Nat) : State :=
  let x := s.sem key
  let total := x.value + n
  let s1 := s.setSem key { x with value := min total 0xFFFFFFFF }
  let s2 := if total > 0xFFFFFFFF then s1.log 8 (key % 4096 + key / 4096 * 4096 + pid * 2 ^ 18) else s1
  s2.semGrant key x.waits.length

/-- A wait that has not been granted leaves its semaphore's order (R243). -/
def State.semLeave (s : State) (uid wid : Nat) : State :=
  match (s.wave uid wid).waiting with
  | .semaphore key _ false _ =>
    let x := s.sem key
    let s1 := s.setSem key { x with waits := x.waits.filter (fun e => !(e.1 == uid && e.2.1 == wid)) }
    (s1.setWave uid wid { s1.wave uid wid with waiting := .none, extSince := none, extFired := false }).semGrant key x.waits.length
  | _ => s

end Sys2Proof.Machine
end

