-- ==== Sys2Proof/Machine/Sync.lean ====
section
/-! DEFINITION. Major 19 but for `bwait` (10 R140, R240 to R251): fences, barriers, semaphores, timeline waits,
transactions, work lists and message receipt. -/

namespace Sys2Proof.Machine

/-! ### Fences (R137, R138, R140, R141, R157); none has an effect inside a transaction (R149) -/

def State.inTx (s : State) (L : Nat) : Bool := (s.wv.txOf L).isSome

/-- The lanes of a mask outside a transaction. -/
def State.outsideTx (s : State) (m : Lanes) : Lanes := maskOf (fun L => laneIn m L && !s.inTx L)

/-- A memory operation of a lane waits for its last returning atomic. -/
def State.atomicIdle (s : State) (L : Nat) : Option Stop := await (s.inTx L || !s.wv.atomicPending L)

/-- The acquire of a fence: the lane's earlier loads have taken their values. -/
def State.fenceAcquire (s : State) (m : Lanes) (scope : Nat) : State :=
  let ls := s.outsideTx m
  if ls = 0 then s
  else ((lanesOf ls).foldl (fun s L => s.fixLoads s.cur.uid s.cur.wid L (fun _ => true)) s).acquireHere ls scope

def State.fenceRelease (s : State) (m : Lanes) (scope : Nat) : State :=
  (lanesOf (s.outsideTx m)).foldl (fun s L => s.releaseLane L scope) s

def execFenceAcq (h : Hdr) (g : BitVec 3) (s : State) : Out := .next <|
  perThread h s s.atomicIdle (fun m s => s.fenceAcquire m g.toNat)

def execFenceRel (h : Hdr) (g : BitVec 3) (s : State) : Out := .next <|
  perThread h s s.atomicIdle (fun m s => s.fenceRelease m g.toNat)

def execFenceFull (h : Hdr) (g : BitVec 3) (s : State) : Out := .next <|
  perThread h s
    (fun L => firstStop [s.atomicIdle L, inTurn (s.inTx L || s.releasedLane L g.toNat)])
    (fun m s => (s.fenceRelease m g.toNat).fenceAcquire m g.toNat)

/-- `ifb` discards every line of its quarter's instruction cache. -/
def execIfb (h : Hdr) (s : State) : Out := .next <|
  perThread h s (fun _ => none) fun m s =>
    let mine := fun (c : ICell) => c.die == s.bk.die && c.tile == s.bk.tile && c.quarter == s.pre.quarter
    if s.outsideTx m = 0 then s else { s with icache := s.icache.filter (fun c => !mine c) }

/-! ### Barriers (R240 to R242) -/

/-- Entry `n` of a context's barrier handle table (R369). -/
def State.barEntry (s : State) (ctxn n : Nat) : W64 := s.ctxWord 1 ctxn n

/-- What stops a barrier instruction on a handle: an invalid handle, or the object's address checks. -/
def State.barCheck (s : State) (n : Nat) : Option Stop :=
  if n = 0 then none
  else
    let e := s.barEntry s.bk.ctxn n
    let va := field e 55 0
    firstStop [need (decide (n < 64) && e.getLsbD 63) .access (BitVec.ofNat 64 n),
      (s.access s.who .atomic va 8).stop va, need (va % 64 == 0) .align (BitVec.ofNat 64 va)]

/-- The physical place of the object that a handle of a wave's block names: as the wave's accesses translate it, its TLB first. -/
def State.barPa (s : State) (b : Block) (w : Wave) (n : Nat) : Option Nat :=
  let va := field (s.barEntry b.ctxn n) 55 0
  if n = 0 then none
  else
    match s.access (b.who w) .atomic va 8 with
    | .ok x => some x.pa
    | _ => (s.walk b.ctxn b.pid va).map (fun p => leafPa p.leaf + (va - p.base))

/-- The scope of a barrier's network: its LEVEL code is the scope code, 0, 5, 6 and 7 too, for which R13 has no barrier
network and which R369 neither lists nor refuses (assumption 12). -/
def State.barScope (s : State) (n : Nat) : Nat := if n = 0 then 0 else field (s.barEntry s.bk.ctxn n) 62 60

/-- The phase in which a barrier now stands. -/
def State.barNow (s : State) (n : Nat) : Nat :=
  match s.barPa s.bk s.pre n with
  | none => s.bk.barPhase
  | some pa => leNat (s.homeBytes (pa + 8) 8)

/-- The waves that wait at a phase of an object, in any block. -/
def State.waitingAt (s : State) (pa phase : Nat) : List (Nat × Nat × Nat) :=
  s.uids.flatMap fun u =>
    let b := s.block u
    (List.range b.waves.length).filterMap fun i =>
      match (s.wave u i).waiting with
      | .barrier n p => if p = phase ∧ s.barPa b (s.wave u i) n = some pa then some (u, i, n) else none
      | _ => none

/-- Releases the phase of an object (R241); the waves of DET launches set their clocks (R50). -/
def State.releaseObj (s : State) (pa phase : Nat) : State :=
  let ws := s.waitingAt pa phase
  let det := ws.filter (fun e => (s.launch (s.block e.1).launch).rcd.det)
  let m := det.foldl (fun m e => max m (s.wave e.1 e.2.1).wclk.toNat) 0
  let s1 := det.foldl (fun s e => s.setWave e.1 e.2.1 { s.wave e.1 e.2.1 with wclk := clkOf (m + 1) }) s
  ws.foldl (fun s e => s.setWave e.1 e.2.1 { s.wave e.1 e.2.1 with waiting := .released e.2.2 }) s1

/-- An arrival at an object: COUNT in bytes 0 to 3, ARRIVED in bytes 4 to 7, PHASE in bytes 8 to 15 (R369). -/
def State.arriveObj (s : State) (pa : Nat) : State :=
  let s1 := s.recall pa 16
  let count := leNat (s1.homeBytes pa 4)
  let arrived := leNat (s1.homeBytes (pa + 4) 4) + 1
  let phase := leNat (s1.homeBytes (pa + 8) 8)
  if arrived ≥ count then
    (s1.putHome (pa + 4) (leBytes 0 4 ++ leBytes ((phase + 1) % 2 ^ 64) 8)).releaseObj pa phase
  else s1.putHome (pa + 4) (leBytes arrived 4)

/-- May the wave arrive now: what its threads' releases cover is performed, and nothing is in flight at the object. -/
def State.mayArrive (s : State) (n : Nat) : Bool :=
  (lanesOf s.pre.live).all (fun L => s.releasedLane L (s.barScope n)) &&
    (match s.barPa s.bk s.pre n with
      | none => true
      | some pa => !s.writes.any (fun w => w.hits pa 16) && (s.lockOf pa).isNone)

/-- The wave's arrival at a barrier: a release by every live thread, counted in `wclk` (R242); it then waits at the phase, or,
for `wait` = false, keeps the phase in its ARV entry. -/
def State.arrive (s : State) (n : Nat) (wait : Bool) : State :=
  let phase := s.barNow n
  let s1 := ((lanesOf s.pre.live).foldl (fun s L => s.releaseLane L (s.barScope n)) s).countLive
  let w := s1.wv
  let s2 := s1.setW (if wait then { w with waiting := .barrier n phase } else { w with arv := w.arv.set n (phase + 1) 0 })
  match s2.barPa s2.bk s2.pre n with
  | some pa => s2.arriveObj pa
  | none => ({ s2 with bk := { s2.bk with barArrived := s2.bk.barArrived ++ [s2.cur.wid] } }).barrierTry s2.cur.uid

/-- The wave waits at a phase. -/
def State.waitAt (s : State) (n phase : Nat) : State :=
  let new := s.wv.waiting != .barrier n phase
  let s1 := (s.setW { s.wv with waiting := .barrier n phase }).hold s.cur.lanes
  { s1 with cur := { s1.cur with acted := s1.cur.acted || new } }

/-- Has the phase that a wave waits for on a handle released? -/
def State.phaseOver (s : State) (n phase : Nat) : Bool := s.wv.waiting == .released n || s.barNow n != phase

/-- Completion: an acquire by every live thread. -/
def State.barDone (s : State) (n : Nat) : State :=
  (s.setW { s.wv with waiting := .none }).acquireHere s.pre.live (s.barScope n)

/-- A fresh arrival by `bar`, or by `bar.arv`, which waits only in a DET launch. -/
def State.barArrive (s : State) (n : Nat) (stay : Bool) : State :=
  if !s.mayArrive n then s.hold s.cur.lanes
  else if stay then
    let s1 := s.arrive n true
    let s2 := s1.hold s.cur.lanes
    { s2 with cur := { s2.cur with acted := true } }
  else s.arrive n false

/-- `bar` and `bar.arv` (R240 to R242). -/
def barOp (a : BitVec 6) (stay : Bool) (s : State) : State :=
  let n := (s.pre.sreg a).toNat
  waveRaw s (s.barCheck n) fun s =>
    match s.wv.arv.get n 0 with
    | p + 1 =>
      if s.phaseOver n p then
        (s.setW { s.wv with arv := s.wv.arv.set n 0 0, waiting := .none }).barArrive n stay
      else s.waitAt n p
    | 0 =>
      match s.wv.waiting with
      | .released _ => s.barDone n
      | .barrier _ p => if s.phaseOver n p then s.barDone n else s.hold s.cur.lanes
      | _ => s.barArrive n stay

def execBar (_h : Hdr) (a : BitVec 6) (s : State) : Out := .next (barOp a true s)
def execBarArv (_h : Hdr) (a : BitVec 6) (s : State) : Out := .next (barOp a s.curLaunch.rcd.det s)

/-- `bar.wt`: the phase of the ARV entry; with none outstanding it completes at once. -/
def execBarWt (_h : Hdr) (a : BitVec 6) (s : State) : Out := .next <|
  let n := (s.pre.sreg a).toNat
  waveRaw s (s.barCheck n) fun s =>
    match s.wv.arv.get n 0 with
    | 0 => (s.barDone n).countLive
    | p + 1 =>
      if s.phaseOver n p then ((s.setW { s.wv with arv := s.wv.arv.set n 0 0 }).barDone n).countLive else s.waitAt n p

/-! ### Semaphores (R243, R326) -/

/-- The semaphore that a handle names, with EXT, if its entry permits (bit 61 a signal, bit 60 a wait). -/
def State.semNamed (s : State) (a : BitVec 6) (perm : Nat) : Option (Nat × Bool) :=
  let e := s.ctxWord 2 s.bk.ctxn (field (s.pre.sreg a) 7 0)
  if e.getLsbD 63 && e.getLsbD perm then
    (s.dieOf s.bk.pid (field e 17 12)).map (fun d => (d * 4096 + field e 11 0, e.getLsbD 62))
  else none

def State.semCheck (s : State) (a b : BitVec 6) (perm : Nat) : Option Stop :=
  firstStop [need (s.semNamed a perm).isSome .access (s.pre.sreg a),
    need (decide ((s.pre.sreg b).toNat < 2 ^ 32)) .access (s.pre.sreg b)]

/-- `sem.sig`: it waits until what its release covers is performed at `pkg`. -/
def execSemSig (_h : Hdr) (a b : BitVec 6) (s : State) : Out := .next <|
  waveLevel s
    (firstStop [s.semCheck a b 61, inTurn ((lanesOf s.pre.live).all (fun L => s.releasedLane L 3))]) fun s =>
    let s1 := (lanesOf s.pre.live).foldl (fun s L => s.releaseLane L 3) s
    s1.semAdd ((s.semNamed a 61).getD (0, false)).1 (s.pre.sreg b).toNat s.bk.pid

/-- `sem.wait`: a wait joins the semaphore's order, and completes once granted. -/
def execSemWait (_h : Hdr) (a b : BitVec 6) (s : State) : Out := .next <|
  waveRaw s (s.semCheck a b 60) fun s =>
    let e := (s.semNamed a 60).getD (0, false)
    let n := (s.pre.sreg b).toNat
    let done := fun (s : State) =>
      ((s.setW { s.wv with waiting := .none }).acquireHere s.pre.live (if e.2 then 5 else 3)).countLive
    match s.wv.waiting with
    | .semaphore _ _ true _ => done s
    | .semaphore _ _ false _ => s.hold s.cur.lanes
    | _ =>
      if n = 0 then done s
      else
        let x := s.sem e.1
        let s1 := s.setSem e.1 { x with waits := x.waits ++ [(s.cur.uid, s.cur.wid, n)] }
        let s2 := s1.setW { s1.wv with waiting := .semaphore e.1 n false e.2,
                                       extSince := if e.2 then some s.clk else none }
        let s3 := (s2.semGrant e.1 (x.waits.length + 1)).hold s.cur.lanes
        { s3 with cur := { s3.cur with acted := true } }

/-! ### Timeline waits (R152, R244) -/

/-- An entry of a context's engine-context table; an index of 1,024 or more names none (R369). -/
def State.engEntry (s : State) (ctxn n : Nat) : Option Nat :=
  let e := s.ctxWord 3 ctxn n
  if n < 1024 ∧ e.getLsbD 63 = true then some (field e 62 60) else none

def State.engAt (s : State) (ctxn n : Nat) : Eng := s.eng.get (ctxn * 1024 + n) {}

def execTlwait (h : Hdr) (g : BitVec 3) (a b : BitVec 6) (s : State) : Out := .next <|
  let n := field (s.pre.sreg a) 15 0
  perThread h s
    (fun _ => firstStop [need (s.engEntry s.bk.ctxn n).isSome .access (BitVec.ofNat 64 n),
      await (decide ((s.pre.sreg b).toNat ≤ (s.engAt s.bk.ctxn n).timeline))])
    (fun m s => if m = 0 then s else s.acquireHere m g.toNat)

/-! ### Transactions (R147 to R149, R246) -/

def State.txDepth (s : State) (L : Nat) : Nat := tsDepth (s.wv.tstatOf L)

/-- `txb`. -/
def execTxb (h : Hdr) (d : BitVec 3) (s : State) : Out := .next <|
  perThread h s
    (fun L => firstStop [predCheck s.pre L [d], if s.txDepth L = 255 then some (.abort 3 0) else none])
    fun m s =>
      let w := (lanesOf m).foldl (fun (w : Wave) L =>
        let n := tsDepth (w.tstatOf L)
        let t : Tx := { resumePc := s.cur.next, pred := d.toNat, depth := (w.stack.get L []).length, reads := [],
                        seen := [], writes := [], data := [], validating := false }
        let w1 := w.setTstat L (tsOpen (w.tstatOf L) (n + 1))
        if n = 0 then w1.setTx L (some t) else w1) s.wv
      s.setW (w.setPred d m fullMask)

/-- The sectors of an open transaction. -/
def State.txSets (s : State) (L : Nat) : List Nat × List Nat :=
  match s.wv.txOf L with
  | none => ([], [])
  | some t => (t.reads, t.writes)

/-- Is a lane about to commit in this issue: its guard known (R249) and true, at depth 1, not yet validating? -/
def State.committing (s : State) (h : Hdr) (L : Nat) : Bool :=
  laneIn s.cur.lanes L && s.laneStop h (fun _ => some .order) L == some .order && s.txDepth L == 1 &&
    (match s.wv.txOf L with | some t => !t.validating | none => false)

/-- The first step of a commit (R149): a lower committing lane's write set meets this lane's sets. -/
def State.laneConflict (s : State) (h : Hdr) (L : Nat) : Bool :=
  s.committing h L && (List.range L).any fun K =>
    s.committing h K && (s.txSets K).2.any (fun x => (s.txSets L).1.contains x || (s.txSets L).2.contains x)

def State.txeCheck (s : State) (L : Nat) : Option Stop :=
  if s.txDepth L ≠ 1 then none
  else firstStop [s.tokenCheck, some .wait]

/-- `txe`: a lane at depth 1 whose commit starts keeps its PC until TX_COMMIT_VALIDATE has decided it; at depth 0 it has no
effect, so that a lane which has committed then passes. A lane that a lower one's write set meets aborts (R149); like an abort at
validation, that adds nothing to `wclk` (assumption 115). -/
def execTxe (h : Hdr) (s : State) : Out := .next <|
  let s1 := orderedBy h s true s.txeCheck fun m s =>
    s.setW ((lanesOf m).foldl (fun (w : Wave) L =>
      let n := tsDepth (w.tstatOf L)
      if n ≥ 2 then w.setTstat L (tsOpen (w.tstatOf L) (n - 1)) else w) s.wv)
  let begins := if s1.wv.stopped || s.tokenCheck.isSome then [] else (lanesOf s.cur.lanes).filter (s.committing h)
  begins.foldl (fun t L =>
    let t1 :=
      if s.laneConflict h L then t.setW (t.wv.txAbort L 2 0)
      else
        let u := t.fixLoads s.cur.uid s.cur.wid L (fun q => q.tx)
        u.setW (u.wv.setTx L ((u.wv.txOf L).map (fun x => { x with validating := true })))
    { t1 with cur := { t1.cur with acted := true } }) s1

/-- `txa`. -/
def execTxa (h : Hdr) (a : BitVec 6) (s : State) : Out := .next <|
  perThread h s (fun L => if s.inTx L then some (.abort 7 (field (s.pre.sreg a) 7 0)) else none) (fun _ s => s)

/-! ### Work lists (R249, R250) -/

/-- The cores that the partition holds on the executing die. -/
def State.coreCount (s : State) : Nat := (s.tilesOf s.bk.die s.bk.pid).length

def State.wlputCheck (s : State) (L : Nat) (d : BitVec 3) (a b : BitVec 6) (x y : Bool) : Option Stop :=
  let A := s.pre.op a 2 x
  let B := s.pre.op b 1 y
  let n := (s.pre.vreg B.reg L).toNat
  firstStop [longCheck s L [] [A, B], predCheck s.pre L [d], s.areaCheck,
    need (decide (n < s.coreCount)) .access (BitVec.ofNat 64 n), s.tokenCheck]

/-- `wlput`: the items leave in lane order; the slot holds pD until they are answered. -/
def execWlput (h : Hdr) (d : BitVec 3) (a b : BitVec 6) (x y : Bool) (s : State) : Out := .next <|
  orderedBy h s true (fun L => s.wlputCheck L d a b x y) fun m s =>
    if m = 0 then s
    else
      let i := s.wv.freeSlot.getD 0
      let A := s.pre.vnum a
      let item := fun (L : Nat) => (s.pre.vreg (A + 1) L).zeroExtend 64 <<< 32 ||| (s.pre.vreg A L).zeroExtend 64
      let items := (lanesOf m).map fun L =>
        let e : WlItem := { uid := s.cur.uid, wid := s.cur.wid, slot := i, lane := L,
                            vcid := (s.pre.vreg (s.pre.vnum b) L).toNat, item := item L }
        e
      let sl : Slot := { kind := .wlput, reg := d.toNat, lanes := m, ord := s.wv.slotSeq }
      let s1 := s.setW { s.wv.setSlot i sl with slotSeq := s.wv.slotSeq + 1 }
      let s2 := (lanesOf m).foldl (fun s L => s.releaseLane L 2) s1
      let l := s2.curLaunch
      s2.setLaunch s.bk.launch { l with inFlight := l.inFlight ++ items, ownsArea := true }

def State.wlgetCheck (s : State) (L : Nat) (d : BitVec 6) : Option Stop :=
  firstStop [longCheck s L [s.pre.op d 3] [], s.areaCheck, s.tokenCheck]

/-- `wlget`: requests are entered in lane order and paired with items in that order; a quiet launch answers at once. -/
def execWlget (h : Hdr) (d : BitVec 6) (s : State) : Out := .next <|
  orderedBy h s true (fun L => s.wlgetCheck L d) fun m s =>
    if m = 0 then s
    else
      let i := s.wv.freeSlot.getD 0
      let l := s.curLaunch
      let vcid := s.vcidAt s.bk.die s.bk.tile s.bk.pid
      let reqs := (lanesOf m).map fun L =>
        let q : Req := { lane := L, val := if l.quiet then some [0, 0, 1] else none }
        q
      let w := s.wv.openSlot .wlget (s.pre.op d 3) m reqs
      let s1 := s.setW { w with worker := true, wlgetOut := if l.quiet then w.wlgetOut else w.wlgetOut ||| m }
      let getters := (lanesOf m).map fun L =>
        let g : WlReq := { uid := s.cur.uid, wid := s.cur.wid, slot := i, lane := L, vcid := vcid }
        g
      let ws := if l.workers.contains (s.cur.uid, s.cur.wid) then l.workers else l.workers ++ [(s.cur.uid, s.cur.wid)]
      let s2 := s1.setLaunch s.bk.launch { l with workers := ws, ownsArea := true,
                                                  getters := if l.quiet then l.getters else l.getters ++ getters }
      s2.pairUp s.bk.launch vcid 48

/-! ### Message receipt (R251) -/

/-- The inbox that an `amrecv` names. -/
def State.inboxHere (s : State) (a : BitVec 6) : Nat :=
  inboxKey s.bk.ctxn ((s.dieidOf s.bk.pid s.bk.die).getD 0) (s.vcidAt s.bk.die s.bk.tile s.bk.pid) (field (s.pre.sreg a) 3 0)

/-- Its capacity; a rim core has no inboxes. -/
def State.capHere (s : State) (a : BitVec 6) : Nat :=
  if s.bk.die = 64 then 0
  else s.inboxCap s.bk.die s.bk.pid s.bk.ctxn (s.vcidAt s.bk.die s.bk.tile s.bk.pid) (field (s.pre.sreg a) 3 0)

/-- A queued message goes to the lane that waits first for its inbox. -/
def State.deliver (s : State) (key : Nat) : Nat → State
  | 0 => s
  | n + 1 =>
    match s.inbox key, s.amWaits.find? (fun w => w.key == key) with
    | x :: r, some w =>
      let s1 := { s.setInbox key r with amWaits := s.amWaits.erase w }
      ((s1.answer w.uid w.wid w.slot w.lane [x.w0, x.w1, x.from_]).acquireFor w.uid w.wid
        (BitVec.ofNat 48 (2 ^ w.lane)) x.scope).deliver key n
    | _, _ => s

/-- `amrecv`: lanes take messages in order; a lane whose inbox is empty waits. -/
def execAmrecv (h : Hdr) (d a : BitVec 6) (s : State) : Out := .next <|
  perThread h s
    (fun L => firstStop [longCheck s L [s.pre.op d 3] [],
      need (s.capHere a != 0) .access (BitVec.ofNat 64 (field (s.pre.sreg a) 3 0))])
    fun m s =>
      if m = 0 then s
      else
        let i := s.wv.freeSlot.getD 0
        let reqs := (lanesOf m).map fun L =>
          let q : Req := { lane := L }
          q
        let waits := (lanesOf m).map fun L =>
          let w : AmWait := ⟨s.inboxHere a, s.cur.uid, s.cur.wid, i, L⟩
          w
        let s1 := s.setW (s.wv.openSlot .amrecv (s.pre.op d 3) m reqs)
        ({ s1 with amWaits := s1.amWaits ++ waits }).deliver (s.inboxHere a) 48

end Sys2Proof.Machine
end

