-- ==== Sys2Proof/Machine/Engine.lean ====
section
/-! DEFINITION. What the engines share (06 R150 to R152, 11 R272, R273, R282): control words, records read from scratchpad,
jobs, timelines, engine status. -/

namespace Sys2Proof.Machine

/-! ### Control words and records -/

/-- CTX, SCOPE and COUNT of an engine control word. -/
def ctlCtx (x : W64) : Nat := field x 15 0
def ctlScope (x : W64) : Nat := field x 18 16
def ctlCount (x : W64) : Nat := field x 41 32

/-- ACCESS for a control word's reserved bits, SCOPE or COUNT (R272). -/
def ctlCheck (x : W64) (count : Nat → Bool) : Option Stop :=
  need (field x 63 42 == 0 && field x 31 19 == 0 && decide (ctlScope x ≤ 5) && count (ctlCount x)) .access x

/-- The codes of the context types (R369). -/
def EngType.code : EngType → Nat
  | .copy => 0 | .chain => 1 | .pair => 2 | .fabric => 3 | .sys => 4

/-- ACCESS for a handle not in the table or of another type (R273). -/
def State.ctxCheck (s : State) (n : Nat) (t : EngType) : Option Stop :=
  need (s.engEntry s.bk.ctxn n == some t.code) .access (BitVec.ofNat 64 n)

/-- Is a context accepting nothing: its partition is at DRAIN or beyond, or it is being torn down (R273)? -/
def State.retries (s : State) (pid ctxn : Nat) : Bool := decide (s.qstate pid ≥ 4) || !s.ctxEnabled ctxn

/-- The address checks of a record of `n` bytes read from scratchpad as an engine read (R277, R303), and DATA_ERROR of its
bytes (R481). -/
def Block.recCheck (b : Block) (id off n : Nat) : Option Stop :=
  firstStop [b.engRange id off n 48, b.engRead id off n, need (!b.bufMarked id off n) .dataError (bufBad id off)]

/-- A field of a record. -/
def recAt (bs : List Byte) (off n : Nat) : Nat := leNat ((bs.drop off).take n)
def recW (bs : List Byte) (off : Nat) : W64 := BitVec.ofNat 64 (recAt bs off 8)

/-- Do all of `n` bytes from `off` hold zero? -/
def recZero (bs : List Byte) (off n : Nat) : Bool := ((bs.drop off).take n).all (· == 0)

/-- The first offset of a list of (offset, passes) at which a record fails. -/
def firstBad (l : List (Nat × Bool)) : Option Nat := (l.find? (fun e => !e.2)).map (·.1)

/-! ### Timelines (R151) and errors (R282) -/

def State.setEng (s : State) (ctxn n : Nat) (e : Eng) : State := { s with eng := s.eng.set (ctxn * 1024 + n) e {} }

/-- Posts the increments whose turn has come. -/
def Eng.advance (e : Eng) : Nat → Eng
  | 0 => e
  | n + 1 =>
    match e.done.find? (fun r => r.1 == e.timeline + 1) with
    | some r => ({ e with timeline := e.timeline + r.2, done := e.done.erase r }).advance n
    | none => e

/-- `n` numbers of a context from `first` are done: their increments are posted once every earlier one is. -/
def Eng.finishRun (e : Eng) (first n : Nat) : Eng :=
  let e1 := { e with done := e.done ++ [(first, n)] }
  e1.advance e1.done.length

/-- A number of a context is done. -/
def Eng.finish (e : Eng) (num : Nat) : Eng := e.finishRun num 1

/-- Records a nonzero status (R282): the lowest-numbered failed job, and the count. -/
def Eng.fail (e : Eng) (num status : Nat) (addr : W64) : Eng :=
  let n := min (e.errCount + 1) 0xFFFFFFFF
  if e.errStatus = 0 ∨ num < e.errJob then { e with errStatus := status, errCount := n, errJob := num, errAddr := addr }
  else { e with errCount := n }

/-- A launch's completion counts as CPINC numbers of a context (R32, R151, R273). -/
def Eng.launchDone (e : Eng) (n : Nat) : Eng :=
  ({ e with issued := e.issued + n }).finishRun (e.issued + 1) n

/-! ### Jobs -/

def Job.is (j : Job) (ctxn h num : Nat) : Bool := j.ctxn == ctxn && j.handle == h && j.num == num
def State.job (s : State) (ctxn h num : Nat) : Option Job := s.jobs.find? (fun j => j.is ctxn h num)
def State.setJob (s : State) (j : Job) : State :=
  { s with jobs := s.jobs.map (fun i => if i.is j.ctxn j.handle j.num then j else i) }

/-- What a release by every live thread of the issuing wave leaves to be performed before a job reads memory (R150). -/
def State.jobDeps (s : State) : List (Nat × Nat) :=
  ((lanesOf s.pre.live).flatMap (fun L => s.depsOf (s.view L).key)).eraseDups

def State.depsDone (s : State) (l : List (Nat × Nat)) : Bool := l.all (fun d => s.performedAt d.1 d.2)

/-- Every live thread releases at the scope of the control word. -/
def State.engRelease (s : State) (scope : Nat) : State :=
  (lanesOf s.pre.live).foldl (fun s L => s.releaseLane L scope) s

/-- The context accepts a record as its next job. -/
def State.accept (s : State) (h scope : Nat) (work : Work) (dbuf : Buf := {}) : State :=
  let e := s.engAt s.bk.ctxn h
  let j : Job := { ctxn := s.bk.ctxn, handle := h, num := e.issued + 1, work := work, scope := scope, uid := s.cur.uid,
                   wid := s.cur.wid, pid := s.bk.pid, die := s.bk.die, tile := s.bk.tile, level := s.bk.level,
                   det := s.curLaunch.rcd.det, dbuf := dbuf, deps := s.jobDeps }
  { s.setEng s.bk.ctxn h { e with issued := e.issued + 1 } with jobs := s.jobs ++ [j] }

/-- Has a pair job not yet run? -/
def Job.unrun (j : Job) : Bool :=
  j.phase == .queued && (match j.work with
    | .pair _ none => true
    | _ => false)

/-- A copy job that retires is counted by the counters of its core (R482). -/
def State.countCopy (s : State) (j : Job) : State :=
  match j.work with
  | .copy _ => if j.die = 64 then s else s.bumpCore j.die j.tile 9 (s.worldIn j.die j.tile j.pid) 1
  | _ => s

/-- A job retires: its status is recorded and its number is done. A pair job that has not run has applied and tested nothing (R307). -/
def State.retireJob (s : State) (j : Job) (status : Nat) (addr : W64) : State :=
  let e0 := s.engAt j.ctxn j.handle
  let e := if j.unrun then { e0 with pairs := 0, tested := 0 } else e0
  let e1 := if status = 0 then e else e.fail j.num status addr
  { (s.countCopy j).setEng j.ctxn j.handle (e1.finish j.num) with jobs := s.jobs.filter (fun i => !i.is j.ctxn j.handle j.num) }

/-! ### Memory as the engines reach it (R150, R286) -/

/-- An engine of a die as a reader and writer: it stands at no core. -/
def engView (die : Nat) : View := { die := die, tile := 999, lane := 49 }

def Job.who (j : Job) : Who := ⟨j.die, j.tile, 4, j.ctxn, j.pid, j.level⟩

/-- The lock held for a page of a context (R392). -/
def State.lockFor (s : State) (ctxn va : Nat) : Option MigLock :=
  s.locks.find? (fun l => l.ctxn == ctxn && decide (l.va ≤ va) && decide (va < l.va + l.size))

/-- While a page is locked, its translation still names the old frame: the new copy takes over in one step, at the switch
(R155). -/
def State.heldXlat (s : State) (e : TlbE) : TlbE :=
  match s.lockFor e.ctxn e.base with
  | some l => if l.va = e.base ∧ l.size = e.size then { e with leaf := withField e.leaf 47 17 (l.frame / 2 ^ 17) } else e
  | none => e

/-- The walk cache's translation of a die, or a fresh walk (R386). -/
def State.dieXlat (s : State) (die ctxn pid va : Nat) : Option TlbE :=
  match s.tlb.find? (fun e => e.die == die && e.quarter == none && e.level == 0 && e.ctxn == ctxn && decide (e.base ≤ va) &&
      decide (va < e.base + e.size)) with
  | some e => some e
  | none => (s.walkOn die ctxn pid va).map (fun p => s.heldXlat { die := die, quarter := none, ctxn := ctxn, base := p.base, size := p.bytes, leaf := p.leaf })

/-- A TLB or walk cache takes an entry; the oldest makes room. -/
def addTlb (limit : Nat) (t : List TlbE) (e : TlbE) : List TlbE :=
  let same := fun (x : TlbE) => x.die == e.die && x.quarter == e.quarter
  let t1 := t.filter (fun x => !(same x && x.ctxn == e.ctxn && x.base == e.base && x.level == e.level))
  let t2 := if (t1.filter same).length < limit then t1
    else match t1.find? same with
      | some x => t1.erase x
      | none => t1
  t2 ++ [e]

/-- The entries that a job finds and pins enter its die's walk cache (R386). -/
def State.keepPins (s : State) (pins : List TlbE) : State :=
  { s with tlb := pins.foldl (fun t e => if t.contains e then t else addTlb 4096 t e) s.tlb }

/-- The pinned translation of an address. -/
def Job.pin (j : Job) (va : Nat) : Option TlbE :=
  j.pins.find? (fun e => decide (e.base ≤ va) && decide (va < e.base + e.size))

def TlbE.pa (e : TlbE) (va : Nat) : Nat := leafPa e.leaf + (va - e.base)

/-- The first byte and the length of the 192-byte lines that `n` bytes touch. -/
def lineRange (pa n : Nat) : Nat × Nat := (pa / 192 * 192, ((pa + n + 191) / 192 - pa / 192) * 192)

/-- Bytes that an engine of a die reads in the clear, and whether a line of them was uncorrectable (R128). -/
def State.engBytes (s : State) (die pa n : Nat) : List Byte × Bool :=
  let ls := lineRange pa n
  (s.peekMem (engView die) pa n, (List.range ls.2).any (fun i => (s.readByte (engView die) 0 (ls.1 + i)).bad))

/-- The generation of the keys that a partition holds under a key id; 0 where it holds none. -/
def State.keyOf (s : State) (pid key : Nat) : Nat :=
  match s.keys.get key none with
  | some r => if r.pid = pid then r.gen else 0
  | none => 0

/-- Bytes of a protected page decrypted under a key (R127, R128): none where a line of them does not verify, since a byte of it was not
written under the key (R456; assumption 99). -/
def State.plainBytes (s : State) (pid key pa n : Nat) : Option (List Byte) :=
  let g := s.keyOf pid key
  let ls := lineRange pa n
  let ok := (List.range ls.2).all (fun i => s.ptag.get (ls.1 + i) 0 == g && !s.badAt (ls.1 + i))
  if g ≠ 0 ∧ ok = true ∧ (!s.writes.any (fun w => w.hits pa n && !w.held)) = true then
    some ((List.range n).map (fun i => Tab.get s.mem (pa + i) 0))
  else none

/-- Must a write by an agent at the home or its die wait: its frame is locked (R155), or an atomic performed below the home has not reached it
(R142)? -/
def State.engHeld (s : State) (pa n : Nat) : Bool := (s.lockOf pa).isSome || s.rmwInFlight pa n

/-- A write to a protected page, under its key; to a locked frame it is held at the home (R155, R392). -/
def State.sendSealed (s : State) (v : View) (ctxn va g pa : Nat) (bs : List Byte) : State :=
  if (s.lockOf pa).isSome then
    let w : PWrite :=
      { id := s.nextWrite, die := v.die, tile := v.tile, uid := v.uid, wid := v.wid, lane := v.lane, pa := pa, va := va, ctxn := ctxn,
        bytes := bs, level := 1, target := homeLevel pa, deps := [], held := true, sealGen := g }
    { s with nextWrite := s.nextWrite + 1, writes := s.writes ++ [w] }
  else (s.putSealed g pa bs).clearCovered pa bs.length

/-- A write by an engine of a core, performed at a scope, no lower than its die (R150, R151). -/
def State.engWriteMem (s : State) (die tile ctxn scope va : Nat) (pid key pa : Nat) (bs : List Byte) : State :=
  let s1 := (s.recall pa bs.length).dropOwn die tile (max 3 (scopeLevel scope)) pa bs.length
  if key ≠ 0 then
    let gone := fun (w : PWrite) => w.hits pa bs.length && !w.held
    let s2 := (s1.writes.filter gone).foldl (fun s w => s.putHome w.pa w.bytes)
      { s1 with writes := s1.writes.filter (fun w => !gone w) }
    s2.sendSealed (engView die) ctxn va (s2.keyOf pid key) pa bs
  else s1.send (engView die) (max 3 (scopeLevel scope)) ctxn va pa bs [] false

/-! ### Engine status (R282, R307) -/

/-- The job of a PAIR context that runs or is suspended; one that was resumed and waits for its engine counts as running. -/
def State.pairJob (s : State) (ctxn h : Nat) : Option Job :=
  s.jobs.find? (fun j => j.ctxn == ctxn && j.handle == h && (j.phase != .queued ||
    (match j.work with | .pair _ (some _) => true | _ => false)))

def W64.ofInt (x : Int) : W64 := BitVec.ofInt 64 x

/-- The key of the engine of the quad that a tile lies in (R284). -/
def quadOf (die tile : Nat) : Nat := die * 36 + tileQuad tile

/-- The quad to which a PAIR context is bound (R369). -/
def State.boundQuad (s : State) (pid ctxn h : Nat) : Option Nat :=
  let e := s.ctxWord 3 ctxn h
  match s.dieOf pid (field e 19 14) with
  | none => none
  | some d => (s.tileOfVcid d pid (field e 13 6)).map (quadOf d)

/-- A pair field of `estat` for a reader of a partition. -/
def State.pairField (s : State) (pid ctxn h n : Nat) : W64 :=
  let e := s.engAt ctxn h
  let cur := (s.pairJob ctxn h).bind fun j => match j.work with
    | .pair r (some c) => if j.phase = .suspended then some (r, c) else none
    | _ => none
  match n with
  | 8 => match s.pairJob ctxn h with
    | none => 0
    | some j => if j.phase = .suspended then 2 else 1
  | 9 => ((s.pairJob ctxn h).map (fun j => BitVec.ofNat 64 j.num)).getD 0
  | 10 => (cur.map (fun (_, c) => BitVec.ofNat 64 (c.c % 2 ^ 32 + c.i % 2 ^ 32 * 2 ^ 32))).getD 0
  | 11 => (cur.map (fun (_, c) => BitVec.ofNat 64 (c.o % 32 + c.j % 2 ^ 32 * 2 ^ 32))).getD 0
  | 12 => (cur.map (fun (r, c) => BitVec.ofNat 64 (c.word % 4 + c.side % 2 * 4 +
      (BitVec.ofInt 8 r.fscale).toNat * 256))).getD 0
  | 13 => BitVec.ofNat 64 e.pairs
  | 14 => BitVec.ofNat 64 e.tested
  | 15 => match s.boundQuad pid ctxn h with
    | none => 0
    | some q =>
      let x := s.pairEng.get q {}
      if x.storePid = some pid then BitVec.ofNat 64 (leNat ((x.header.drop 16).take 8)) else 0
  | _ => 0

/-- ERROR of a context (R282). -/
def Eng.error (e : Eng) : W64 := BitVec.ofNat 64 (e.errStatus % 256 + e.errCount * 2 ^ 32)

/-- A field of a context as `estat` reads it. -/
def State.engField (s : State) (pid ctxn h n : Nat) : W64 :=
  let e := s.engAt ctxn h
  match n with
  | 0 => BitVec.ofNat 64 e.timeline
  | 1 => BitVec.ofNat 64 e.issued
  | 2 => e.error
  | 3 => BitVec.ofNat 64 e.errJob
  | 4 => e.errAddr
  | 5 => e.error
  | 6 => BitVec.ofNat 64 ((s.jobs.filter (fun j => j.ctxn == ctxn && j.handle == h)).length)
  | _ => if s.engEntry ctxn h = some 2 then s.pairField pid ctxn h n else 0

def Eng.clear (e : Eng) : Eng := { e with errStatus := 0, errCount := 0, errJob := 0, errAddr := 0 }

/-- `estat` (R282). -/
def execEstat (_h : Hdr) (d a n : BitVec 6) (s : State) : Out := .next <|
  let c := field (s.pre.sreg a) 15 0
  waveLevel s (need (s.engEntry s.bk.ctxn c).isSome .access (BitVec.ofNat 64 c)) fun s =>
    let s1 := s.setW (s.wv.setS d (s.engField s.bk.pid s.bk.ctxn c n.toNat))
    if n = 5 then s1.setEng s.bk.ctxn c (s.engAt s.bk.ctxn c).clear else s1

end Sys2Proof.Machine
end

