-- ==== Sys2Proof/Machine/Copy.lean ====
section
/-! DEFINITION. The bulk copy unit (05 R113, R114, R121 to R128, 11 R274 to R278): descriptors, `kick`, and the start, the
arrivals and the retirement of copy jobs. -/

namespace Sys2Proof.Machine

/-! ### Element types (R275) -/

def copyType (t : Nat) : Bool := t ≤ 6 || t == 8 || t == 9 || t == 15

/-- The effective type of a side whose memory has a format (0 PLAIN) and whose field names a type. -/
def effType (fmt named : Nat) : Nat := if fmt ≠ 0 then fmt else if named = 15 then 0 else named

/-- Does a formatted side's field name its format, or FROM? -/
def namesFmt (fmt named : Nat) : Bool := fmt == 0 || named == 15 || named == fmt

/-- Are two effective types accepted: equal, or neither BYTE nor Q4? -/
def typesOk (a b : Nat) : Bool := a == b || (a != 0 && a != 6 && b != 0 && b != 6)

def isFloatType (t : Nat) : Bool := t == 1 || t == 2 || t == 3 || t == 4 || t == 8

/-- One element converted (R275, R108); `sat`: as CONVERT, or under SAT of a chain. -/
def convElem (a b raw : Nat) (sat : Bool) : Nat :=
  if a = b then raw
  else if isFloatType b then (elemFmt b).round .rne sat false (elemValue a raw)
  else
    let w := 8 * elemSize b
    let lo : Int := -(2 ^ (w - 1) : Nat)
    let hi : Int := (2 ^ (w - 1) : Nat) - 1
    if isFloatType a then (BitVec.ofInt w (toIntClamped .rne lo hi (elemValue a raw))).toNat
    else
      let v := (BitVec.ofNat (8 * elemSize a) raw).toInt
      (BitVec.ofInt w (if sat then clampInt lo hi v else v)).toNat

/-! ### Descriptors (R274) -/

def signed32 (x : Nat) : Int := (BitVec.ofNat 32 x).toInt

def CopyDesc.ofBytes (bs : List Byte) : CopyDesc :=
  { op := recAt bs 0 1, sfmt := recAt bs 1 1, dfmt := recAt bs 2 1, flags := recAt bs 3 1, count0 := recAt bs 6 2,
    src := recAt bs 8 8, dst := recAt bs 0x10 8, count1 := recAt bs 0x18 2, count2 := recAt bs 0x1A 2,
    count3 := recAt bs 0x1C 2, str1 := signed32 (recAt bs 0x20 4), str2 := signed32 (recAt bs 0x24 4),
    str3 := signed32 (recAt bs 0x28 4), idx := recAt bs 0x2C 4 }

def CopyDesc.sbuf (d : CopyDesc) : Bool := d.flags.testBit 0
def CopyDesc.dbuf (d : CopyDesc) : Bool := d.flags.testBit 1
def CopyDesc.strDst (d : CopyDesc) : Bool := d.flags.testBit 2
def CopyDesc.indexed (d : CopyDesc) : Bool := d.op == 1 || d.op == 2
def CopyDesc.total (d : CopyDesc) : Nat := d.count0 * d.count1 * d.count2 * d.count3

/-- The id and offset that a buffer operand names. -/
def opId (x : Nat) : Nat := x / 2 ^ 32 % 64
def opOff (x : Nat) : Nat := x % 2 ^ 32

/-- The limits of an operand field: a VA below 2^56, or a buffer operand with [63:38] zero. -/
def opOk (isBuf : Bool) (x : Nat) : Bool := if isBuf then decide (x < 2 ^ 38) else decide (x < 2 ^ 56)

/-- The offset of the first field of a descriptor that breaks its limits. -/
def descBad (bs : List Byte) (ctx : Nat) : Option Nat :=
  let d := CopyDesc.ofBytes bs
  firstBad [(0, decide (d.op ≤ 3)), (1, copyType d.sfmt), (2, copyType d.dfmt),
    (3, decide (d.flags < 8) && (d.op != 1 || !d.strDst) && (d.op != 2 || d.strDst)),
    (4, recAt bs 4 2 == 0xFFFF || recAt bs 4 2 == ctx), (6, decide (1 ≤ d.count0)), (8, opOk d.sbuf d.src),
    (0x10, opOk d.dbuf d.dst), (0x18, decide (1 ≤ d.count1)), (0x1A, decide (1 ≤ d.count2)),
    (0x1C, decide (1 ≤ d.count3) && decide (d.total ≤ 2 ^ 24)), (0x1E, recAt bs 0x1E 2 == 0),
    (0x2C, if d.indexed then d.idx % 4 == 0 else d.idx == 0)]

/-! ### Places (R276) -/

/-- The indexes (e0, e1, e2, e3) of element `n`, e0 fastest. -/
def CopyDesc.index (d : CopyDesc) (n : Nat) : Nat × Nat × Nat × Nat :=
  (n % d.count0, n / d.count0 % d.count1, n / (d.count0 * d.count1) % d.count2, n / (d.count0 * d.count1 * d.count2))

/-- The distance of element `n` from the base on a side of element size `size`; `idx` holds the index table. -/
def CopyDesc.rel (d : CopyDesc) (dst : Bool) (idx : List Nat) (size n : Nat) : Int :=
  if d.strDst = dst then
    let (e0, e1, e2, e3) := d.index n
    let k1 := if d.indexed then idx.getD e1 0 else e1
    (e0 * size : Nat) + (k1 : Int) * d.str1 + (e2 : Int) * d.str2 + (e3 : Int) * d.str3
  else (size * n : Nat)

/-- The lowest and highest distance of a side, with every index of an index table 0 (R277). -/
def CopyDesc.reach (d : CopyDesc) (dst : Bool) (size : Nat) : Int × Int :=
  if d.strDst = dst then
    let t := fun (c : Nat) (x : Int) => ((c - 1 : Nat) : Int) * x
    let ts := [if d.indexed then 0 else t d.count1 d.str1, t d.count2 d.str2, t d.count3 d.str3]
    (ts.foldl (fun a x => a + min 0 x) 0, ts.foldl (fun a x => a + max 0 x) (((d.count0 - 1) * size : Nat) : Int) + size)
  else (0, (size * d.total : Nat))

def CopyDesc.base (d : CopyDesc) (dst : Bool) : Nat := if dst then d.dst else d.src
def CopyDesc.isBuf (d : CopyDesc) (dst : Bool) : Bool := if dst then d.dbuf else d.sbuf
def CopyDesc.named (d : CopyDesc) (dst : Bool) : Nat := if dst then d.dfmt else d.sfmt

/-! ### The checks of `kick` (R277) -/

/-- The effective element size on a buffer side. -/
def CopyDesc.bufSize (d : CopyDesc) (u : Buf) (dst : Bool) : Nat := elemSize (effType u.fmt (d.named dst))

/-- A buffer side: declared, and its range within SIZE. -/
def Block.sideCheck (b : Block) (d : CopyDesc) (dst : Bool) : Option Stop :=
  if !d.isBuf dst then none
  else
    let id := opId (d.base dst)
    let off := opOff (d.base dst)
    let u := b.buf id
    let (lo, hi) := d.reach dst (d.bufSize u dst)
    firstStop [need u.decl .bufState (bufBad id off),
      need (decide (0 ≤ off + lo) && decide (off + hi ≤ u.size)) .access (bufBad id off)]

def CopyDesc.idxId (d : CopyDesc) : Nat := d.idx / 2 ^ 26
def CopyDesc.idxOff (d : CopyDesc) : Nat := d.idx % 2 ^ 26

def Block.idxCheck (b : Block) (d : CopyDesc) : Option Stop :=
  if !d.indexed then none
  else firstStop [b.engRange d.idxId d.idxOff (4 * d.count1) 1, b.engRead d.idxId d.idxOff (4 * d.count1)]

/-- The lines that a fill covers: those of its range, or, where its destination is indexed, from its base to the end. -/
def Block.fillLines (b : Block) (d : CopyDesc) : Nat × Nat :=
  let u := b.buf (opId d.dst)
  let off := opOff d.dst
  if d.op = 2 then ((u.offset + off) / 192, u.lineEnd)
  else
    let (lo, hi) := d.reach true (d.bufSize u true)
    ((u.offset + (off + lo).toNat) / 192, (u.offset + (off + hi).toNat - 1) / 192 + 1)

/-- The bytes that a fill's elements write to each line are awaited (R123). -/
def Buf.awaitElems (u : Buf) (size : Nat) (offs : List Nat) : Buf :=
  { u with awaited := offs.foldl (fun t o => t.upd ((u.offset + o) / 192) 0 (· + size)) u.awaited }

/-- The offsets in the destination buffer of every element. -/
def CopyDesc.dstOffs (d : CopyDesc) (idx : List Nat) (size : Nat) : List Nat :=
  (List.range d.total).map (fun n => (opOff d.dst + d.rel true idx size n).toNat)

/-- A copy-out of a descriptor, as R121 has it. -/
def Block.copyOut (b : Block) (id off : Nat) : Except Stop Block :=
  let u := b.buf id
  if u.heldN ≠ 0 ∨ u.state = .empty ∨ u.state = .filling then .error (.fault .bufState (bufBad id off))
  else .ok (b.setBuf id { u with state := .draining, outs := u.outs + 1 })

/-- A fill of a descriptor (R121, R122). -/
def Block.fill (b : Block) (d : CopyDesc) : Except Stop Block :=
  let id := opId d.dst
  let u := b.buf id
  let (lo, hi) := b.fillLines d
  let all := (List.range (hi - lo)).all (fun i => b.lineIn (lo + i))
  if u.heldN ≠ 0 ∨ u.state = .draining ∨ (u.state = .filling ∧ all = false) then
    .error (.fault .bufState (bufBad id (opOff d.dst)))
  else
    let size := d.bufSize u true
    let b1 := if u.state = .empty then b.setLines u.line0 u.lineEnd false else b
    let u1 := if u.state = .filling then u else { u with bytes := 0, awaited := [] }
    let u2 := { u1 with state := .filling, bytes := u1.bytes + size * d.total }
    .ok ((b1.setBuf id (if d.op = 2 then u2 else u2.awaitElems size (d.dstOffs [] size))).setLines lo hi false)

/-- Both effects of a descriptor. -/
def Block.applyDesc (b : Block) (d : CopyDesc) : Except Stop Block :=
  let b1 := if d.sbuf then b.copyOut (opId d.src) (opOff d.src) else .ok b
  match b1 with
  | .ok b2 => if d.dbuf then b2.fill d else .ok b2
  | e => e

def Block.applyDescs (b : Block) : List CopyDesc → Except Stop Block
  | [] => .ok b
  | d :: r => match b.applyDesc d with
    | .ok b1 => b1.applyDescs r
    | e => e

/-- Copy jobs in flight of a core. -/
def State.copiesOf (s : State) (die tile : Nat) : Nat :=
  (s.jobs.filter (fun j => j.die == die && j.tile == tile && (match j.work with | .copy _ => true | _ => false))).length

/-- The bytes of each descriptor of a `kick`. -/
def Block.descs (b : Block) (id off n : Nat) : List (Nat × List Byte) :=
  (List.range n).map (fun i => (off + 48 * i, b.bufBytes id (off + 48 * i) 48))

def State.kickCheck (s : State) (a b : BitVec 6) : Option Stop :=
  let c := s.pre.sreg b
  let at_ := opBuf (s.pre.sreg a)
  let ds := s.bk.descs at_.1 at_.2 (ctlCount c)
  firstStop [ctlCheck c (fun n => decide (1 ≤ n) && decide (n ≤ 512)), s.ctxCheck (ctlCtx c) .copy,
    s.bk.recCheck at_.1 at_.2 (48 * ctlCount c),
    await (decide (s.copiesOf s.bk.die s.bk.tile + ctlCount c ≤ 512)),
    firstStop (ds.map fun e => firstStop
      [(descBad e.2 (ctlCtx c)).map (fun o => .fault .access (bufBad at_.1 (e.1 + o))),
       s.bk.sideCheck (.ofBytes e.2) false, s.bk.sideCheck (.ofBytes e.2) true, s.bk.idxCheck (.ofBytes e.2)]),
    match s.bk.applyDescs (ds.map (fun e => .ofBytes e.2)) with
    | .ok _ => none
    | .error x => some x]

/-- `kick` (R277): a release, whatever the answer (R150). -/
def execKick (_h : Hdr) (d a b : BitVec 6) (s : State) : Out := .next <|
  let c := s.pre.sreg b
  let at_ := opBuf (s.pre.sreg a)
  waveLevel s (s.kickCheck a b) fun s =>
    let s1 := s.engRelease (ctlScope c)
    if s.retries s.bk.pid s.bk.ctxn then s1.setW (s1.wv.setS d 0)
    else
      let ds := (s.bk.descs at_.1 at_.2 (ctlCount c)).map (fun e => CopyDesc.ofBytes e.2)
      let s2 := ds.foldl (fun (s : State) x =>
        match s.bk.applyDesc x with
        | .ok b1 =>
          { s with bk := b1 }.accept (ctlCtx c) (ctlScope c) (.copy x) (if x.dbuf then b1.buf (opId x.dst) else {})
        | .error _ => s) s1
      s2.setW (s2.wv.setS d (BitVec.ofNat 64 (s2.engAt s2.bk.ctxn (ctlCtx c)).issued))

/-! ### The start of a job (R278) -/

/-- Where an element lies: a buffer byte, or a pinned page's byte; with the format, geometry and key of its memory. -/
inductive Place where
  | buf (id off : Nat)
  | mem (va : Nat) (e : TlbE)
  deriving DecidableEq, Repr

/-- A buffer that a job names: the destination of a fill as it was declared at acceptance. -/
def State.jobBuf (s : State) (j : Job) (dst : Bool) (id : Nat) : Buf :=
  if dst && j.dbuf.decl then j.dbuf else (s.block j.uid).buf id

/-- The page of `size` bytes of a job, as it pins it or as an access at its level finds it; statuses 1 and 2 are answered, 2 also
where the memory agent would drop the access (R313, R419). -/
def State.jobPage (s : State) (j : Job) (write : Bool) (va : Int) (size : Nat) : Except Nat TlbE :=
  if va < 0 ∨ va + size > 2 ^ 56 then .error 1
  else
    match (j.pin va.toNat).orElse (fun _ => s.dieXlat j.die j.ctxn j.pid va.toNat) with
    | none => .error 1
    | some e =>
      if s.permits j.who (if write then .engWrite else .engRead) e.leaf (e.pa va.toNat) && s.inFrames j.pid (e.pa va.toNat) 1 then .ok e
      else .error 2

/-- The place of element `n` of a side, or a status, with its address for ERRADDR. -/
def State.elemAt (s : State) (j : Job) (d : CopyDesc) (dst : Bool) (size n : Nat) : Except Nat Place × W64 :=
  let r := d.rel dst j.idx size n
  if d.isBuf dst then
    let id := opId (d.base dst)
    let off := (opOff (d.base dst) : Int) + r
    (if off < 0 ∨ off + size > ((s.jobBuf j dst id).size : Nat) then .error 2 else .ok (.buf id off.toNat),
      bufBad id (off % 2 ^ 32).toNat)
  else
    let va := (d.base dst : Int) + r
    ((s.jobPage j dst va size).map (.mem va.toNat), BitVec.ofInt 64 va)

/-- The place of an element's last byte: another page where an element that is not aligned runs on into it, found as the first is. -/
def State.elemTail (s : State) (j : Job) (dst : Bool) (size : Nat) (p : Place) : Except Nat Place :=
  match p with
  | .mem va e =>
    if va + size ≤ e.base + e.size then .ok p else (s.jobPage j dst (va + size - 1 : Nat) 1).map (.mem (va + size - 1))
  | .buf _ _ => .ok p

/-- Format, geometry and key id of a place's memory; a sealed buffer has its KEY. -/
def State.placeFmt (s : State) (j : Job) (dst : Bool) : Place → Nat × Nat × Nat
  | .buf id _ => let u := s.jobBuf j dst id; (u.fmt, u.geo, u.key)
  | .mem _ e => (leafFmt e.leaf, leafGeo e.leaf, leafKey e.leaf)

def Place.isBuf : Place → Bool
  | .buf _ _ => true
  | _ => false

/-- May data pass between two places (R127), by their keys (0 clear)? From an unsealed buffer into a SEALED one it may (assumption 112). -/
def protOk (sb db : Bool) (sk dk : Nat) : Bool :=
  if sk = 0 then true else if sb then !db && dk == sk else dk == sk

/-- The effective type and geometry of a side, those of its first element. -/
def State.sideType (s : State) (j : Job) (d : CopyDesc) (dst : Bool) : Nat × Nat :=
  match (s.elemAt j d dst 1 0).1 with
  | .ok p => let f := s.placeFmt j dst p; (effType f.1 (d.named dst), f.2.1)
  | .error _ => (effType 0 (d.named dst), 0)

/-- The statuses that one element of a side gives by itself; FORMAT for one whose page has another effective type than the first
(assumption 111). -/
def State.sideStat (s : State) (j : Job) (d : CopyDesc) (dst : Bool) (ty : Nat × Nat) (n : Nat) : List (Nat × W64) :=
  let size := elemSize ty.1
  let (r, a) := s.elemAt j d dst size n
  match r, r.bind (s.elemTail j dst size) with
  | .ok p, .ok q =>
    let fmtBad := fun (p : Place) =>
      let f := s.placeFmt j dst p
      !namesFmt f.1 (d.named dst) || effType f.1 (d.named dst) != ty.1 || (ty.1 == 6 && f.2.1 != ty.2)
    let ord := fun (p : Place) => match p with
      | .buf _ _ => false
      | .mem _ e => dst && j.det && leafOrd e.leaf
    let misal := match p with
      | .buf _ off => off % size != 0
      | .mem va _ => va % size != 0
    (if fmtBad p || fmtBad q then [(4, a)] else []) ++ (if ord p || ord q then [(5, a)] else []) ++ (if misal then [(6, a)] else [])
  | .error c, _ => [(c, a)]
  | .ok _, .error c => [(c, a)]

/-- PROT of one element: of the pages of its first and of its last byte, on either side. -/
def State.protStat (s : State) (j : Job) (d : CopyDesc) (st dt : Nat × Nat) (n : Nat) : List (Nat × W64) :=
  let (x, a) := s.elemAt j d false (elemSize st.1) n
  let y := (s.elemAt j d true (elemSize dt.1) n).1
  let ok := fun (p q : Place) => protOk p.isBuf q.isBuf (s.placeFmt j false p).2.2 (s.placeFmt j true q).2.2
  match x, y, x.bind (s.elemTail j false (elemSize st.1)), y.bind (s.elemTail j true (elemSize dt.1)) with
  | .ok p, .ok q, .ok p2, .ok q2 => if ok p q && ok p2 q2 && ok p q2 && ok p2 q then [] else [(3, a)]
  | _, _, _, _ => []

/-- The least status of a list, with the first address at which it arose; (0, 0) where there is none. -/
def worst (l : List (Nat × W64)) : Nat × W64 :=
  l.foldl (fun b x => if b.1 = 0 ∨ x.1 < b.1 then x else b) (0, 0)

/-- The first failure of the checks of R278, in their order. -/
def State.copyStatus (s : State) (j : Job) (d : CopyDesc) : Nat × W64 :=
  let st := s.sideType j d false
  let dt := s.sideType j d true
  let types := if typesOk st.1 dt.1 && (st.1 != 6 || st.2 == dt.2) then [] else [(4, BitVec.ofNat 64 d.src)]
  worst (types ++ (List.range d.total).flatMap fun n =>
    s.sideStat j d false st n ++ s.sideStat j d true dt n ++ s.protStat j d st dt n)

/-- Every page of both sides, once. -/
def State.copyPins (s : State) (j : Job) (d : CopyDesc) : List TlbE :=
  let st := s.sideType j d false
  let dt := s.sideType j d true
  (List.range d.total).foldl (fun ps n =>
    [(false, st), (true, dt)].foldl (fun (ps : List TlbE) side =>
      match (s.elemAt j d side.1 (elemSize side.2.1) n).1 with
      | .ok (.mem _ e) => if ps.contains e then ps else ps ++ [e]
      | _ => ps) ps) []

/-- The index table, if it can be read: none while its buffer's lines are awaited; an error where it is no longer there. -/
def State.readIdx (s : State) (j : Job) (d : CopyDesc) : Option (Except Nat (List Nat)) :=
  if !d.indexed then some (.ok [])
  else
    let b := s.block j.uid
    match b.idxCheck d with
    | some .wait => none
    | some _ => some (.error 2)
    | none =>
      let bs := b.bufBytes d.idxId d.idxOff (4 * d.count1)
      if b.bufMarked d.idxId d.idxOff (4 * d.count1) then some (.error 7)
      else some (.ok ((List.range d.count1).map (fun i => recAt bs (4 * i) 4)))

/-- Has the job's buffer failed, or been declared anew, since its fill was accepted (R125)? -/
def State.fillStale (s : State) (j : Job) (id : Nat) : Bool :=
  let u := (s.block j.uid).buf id
  u.fails != j.dbuf.fails || u.offset != j.dbuf.offset || u.state != .filling

/-- A SCATTER's bytes are awaited once its addresses are known. -/
def State.awaitScatter (s : State) (j : Job) (d : CopyDesc) (size : Nat) : State :=
  let id := opId d.dst
  if d.op ≠ 2 || !d.dbuf || s.fillStale j id then s
  else
    let b := s.block j.uid
    s.setBlock j.uid (b.setBuf id ((b.buf id).awaitElems size (d.dstOffs j.idx size)))

/-- COPY_JOB_START. -/
def execCopyJobStart (ctxn handle num : Nat) (s : State) : Out := .next <|
  match s.job ctxn handle num with
  | some j =>
    match j.work, j.phase with
    | .copy d, .queued =>
      if !s.depsDone j.deps then s
      else
        match s.readIdx j d with
        | none => s
        | some (.error c) => s.setJob { j with phase := .started, status := c, errAddr := bufBad d.idxId d.idxOff }
        | some (.ok idx) =>
          let j1 := { j with idx := idx }
          let (st, addr) := s.copyStatus j1 d
          let j2 := { j1 with phase := .started, status := st, errAddr := addr }
          if st ≠ 0 then s.setJob j2
          else
            let pins := s.copyPins j1 d
            ((s.keepPins pins).setJob { j2 with pins := pins }).awaitScatter j2 d (elemSize (s.sideType j1 d true).1)
    | _, _ => s
  | none => s

/-! ### Moving elements (R276, R127, R128) -/

/-- Is a byte of a place reserved in a Q4 unit (R88)? -/
def State.reservedAt (s : State) (j : Job) (dst : Bool) (p : Place) : Bool :=
  let f := s.placeFmt j dst p
  f.1 == 6 && (match p with
    | .buf id off => (s.jobBuf j dst id).size % 131072 == 0 && q4Reserved f.2.1 (off % 131072)
    | .mem va _ => q4Reserved f.2.1 (unitOff va))

/-- The pinned place of an element of a started job. -/
def Job.pinned (j : Job) (d : CopyDesc) (dst : Bool) (size n : Nat) : Option Place :=
  let r := d.rel dst j.idx size n
  if d.isBuf dst then some (.buf (opId (d.base dst)) ((opOff (d.base dst) : Int) + r).toNat)
  else
    let va := ((d.base dst : Int) + r).toNat
    (j.pin va).map (.mem va)

/-- The bytes of a source element: none where they are uncorrectable or their MAC does not verify. -/
def State.readElemAt (s : State) (j : Job) (p : Place) (size : Nat) : Option (List Byte) :=
  if s.reservedAt j false p then some (leBytes 0 size)
  else
    match p with
    | .buf id off => if (s.block j.uid).bufMarked id off size then none else some ((s.block j.uid).bufBytes id off size)
    | .mem va e =>
      if leafKey e.leaf ≠ 0 then s.plainBytes j.pid (leafKey e.leaf) (e.pa va) size
      else
        let (bs, bad) := s.engBytes j.die (e.pa va) size
        if bad then none else some bs

/-- Writes an element's bytes: into the allotment where the destination buffer was declared, or to global memory. -/
def State.writeElemAt (s : State) (j : Job) (p : Place) (bs : List Byte) : State :=
  if s.reservedAt j true p then s.logIgnored 0
  else
    match p with
    | .buf id off => s.setBlock j.uid ((s.block j.uid).putSpm ((s.jobBuf j true id).offset + off) bs)
    | .mem va e => s.engWriteMem j.die j.tile j.ctxn j.scope va j.pid (leafKey e.leaf) (e.pa va) bs

/-- The order in which a job's elements are written: R276 gives none. -/
def copyOrder (num : Nat) (es : List Nat) : List Nat :=
  es.mergeSort (fun a b => decide (Config.copyRank num a ≤ Config.copyRank num b))

/-- Can an element's place not be written, since nothing serves it or its stack is not enabled (R445, R471)? -/
def State.elemLost (s : State) (q : Place) : Bool :=
  match q with
  | .mem va e => !s.lands (e.pa va)
  | .buf _ _ => false

/-- Moves one element; its source is read from `s0`, before the job's own writes, or from `s`. An uncorrectable source is
not written, nor is an element whose home cannot be reached (R445), and the job keeps status DATA_ERROR. -/
def State.moveElem (s0 s : State) (j : Job) (d : CopyDesc) (st dt n : Nat) : State :=
  match j.pinned d false (elemSize st) n, j.pinned d true (elemSize dt) n with
  | some p, some q =>
    let from_ := if Config.readBefore j.num n then s0 else s
    let fail := fun (addr : W64) => match s.job j.ctxn j.handle j.num with
      | some k => if k.status = 0 then s.setJob { k with status := 7, errAddr := addr } else s
      | none => s
    match from_.readElemAt j p (elemSize st) with
    | some bs =>
      if s.elemLost q then fail (s.elemAt j d true (elemSize dt) n).2
      else s.writeElemAt j q (leBytes (convElem st dt (leNat bs) (d.op == 3)) (elemSize dt))
    | none => fail (s.elemAt j d false (elemSize st) n).2
  | _, _ => s

/-- Recalls the U copies of every clear page byte that a set of elements reads (R145). -/
def State.recallElems (s : State) (j : Job) (d : CopyDesc) (st : Nat) (es : List Nat) : State :=
  es.foldl (fun s n => match j.pinned d false (elemSize st) n with
    | some (.mem va e) => s.recall (e.pa va) (elemSize st)
    | _ => s) s

def State.moveElems (s : State) (j : Job) (d : CopyDesc) (st dt : Nat) (es : List Nat) : State :=
  let s0 := s.recallElems j d st es
  (copyOrder j.num es).foldl (fun s n => State.moveElem s0 s j d st dt n) s0

/-! ### Arrivals of a fill (R123) -/

/-- The sector of the allotment that element `n` of a fill falls in. -/
def CopyDesc.sectorOf (d : CopyDesc) (j : Job) (size n : Nat) : Nat :=
  (j.dbuf.offset + (opOff d.dst + d.rel true j.idx size n).toNat) / 48

/-- The sectors that a fill writes. -/
def CopyDesc.sectors (d : CopyDesc) (j : Job) (size : Nat) : List Nat :=
  ((List.range d.total).map (d.sectorOf j size)).eraseDups

/-- `n` bytes of a line have arrived: its presence bit is set when none is awaited, and the buffer is FULL when the byte count
reaches 0, with the presence bits of the lines to which the fill writes nothing (assumption 110). -/
def Block.arrive (b : Block) (id line n : Nat) : Block :=
  let u := b.buf id
  let left := u.awaited.get line 0 - n
  let u1 := { u with bytes := u.bytes - n, awaited := u.awaited.set line left 0 }
  let b1 := b.setBuf id u1
  let b2 := if left = 0 then b1.setLines line (line + 1) true else b1
  if u1.bytes = 0 then b2.fillDone id else b2

/-- Must a job's writes wait for an atomic that is on its way to their homes (R142)? -/
def State.destHeld (s : State) (j : Job) (d : CopyDesc) (size : Nat) : Bool :=
  !d.dbuf && (List.range d.total).any (fun n => match j.pinned d true size n with
    | some (.mem va e) => s.rmwInFlight (e.pa va) size
    | _ => false)

/-- The writes numbered from `first` on that are held at a locked frame, as what waits for them to be performed (R392). -/
def State.heldFrom (s : State) (first : Nat) : List (Nat × Nat) :=
  (s.writes.filter (fun w => decide (first ≤ w.id) && w.held)).map (fun w => (w.id, 5))

/-! ### Retirement (R123, R125, R151, R278) -/

/-- What a job's end does to its buffers. -/
def State.copyEnd (s : State) (j : Job) (d : CopyDesc) (status : Nat) : State :=
  let b := s.block j.uid
  let b1 := if d.sbuf then b.copyOutDone (opId d.src) else b
  let u := b1.buf (opId d.dst)
  let b2 := if d.dbuf && status != 0 && u.fails == j.dbuf.fails && u.offset == j.dbuf.offset then b1.fillFailed (opId d.dst)
    else b1
  s.setBlock j.uid b2

end Sys2Proof.Machine
end

