-- ==== Sys2Proof/Machine/Special.lean ====
section
/-! DEFINITION. The special functions, correctly rounded (R101, R102). Rational results are formed exactly with a sticky
bit; the others are formed in fixed point of 320 fraction bits, far beyond what decides any FP32 rounding: no such
result but the exact cases of R102 is a rational of so few bits, so the bit put below the last is never the decision. -/

namespace Sys2Proof.Machine

/-- ln 2 and π, times 2^320, rounded down. -/
def ln2Fix : Nat :=
  0xb17217f7d1cf79abc9e3b39803f2f6af40f343267298b62d8a0d175b8baafa2be7b876206debac98
def piFix : Nat :=
  0x3243f6a8885a308d313198a2e03707344a4093822299f31d0082efa98ec4e6c89452821e638d01377

/-- The integer square root, bit by bit from bit `b` − 1 down. -/
def isqrtFrom (n : Nat) : Nat → Nat → Nat
  | 0, r => r
  | b + 1, r => if (r + 2 ^ b) * (r + 2 ^ b) ≤ n then isqrtFrom n b (r + 2 ^ b) else isqrtFrom n b r

def isqrt (n : Nat) : Nat := isqrtFrom n (n.log2 / 2 + 1) 0

/-- 1 / (m × 2^e), with a sticky bit. -/
def recipVal (neg : Bool) (m : Nat) (e : Int) : FVal :=
  let s := 64 + m.log2
  let q := 2 ^ s / m
  .fin neg (2 * q + (decide (2 ^ s % m ≠ 0)).toNat) (-e - s - 1)

/-- √(m × 2^e), with a sticky bit. -/
def sqrtVal (m : Nat) (e : Int) : FVal :=
  let s : Nat := if e % 2 = 0 then 120 else 121
  let n := m * 2 ^ s
  let r := isqrt n
  .fin false (2 * r + (decide (r * r ≠ n)).toNat) ((e - s) / 2 - 1)

/-- 1 / √(m × 2^e), with a sticky bit. -/
def rsqrtVal (m : Nat) (e : Int) : FVal :=
  let odd := e % 2 ≠ 0
  let m' := if odd then 2 * m else m
  let e' := if odd then e - 1 else e
  let r := isqrt (2 ^ 240 / m')
  .fin false (2 * r + (decide (r * r * m' ≠ 2 ^ 240)).toNat) (-120 - e' / 2 - 1)

/-- The power series of e^y, y in units of 2^−320: `fuel` terms after term `k`. -/
def expSeries (y : Nat) : Nat → Nat → Nat → Nat → Nat
  | 0, _, _, acc => acc
  | fuel + 1, k, term, acc =>
    let t := term * y / 2 ^ 320 / (k + 1)
    expSeries y fuel (k + 1) t (acc + t)

/-- 2^x for x = ± m × 2^e, not zero. -/
def exp2Val (neg : Bool) (m : Nat) (e : Int) : FVal :=
  let frac := (-e).toNat
  let mag : Int := if 0 ≤ e then (m * 2 ^ e.toNat : Nat) else (m : Int)
  let x : Int := if neg then -mag else mag
  let n : Int := if 0 ≤ e then x else x / ((2 ^ frac : Nat) : Int)
  if n ≥ 200 then .inf false
  else if n < -400 then .fin false 1 (-400)
  else
    let f : Nat := if 0 ≤ e then 0 else (x % ((2 ^ frac : Nat) : Int)).toNat
    if f = 0 then .fin false 1 n
    else
      let y := f * 2 ^ 320 / 2 ^ frac * ln2Fix / 2 ^ 320
      .fin false (2 * expSeries y 90 0 (2 ^ 320) (2 ^ 320) + 1) (n - 321)

/-- The series of atanh t: `p` is t^(2k+1), `t2` is t². -/
def atanhSeries (t2 : Nat) : Nat → Nat → Nat → Nat → Nat
  | 0, _, _, acc => acc
  | fuel + 1, k, p, acc => atanhSeries t2 fuel (k + 1) (p * t2 / 2 ^ 320) (acc + p / (2 * k + 1))

/-- log2 of m × 2^e, m not zero. -/
def log2Val (m : Nat) (e : Int) : FVal :=
  let l := m.log2
  if m = 2 ^ l then .ofInt (l + e)
  else
    let t := (m - 2 ^ l) * 2 ^ 320 / (m + 2 ^ l)
    let lnz := 2 * atanhSeries (t * t / 2 ^ 320) 110 0 t 0
    let v : Int := 2 * ((l + e) * ((2 ^ 320 : Nat) : Int) + ((lnz * 2 ^ 320 / ln2Fix : Nat) : Int)) + 1
    .fin (decide (v < 0)) v.natAbs (-321)

/-- The alternating series of sin (k odd terms) or cos: next term is term × y² / ((k+1)(k+2)), subtracted then added. -/
def trigSeries (y2 : Nat) : Nat → Nat → Nat → Int → Int → Int
  | 0, _, _, _, acc => acc
  | fuel + 1, k, term, sign, acc =>
    let t := term * y2 / 2 ^ 320 / ((k + 1) * (k + 2))
    trigSeries y2 fuel (k + 2) t (-sign) (acc + sign * (t : Int))

/-- sin π(r / 2^k) for 0 < r / 2^k ≤ 1/4, in units of 2^−320. -/
def sinFix (r k : Nat) : Nat :=
  let y := r * piFix / 2 ^ k
  (trigSeries (y * y / 2 ^ 320) 60 1 y (-1) y).toNat

/-- cos π(r / 2^k) for 0 < r / 2^k ≤ 1/4, in units of 2^−320. -/
def cosFix (r k : Nat) : Nat :=
  let y := r * piFix / 2 ^ k
  (trigSeries (y * y / 2 ^ 320) 60 0 (2 ^ 320) (-1) ((2 ^ 320 : Nat) : Int)).toNat

/-- sin πx of x = ± m × 2^e. -/
def sinpiVal (neg : Bool) (m : Nat) (e : Int) : FVal :=
  let k := max 1 (-e).toNat
  let x := m * 2 ^ (e + k).toNat
  let r := x % 2 ^ k
  let s := neg != decide (x / 2 ^ k % 2 = 1)
  if r = 0 then .fin neg 0 0
  else
    let r' := if 2 * r > 2 ^ k then 2 ^ k - r else r
    if 2 * r' = 2 ^ k then .fin s 1 0
    else if 4 * r' ≤ 2 ^ k then .fin s (2 * sinFix r' k + 1) (-321)
    else .fin s (2 * cosFix (2 ^ (k - 1) - r') k + 1) (-321)

/-- cos πx of x = ± m × 2^e. -/
def cospiVal (m : Nat) (e : Int) : FVal :=
  let k := max 1 (-e).toNat
  let x := m * 2 ^ (e + k).toNat % 2 ^ (k + 1)
  let x := if x > 2 ^ k then 2 ^ (k + 1) - x else x
  let s := decide (2 * x > 2 ^ k)
  let r := if s then 2 ^ k - x else x
  if r = 0 then .fin s 1 0
  else if 2 * r = 2 ^ k then .fin false 0 0
  else if 4 * r ≤ 2 ^ k then .fin s (2 * cosFix r k + 1) (-321)
  else .fin s (2 * sinFix (2 ^ (k - 1) - r) k + 1) (-321)

/-- The special functions by minor of major 10 (R212). -/
inductive Sfu where
  | rcp | sqrt | rsqrt | exp2 | log2 | sinpi | cospi
  deriving DecidableEq, Repr

/-- The exact function of a value, with the special values of R102. -/
def Sfu.val (op : Sfu) (x : FVal) : FVal :=
  match op, x with
  | _, .nan => .nan
  | .rcp, .inf s => .fin s 0 0
  | .rcp, .fin s m e => if m = 0 then .inf s else recipVal s m e
  | .sqrt, .inf s => if s then .nan else .inf false
  | .sqrt, .fin s m e => if m = 0 then .fin s 0 0 else if s then .nan else sqrtVal m e
  | .rsqrt, .inf s => if s then .nan else .fin false 0 0
  | .rsqrt, .fin s m e => if m = 0 then .inf s else if s then .nan else rsqrtVal m e
  | .exp2, .inf s => if s then .fin false 0 0 else .inf false
  | .exp2, .fin s m e => if m = 0 then .fin false 1 0 else exp2Val s m e
  | .log2, .inf s => if s then .nan else .inf false
  | .log2, .fin s m e => if m = 0 then .inf true else if s then .nan else log2Val m e
  | .sinpi, .inf _ => .nan
  | .sinpi, .fin s m e => if m = 0 then .fin s 0 0 else sinpiVal s m e
  | .cospi, .inf _ => .nan
  | .cospi, .fin _ m e => if m = 0 then .fin false 1 0 else cospiVal m e

/-- A special function on an FP32 code, rounded RNE, with FTZ as R93 gives. -/
def Sfu.code (op : Sfu) (ftz : Bool) (a : W32) : W32 :=
  BitVec.ofNat 32 (fp32.round .rne false ftz (op.val (fp32.value (fp32.flush ftz a.toNat))))

end Sys2Proof.Machine
end

