-- ==== Sys2Proof/Machine/Chain.lean ====
section
/-! DEFINITION. Stream chains (11 R279, R280): `vchain` and the retirement of its job. -/

namespace Sys2Proof.Machine

/-! ### The descriptor -/

def ChainDesc.ofBytes (bs : List Byte) : ChainDesc :=
  { ops := (List.range (recAt bs 0 1)).map (fun i => recAt bs (0x20 + i) 1), sfmt := recAt bs 1 1, dfmt := recAt bs 2 1,
    flags := recAt bs 3 1, count := recAt bs 8 4, src := recAt bs 0x10 8, dst := recAt bs 0x18 8,
    k0 := BitVec.ofNat 32 (recAt bs 0x28 4), k1 := BitVec.ofNat 32 (recAt bs 0x2C 4) }

/-- The types that a chain converts. -/
def chainType (t : Nat) : Bool := (decide (1 ≤ t) && decide (t ≤ 5)) || t == 8 || t == 9

/-- An operation byte: OPC 1 to 11 in [7:4], [3:2] zero, select 0 or 1. -/
def chainOpOk (x : Nat) : Bool := decide (1 ≤ x / 16) && decide (x / 16 ≤ 11) && decide (x % 16 ≤ 1)

/-- The offset of the first field that breaks its limits. -/
def chainBad (bs : List Byte) (ctx : Nat) : Option Nat :=
  let d := ChainDesc.ofBytes bs
  let n := recAt bs 0 1
  firstBad ([(0, decide (1 ≤ n) && decide (n ≤ 8)), (1, chainType d.sfmt || d.sfmt == 15),
    (2, chainType d.dfmt || d.dfmt == 15), (3, decide (d.flags < 8)),
    (4, recAt bs 4 2 == 0xFFFF || recAt bs 4 2 == ctx), (6, recAt bs 6 2 == 0),
    (8, decide (1 ≤ d.count) && decide (d.count ≤ 2 ^ 24)), (0xC, recAt bs 0xC 4 == 0),
    (0x10, opOk (d.flags.testBit 0) d.src), (0x18, opOk (d.flags.testBit 1) d.dst),
    (0x20, (List.range 8).all (fun i => if i < n then chainOpOk (recAt bs (0x20 + i) 1) else recAt bs (0x20 + i) 1 == 0))])

/-- The places of a chain's elements are those of a dense copy. -/
def ChainDesc.copy (d : ChainDesc) : CopyDesc :=
  { op := 0, sfmt := d.sfmt, dfmt := d.dfmt, flags := d.flags % 4, count0 := d.count, src := d.src, dst := d.dst, count1 := 1,
    count2 := 1, count3 := 1, str1 := 0, str2 := 0, str3 := 0, idx := 0 }

/-! ### `vchain` (R279) -/

/-- The buffer endpoints: their addresses, then their states (R254 steps 5 and 6); a FILLING source is waited for by the job. -/
def Block.chainBufs (b : Block) (d : CopyDesc) : Option Stop :=
  let src := b.buf (opId d.src)
  firstStop [b.sideCheck d false, b.sideCheck d true,
    if d.sbuf then need (src.state != .empty) .bufState (bufBad (opId d.src) (opOff d.src)) else none,
    if d.dbuf then b.engWrite (opId d.dst) (opOff d.dst) else none]

/-- `vchain`: a release, whatever the answer (R150). -/
def execVchain (_h : Hdr) (d a b : BitVec 6) (s : State) : Out := .next <|
  let c := s.pre.sreg b
  let at_ := opBuf (s.pre.sreg a)
  let bs := s.bk.bufBytes at_.1 at_.2 48
  let x := ChainDesc.ofBytes bs
  waveLevel s
    (firstStop [ctlCheck c (fun n => n == 0), s.ctxCheck (ctlCtx c) .chain, s.bk.recCheck at_.1 at_.2 48,
      (chainBad bs (ctlCtx c)).map (fun o => .fault .access (bufBad at_.1 (at_.2 + o))), s.bk.chainBufs x.copy]) fun s =>
    let s1 := s.engRelease (ctlScope c)
    if s.retries s.bk.pid s.bk.ctxn then s1.setW (s1.wv.setS d 0)
    else
      let s2 := if x.copy.dbuf then { s1 with bk := s1.bk.holdBuf (opId x.dst) } else s1
      let s3 := s2.accept (ctlCtx c) (ctlScope c) (.chain x)
      s3.setW (s3.wv.setS d (BitVec.ofNat 64 (s3.engAt s3.bk.ctxn (ctlCtx c)).issued))

/-! ### The operations (R280) -/

/-- One operation on an FP32 code. -/
def chainOp (k0 k1 : W32) (op : Nat) (w : W32) : W32 :=
  let k := if op % 2 = 0 then k0 else k1
  match op / 16 with
  | 1 => fadd32 w k
  | 2 => BitVec.ofNat 32 (fp32.mulC .rne false false w.toNat k.toNat)
  | 3 => fmax32 w k
  | 4 => fmin32 w k
  | 5 => BitVec.ofNat 32 (fp32.fmaC .rne false false false w.toNat k0.toNat k1.toNat)
  | 6 => w &&& 0x7FFFFFFF
  | 7 => w ^^^ 0x80000000
  | 8 => Sfu.exp2.code false w
  | 9 => Sfu.rcp.code false w
  | 10 => Sfu.rsqrt.code false w
  | _ => Sfu.log2.code false w

/-- One element through the chain: to FP32 (an FP32 source keeps its bits; an INT32 outside its exact range is rounded RNE), the operations,
to DFMT (an FP32 destination takes the bits, under SAT no infinity). -/
def ChainDesc.elem (d : ChainDesc) (st dt raw : Nat) : Nat :=
  let w := if st = 8 then BitVec.ofNat 32 raw else BitVec.ofNat 32 (fp32.round .rne false false (elemValue st raw))
  let r := d.ops.foldl (fun w op => chainOp d.k0 d.k1 op w) w
  if dt = 8 then
    (if d.flags.testBit 2 && !(fp32.value r.toNat).isNan then fp32.round .rne true false (fp32.value r.toNat) else r.toNat)
  else convElem 8 dt r.toNat (d.flags.testBit 2)

/-! ### The job -/

/-- The first failure of R278, and PROT of a protected page on either side. Plaintext of a sealed buffer goes to no global page
(R129). -/
def State.chainStatus (s : State) (j : Job) (d : CopyDesc) : Nat × W64 :=
  let st := s.sideType j d false
  let dt := s.sideType j d true
  let types := if chainType st.1 && chainType dt.1 then [] else [(4, BitVec.ofNat 64 d.src)]
  let prot := fun (dst : Bool) (ty : Nat × Nat) (n : Nat) =>
    let (p, a) := s.elemAt j d dst (elemSize ty.1) n
    let keyed := fun (p : Except Nat Place) => match p with
      | .ok (.mem _ e) => leafKey e.leaf != 0 || (dst && d.sbuf && ((s.block j.uid).buf (opId d.src)).isSealed)
      | _ => false
    if keyed p || keyed (p.bind (s.elemTail j dst (elemSize ty.1))) then [(3, a)] else []
  worst (types ++ (List.range d.total).flatMap fun n =>
    s.sideStat j d false st n ++ s.sideStat j d true dt n ++ prot false st n ++ prot true dt n)

/-- Does a job's source buffer hold it up (some), and does it end it (EMPTY since)? -/
def State.chainSource (s : State) (j : Job) (d : CopyDesc) : Option Stop :=
  if !d.sbuf then none
  else (s.block j.uid).engRead (opId d.src) (opOff d.src) (elemSize (s.sideType j d false).1 * d.total)

/-- Ends a chain job: its destination is held no longer. -/
def State.chainEnd (s : State) (j : Job) (d : CopyDesc) (status : Nat) (addr : W64) : State :=
  (if d.dbuf then s.setBlock j.uid ((s.block j.uid).unholdBuf (opId d.dst)) else s).retireJob j status addr

/-- Runs the elements of a chain. -/
def State.runChain (s : State) (j : Job) (x : ChainDesc) : State × Option W64 :=
  let d := x.copy
  let st := (s.sideType j d false).1
  let dt := (s.sideType j d true).1
  let s0 := s.recallElems j d st (List.range d.total)
  (copyOrder j.num (List.range d.total)).foldl (fun (r : State × Option W64) n =>
    match j.pinned d false (elemSize st) n, j.pinned d true (elemSize dt) n with
    | some p, some q =>
      let src := if Config.readBefore j.num n || (d.src == d.dst && elemSize st == elemSize dt) then s0 else r.1
      match src.readElemAt j p (elemSize st) with
      | some bs =>
        if r.1.elemLost q then (r.1, r.2.orElse (fun _ => some (s.elemAt j d true (elemSize dt) n).2))
        else (r.1.writeElemAt j q (leBytes (x.elem st dt (leNat bs)) (elemSize dt)), r.2)
      | none => (r.1, r.2.orElse (fun _ => some (s.elemAt j d false (elemSize st) n).2))
    | _, _ => r) (s0, none)

end Sys2Proof.Machine
end

