-- ==== Sys2Proof/Machine/Hash.lean ====
section
/-! DEFINITION. Philox4x32-10 (R99) and SHA-384 (R293, R447, R475). -/

namespace Sys2Proof.Machine

/-! ### Philox -/

/-- One round of Philox4x32 on the counter words under the round key (R99). -/
def philoxRound (k0 k1 : W32) (c : W32 × W32 × W32 × W32) : W32 × W32 × W32 × W32 :=
  let (c0, c1, c2, c3) := c
  let p := 0xD2511F53 * c0.toNat
  let q := 0xCD9E8D57 * c2.toNat
  (BitVec.ofNat 32 (q / 2 ^ 32) ^^^ c1 ^^^ k0, BitVec.ofNat 32 q,
   BitVec.ofNat 32 (p / 2 ^ 32) ^^^ c3 ^^^ k1, BitVec.ofNat 32 p)

/-- `n` rounds, the key raised between them. -/
def philoxRounds : Nat → W32 → W32 → W32 × W32 × W32 × W32 → W32 × W32 × W32 × W32
  | 0, _, _, c => c
  | n + 1, k0, k1, c => philoxRounds n (k0 + 0x9E3779B9) (k1 + 0xBB67AE85) (philoxRound k0 k1 c)

/-- Philox(key, ctr): four 32-bit words (R99). -/
def philox (key : W64) (c0 c1 c2 c3 : W32) : W32 × W32 × W32 × W32 :=
  philoxRounds 10 (key.setWidth 32) (BitVec.ofNat 32 (key.toNat / 2 ^ 32)) (c0, c1, c2, c3)

/-- Output word `i`. -/
def philoxWord (r : W32 × W32 × W32 × W32) (i : Nat) : W32 :=
  match i with
  | 0 => r.1
  | 1 => r.2.1
  | 2 => r.2.2.1
  | _ => r.2.2.2

/-! ### SHA-384 -/

/-- The primes up to 409: the 80 that the constants are taken from. -/
def shaPrimes : List Nat :=
  (List.range 410).filter (fun n => 2 ≤ n && (List.range n).all (fun d => d < 2 || n % d != 0))

/-- The whole part of the `e`-th root of `x`, given that it lies less than 2^bits above `low`: one bit at a time, from the top. -/
def wholeRoot (e x : Nat) : Nat → Nat → Nat
  | 0, low => low
  | bits + 1, low => wholeRoot e x bits (if (low + 2 ^ bits) ^ e ≤ x then low + 2 ^ bits else low)

/-- The first 64 bits after the point of the `e`-th root of `n`, for a root below 32. -/
def rootFraction (e n : Nat) : W64 := BitVec.ofNat 64 (wholeRoot e (n * 2 ^ (64 * e)) 69 0)

/-- The round constants of SHA-512 and SHA-384: from the cube roots of the 80 primes. -/
def shaK : List W64 := shaPrimes.map (rootFraction 3)

/-- The initial hash value of SHA-384: from the square roots of the 9th to 16th primes. -/
def shaInit : List W64 := ((shaPrimes.drop 8).take 8).map (rootFraction 2)

/-- One round: the working variables, the round's constant and message word. -/
def shaRound (v : List W64) (k w : W64) : List W64 :=
  match v with
  | [a, b, c, d, e, f, g, h] =>
    let s1 := e.rotateRight 14 ^^^ e.rotateRight 18 ^^^ e.rotateRight 41
    let ch := (e &&& f) ^^^ (~~~ e &&& g)
    let t1 := h + s1 + ch + k + w
    let s0 := a.rotateRight 28 ^^^ a.rotateRight 34 ^^^ a.rotateRight 39
    let mj := (a &&& b) ^^^ (a &&& c) ^^^ (b &&& c)
    [t1 + (s0 + mj), a, b, c, d + t1, e, f, g]
  | v => v

/-- The next message word from the last sixteen. -/
def shaNext (ws : List W64) : W64 :=
  let w1 := ws.getD 1 0
  let w14 := ws.getD 14 0
  (w14.rotateRight 19 ^^^ w14.rotateRight 61 ^^^ (w14 >>> 6)) + ws.getD 9 0
    + (w1.rotateRight 1 ^^^ w1.rotateRight 8 ^^^ (w1 >>> 7)) + ws.getD 0 0

/-- The rounds of one block over the constants; `ws` holds the next sixteen message words. -/
def shaRounds : List W64 → List W64 → List W64 → List W64
  | [], _, v => v
  | k :: ks, ws, v => shaRounds ks (ws.tail ++ [shaNext ws]) (shaRound v k (ws.getD 0 0))

/-- A big-endian 64-bit word of up to eight bytes. -/
def beWord (bs : List Byte) : W64 := BitVec.ofNat 64 (bs.foldl (fun a b => a * 256 + b.toNat) 0)

/-- Sixteen message words of a 128-byte block. -/
def shaWords : Nat → List Byte → List W64
  | 0, _ => []
  | n + 1, bs => beWord (bs.take 8) :: shaWords n (bs.drop 8)

/-- The blocks of a padded message, `n` of them, folded into the hash value. -/
def shaBlocks : Nat → List Byte → List W64 → List W64
  | 0, _, h => h
  | n + 1, bs, h =>
    shaBlocks n (bs.drop 128) (List.zipWith (· + ·) h (shaRounds shaK (shaWords 16 bs) h))

/-- `n` bytes of a number, most significant first. -/
def beBytes : Nat → Nat → List Byte
  | 0, _ => []
  | n + 1, v => BitVec.ofNat 8 (v / 256 ^ n) :: beBytes n v

/-- SHA-384 of a byte string: 48 bytes. -/
def sha384 (msg : List Byte) : List Byte :=
  let l := msg.length
  let pad := (239 - l % 128) % 128
  let full := msg ++ [0x80] ++ List.replicate pad 0 ++ beBytes 16 (8 * l)
  ((shaBlocks (full.length / 128) full shaInit).take 6).flatMap (fun w => beBytes 8 w.toNat)

end Sys2Proof.Machine
end

