-- ==== Sys2Proof/Machine/Curve.lean ====
section
/-! DEFINITION. ECDSA over brainpoolP384r1 with SHA-384 (21), and the identity keys of the segments (R447). The parameters of the curve
are those of RFC 5639, which chapter 21 names (assumption 4). -/

namespace Sys2Proof.Machine

/-- The prime of the field. -/
def curveP : Nat := 0x8CB91E82A3386D280F5D6F7E50E641DF152F7109ED5456B412B1DA197FB71123ACD3A729901D1A71874700133107EC53

/-- The coefficients: y² = x³ + a·x + b. -/
def curveA : Nat := 0x7BC382C63D8C150C3C72080ACE05AFA0C2BEA28E4FB22787139165EFBA91F90F8AA5814A503AD4EB04A8C7DD22CE2826
def curveB : Nat := 0x04A8C7DD22CE28268B39B55416F0447C2FB77DE107DCD2A62E880EA53EEB62D57CB4390295DBC9943AB78696FA504C11

/-- The order of the group. -/
def curveN : Nat := 0x8CB91E82A3386D280F5D6F7E50E641DF152F7109ED5456B31F166E6CAC0425A7CF3AB6AF6B7FC3103B883202E9046565

/-- A point; none is the point at infinity. -/
abbrev CurvePoint := Option (Nat × Nat)

/-- The generator. -/
def curveG : CurvePoint := some
  (0x1D1C64F068CF45FFA2A63A81B7C13F6B8847A3E77EF14FE3DB7FCAFE0CBD10E8E826E03436D646AAEF87B2E247D4AF1E,
   0x8ABE1D7520F9C2A45CB1EB8E95CFD55262B70B29FEEC5864E19C054FF99129280E4646217791811142820341263C5315)

/-- A power modulo `m`, by the low `n` bits of the exponent. -/
def powMod (m : Nat) : Nat → Nat → Nat → Nat
  | 0, _, _ => 1
  | n + 1, x, e => let h := powMod m n (x * x % m) (e / 2); if e % 2 = 1 then h * x % m else h

/-- The inverse modulo a prime of 384 bits. -/
def invMod (m x : Nat) : Nat := powMod m 384 x (m - 2)

/-- Does a pair of coordinates lie on the curve? -/
def onCurve (x y : Nat) : Bool := decide (x < curveP) && decide (y < curveP) && y * y % curveP == (x * x * x + curveA * x + curveB) % curveP

/-- The sum of two points. -/
def pointAdd (p q : CurvePoint) : CurvePoint :=
  match p, q with
  | none, _ => q
  | _, none => p
  | some (x1, y1), some (x2, y2) =>
    if x1 = x2 ∧ (y1 + y2) % curveP = 0 then none
    else
      let slope := if x1 = x2 then (3 * x1 * x1 + curveA) * invMod curveP (2 * y1 % curveP) % curveP
        else (y2 + curveP - y1) * invMod curveP ((x2 + curveP - x1) % curveP) % curveP
      let x3 := (slope * slope + 2 * curveP - x1 - x2) % curveP
      some (x3, (slope * (x1 + curveP - x3) + curveP - y1) % curveP)

/-- A multiple of a point, by the low `n` bits of the factor. -/
def pointMul : Nat → Nat → CurvePoint → CurvePoint
  | 0, _, _ => none
  | n + 1, k, p => let r := pointMul n (k / 2) (pointAdd p p); if k % 2 = 1 then pointAdd r p else r

/-- Bytes as a number, most significant first. -/
def beNat (bs : List Byte) : Nat := bs.foldl (fun a b => a * 256 + b.toNat) 0

/-- The 97-byte uncompressed form of a point: 4, then both coordinates, most significant byte first. -/
def pointBytes (p : CurvePoint) : List Byte :=
  match p with
  | none => []
  | some (x, y) => 0x04 :: (beBytes 48 x ++ beBytes 48 y)

/-- The point of a 97-byte public key, where it lies on the curve (R476). -/
def readKey (key : List Byte) : CurvePoint :=
  let x := beNat ((key.drop 1).take 48)
  let y := beNat ((key.drop 49).take 48)
  if key.length = 97 ∧ key.head? = some 0x04 ∧ onCurve x y = true then some (x, y) else none

/-- Does a signature of 96 bytes, two numbers most significant byte first, verify under a public key over a digest (R449, R476)? -/
def ecdsaVerifies (sig key digest : List Byte) : Bool :=
  let r := beNat (sig.take 48)
  let t := beNat (sig.drop 48)
  let w := invMod curveN t
  match readKey key with
  | none => false
  | some q =>
    sig.length == 96 && decide (0 < r) && decide (r < curveN) && decide (0 < t) && decide (t < curveN) &&
      (match pointAdd (pointMul 384 (beNat digest * w % curveN) curveG) (pointMul 384 (r * w % curveN) (some q)) with
        | none => false
        | some (x, _) => x % curveN == r)

/-- The signature of a digest under a private scalar and the signer's own secret number. -/
def ecdsaSign (d k : Nat) (digest : List Byte) : List Byte :=
  let r := (((pointMul 384 k curveG).map (·.1)).getD 0) % curveN
  beBytes 48 r ++ beBytes 48 (invMod curveN k * (beNat digest + r * d) % curveN)

/-! ### The keys of segments (R447) -/

/-- The private scalar of a segment: SHA-384 in counter mode over its fuse seed, reduced modulo the order. The same at each module reset. The
length of the stream and the counter's place are the model's choice (assumption 129). -/
def identityScalar (index : Nat) : Nat :=
  beNat ([1, 2].flatMap (fun i => sha384 (beBytes 4 i ++ Config.fuseSeed index))) % curveN

/-- The public key of a segment, 97 bytes. -/
def identityPublic (index : Nat) : List Byte := pointBytes (pointMul 384 (identityScalar index) curveG)

/-- A segment signs a message: over its SHA-384. -/
def identitySign (index : Nat) (msg : List Byte) : List Byte :=
  ecdsaSign (identityScalar index) (1 + Config.signNonce index msg % (curveN - 1)) (sha384 msg)

/-- What a segment answers to the loader's nonce (R449): a signature over SHA-384 of nonce, index and DEVID. -/
def identityAnswer (index devid : Nat) (nonce : List Byte) : List Byte :=
  identitySign index (nonce ++ [BitVec.ofNat 8 index] ++ (List.range 4).map (fun i => BitVec.ofNat 8 (devid / 256 ^ i)))

end Sys2Proof.Machine
end

