-- ==== Sys2Proof/Machine/PairJob.lean ====
section
/-! DEFINITION. The pair interaction engine (12): job records, `pair`, `pair.resume`, the choice of a job, kernel tables, cell
lists, the evaluation of pairs in canonical order, saturation. -/

namespace Sys2Proof.Machine

/-! ### The record (R301, R302) -/

def signed8 (x : Nat) : Int := (BitVec.ofNat 8 x).toInt

def PairRec.ofBytes (bs : List Byte) : PairRec :=
  { scheme := recAt bs 0 1, fscale := signed8 (recAt bs 1 1), flags := recAt bs 2 2, ncx := recAt bs 8 2,
    ncy := recAt bs 0xA 2, ncz := recAt bs 0xC 2, firstCell := recAt bs 0x10 4, nCells := recAt bs 0x14 4,
    boxX := BitVec.ofNat 32 (recAt bs 0x18 4), boxY := BitVec.ofNat 32 (recAt bs 0x1C 4),
    boxZ := BitVec.ofNat 32 (recAt bs 0x20 4), ni := recAt bs 0x24 4, nj := recAt bs 0x28 4, rc2 := recAt bs 0x30 8,
    iset := recAt bs 0x38 8, jset := recAt bs 0x40 8, icell := recAt bs 0x48 8, jcell := recAt bs 0x50 8,
    table := recAt bs 0x58 8, iacc := recAt bs 0x60 8, jacc := recAt bs 0x68 8 }

def PairRec.half (r : PairRec) : Bool := r.scheme == 1
def PairRec.cells (r : PairRec) : Nat := r.ncx * r.ncy * r.ncz

/-- LQ of a box edge (R291): Round(L × 2^20, RNE); 0 where it is not finite or not positive. -/
def boxLq (x : W32) : Nat :=
  match fp32.value x.toNat with
  | .fin neg m e => (roundInt .rne neg m (e + 20)).toNat
  | _ => 0

def lqOk (x : W32) : Bool := decide (1 ≤ boxLq x) && decide (boxLq x < 2 ^ 32)

/-- An operand of R302: a VA below 2^56, or a buffer operand, at a multiple of `n`. -/
def pairOpOk (va : Bool) (n x : Nat) : Bool := opOk (!va) x && (if va then x % n == 0 else opOff x % n == 0)

/-- Do two accumulator arrays share no byte? -/
def accApart (a na b nb : Nat) : Bool :=
  opId a != opId b || decide (opOff a + na ≤ opOff b) || decide (opOff b + nb ≤ opOff a)

/-- The offset of the first field that breaks its limits. -/
def pairBad (bs : List Byte) (ctx : Nat) : Option Nat :=
  let r := PairRec.ofBytes bs
  let grid := fun (n : Nat) => decide (3 ≤ n) && decide (n ≤ 1024)
  let cut := fun (x : W32) => decide (4 * r.rc2 < boxLq x ^ 2)
  let va := fun (i : Nat) => r.flags.testBit i
  firstBad [(0, decide (r.scheme ≤ 1)), (1, decide (-64 ≤ r.fscale) && decide (r.fscale ≤ 63)), (2, decide (r.flags < 8)),
    (4, recAt bs 4 2 == 0xFFFF || recAt bs 4 2 == ctx), (6, recAt bs 6 2 == 0), (8, grid r.ncx), (0xA, grid r.ncy),
    (0xC, grid r.ncz), (0xE, recAt bs 0xE 2 == 0), (0x10, decide (r.firstCell < r.cells)),
    (0x14, decide (1 ≤ r.nCells) && decide (r.firstCell + r.nCells ≤ r.cells)), (0x18, lqOk r.boxX), (0x1C, lqOk r.boxY),
    (0x20, lqOk r.boxZ), (0x24, decide (1 ≤ r.ni) && decide (r.ni < 2 ^ 24)),
    (0x28, decide (1 ≤ r.nj) && decide (r.nj < 2 ^ 24) && (!r.half || r.nj == r.ni)), (0x2C, recAt bs 0x2C 4 == 0),
    (0x30, decide (1 ≤ r.rc2) && cut r.boxX && cut r.boxY && cut r.boxZ), (0x38, pairOpOk (va 0) 16 r.iset),
    (0x40, pairOpOk (va 0) 16 r.jset && (!r.half || r.jset == r.iset)), (0x48, pairOpOk (va 1) 16 r.icell),
    (0x50, pairOpOk (va 1) 16 r.jcell && (!r.half || r.jcell == r.icell)), (0x58, pairOpOk (va 2) 64 r.table),
    (0x60, opOk true r.iacc),
    (0x68, if r.half then opOk true r.jacc && (r.jacc == r.iacc || accApart r.iacc (32 * r.ni) r.jacc (32 * r.nj))
           else r.jacc == 0),
    (0x70, recZero bs 0x70 80)]

/-- The operands that a job reads: whether a VA, the operand, its extent. -/
def PairRec.reads (r : PairRec) : List (Bool × Nat × Nat) :=
  [(r.flags.testBit 0, r.iset, 16 * r.ni), (r.flags.testBit 0, r.jset, 16 * r.nj), (r.flags.testBit 1, r.icell, 16 * r.cells),
    (r.flags.testBit 1, r.jcell, 16 * r.cells), (r.flags.testBit 2, r.table, 32832)]

/-- The accumulator buffers that a job holds: one, or two where they differ. -/
def PairRec.holds (r : PairRec) : List Nat :=
  opId r.iacc :: (if r.half && opId r.jacc != opId r.iacc then [opId r.jacc] else [])

/-! ### `pair` (R303) -/

/-- The checks of a buffer operand, in the order of R303 step 5. -/
def Block.pairBuf (b : Block) (x n : Nat) (write : Bool) : Option Stop :=
  let u := b.buf (opId x)
  let bad := bufBad (opId x) (opOff x)
  firstStop [need u.decl .bufState bad, need (decide (opOff x + n ≤ u.size)) .access bad, need (!u.isSealed) .access bad,
    if write then b.engWrite (opId x) (opOff x) else need (u.state != .empty) .bufState bad,
    need (u.fmt == 0) .formatMismatch bad]

def Block.pairBufs (b : Block) (r : PairRec) : Option Stop :=
  firstStop (r.reads.map (fun e => if e.1 then none else b.pairBuf e.2.1 e.2.2 false) ++
    [b.pairBuf r.iacc (32 * r.ni) true, if r.half then b.pairBuf r.jacc (32 * r.nj) true else none])

/-- The jobs in the queue of a quad's engine. -/
def State.pairQueue (s : State) (q : Nat) : List Job :=
  s.jobs.filter fun j => j.phase == .queued && quadOf j.die j.tile == q &&
    (match j.work with | .pair _ _ => true | _ => false)

def State.pairCheck (s : State) (a b : BitVec 6) : Option Stop :=
  let c := s.pre.sreg b
  let at_ := opBuf (s.pre.sreg a)
  let bs := s.bk.bufBytes at_.1 at_.2 192
  let q := quadOf s.bk.die s.bk.tile
  firstStop [ctlCheck c (fun n => n == 0), s.ctxCheck (ctlCtx c) .pair,
    need (s.boundQuad s.bk.pid s.bk.ctxn (ctlCtx c) == some q) .access (BitVec.ofNat 64 (ctlCtx c)),
    s.bk.recCheck at_.1 at_.2 192, (pairBad bs (ctlCtx c)).map (fun o => .fault .access (bufBad at_.1 (at_.2 + o))),
    s.bk.pairBufs (.ofBytes bs),
    await (s.retries s.bk.pid s.bk.ctxn || decide ((s.pairQueue q).length < 16))]

/-- `pair`: a release, whatever the answer (R150). -/
def execPair (_h : Hdr) (d a b : BitVec 6) (s : State) : Out := .next <|
  let c := s.pre.sreg b
  let at_ := opBuf (s.pre.sreg a)
  let r := PairRec.ofBytes (s.bk.bufBytes at_.1 at_.2 192)
  waveLevel s (s.pairCheck a b) fun s =>
    let s1 := s.engRelease (ctlScope c)
    if s.retries s.bk.pid s.bk.ctxn then s1.setW (s1.wv.setS d 0)
    else
      let s2 := { s1 with bk := r.holds.foldl Block.holdBuf s1.bk }.accept (ctlCtx c) (ctlScope c) (.pair r none)
      s2.setW (s2.wv.setS d (BitVec.ofNat 64 (s2.engAt s2.bk.ctxn (ctlCtx c)).issued))

/-! ### Operands of a running job -/

/-- The bases of the smallest pages that an extent spans. -/
def pageSteps (x n : Nat) : List Nat :=
  (List.range ((x + n - 1) / 2 ^ 17 + 1 - x / 2 ^ 17)).map (fun i => if i = 0 then x else (x / 2 ^ 17 + i) * 2 ^ 17)

/-- The parts of an extent, page by page: address and length. -/
def pageParts (x n : Nat) : List (Nat × Nat) :=
  (pageSteps x n).map (fun a => (a, min (x + n) ((a / 2 ^ 17 + 1) * 2 ^ 17) - a))

/-- Bytes of an operand: none where they are uncorrectable. -/
def State.pairBytes (s : State) (j : Job) (va : Bool) (x off n : Nat) : Option (List Byte) :=
  if va then
    (pageParts (x + off) n).foldl (fun acc p =>
      match acc, j.pin p.1 with
      | some bs, some e =>
        let (b, bad) := s.engBytes j.die (e.pa p.1) p.2
        if bad then none else some (bs ++ b)
      | _, _ => none) (some [])
  else if (s.block j.uid).bufMarked (opId x) (opOff x + off) n then none
  else some ((s.block j.uid).bufBytes (opId x) (opOff x + off) n)

/-- ERRADDR of a place of an operand. -/
def pairAddr (va : Bool) (x off : Nat) : W64 := if va then BitVec.ofNat 64 (x + off) else bufBad (opId x) (opOff x + off)

/-- The pages of the VA operands, or the statuses that they give (R304). -/
def State.pairPages (s : State) (j : Job) (r : PairRec) : List TlbE × List (Nat × W64) :=
  (r.reads.filter (·.1)).foldl (fun acc e =>
    (pageSteps e.2.1 e.2.2).foldl (fun (acc : List TlbE × List (Nat × W64)) (va : Nat) =>
      match s.jobPage j false va 1 with
      | .error c => (acc.1, acc.2 ++ [(c, BitVec.ofNat 64 va)])
      | .ok p =>
        let st := if leafKey p.leaf ≠ 0 then [(3, BitVec.ofNat 64 va)]
          else if leafFmt p.leaf ≠ 0 then [(4, BitVec.ofNat 64 va)] else []
        (if acc.1.contains p then acc.1 else acc.1 ++ [p], acc.2 ++ st)) acc) ([], [])

/-- Are the lines of every buffer operand present? -/
def State.pairLines (s : State) (j : Job) (r : PairRec) : Bool :=
  r.reads.all fun e => e.1 ||
    ((s.block j.uid).engRead (opId e.2.1) (opOff e.2.1) e.2.2 != some .wait)

/-! ### Kernel tables (R293, R294) -/

def tableMagic : Nat := 0x4B584C31

/-- Loads a job's table, or reuses the one held: the store after it, and a status (0 OK, 7, 10) with its address. -/
def State.loadTable (s : State) (j : Job) (r : PairRec) (e : PairEng) : PairEng × Nat × W64 :=
  let va := r.flags.testBit 2
  match s.pairBytes j va r.table 0 64 with
  | none => ({ e with storePid := none, header := [], coefs := [] }, 7, pairAddr va r.table 0)
  | some h =>
    if e.storePid = some j.pid ∧ e.header = h then (e, 0, 0)
    else
      let empty := { e with storePid := none, header := [], coefs := [] }
      match s.pairBytes j va r.table 64 32768 with
      | none => (empty, 7, pairAddr va r.table 64)
      | some cs =>
        if recAt h 0 4 = tableMagic ∧ recAt h 4 2 = 1 ∧ recZero h 6 10 = true ∧ sha384 cs = (h.drop 16).take 48 then
          ({ e with storePid := some j.pid, header := h, coefs := cs }, 0, 0)
        else (empty, 10, pairAddr va r.table 0)

/-! ### Cell lists (R288 to R290) -/

/-- A cell header. -/
structure CellHdr where
  start : Nat
  count : Nat
  skip : Bool
  ok : Bool
  deriving DecidableEq, Repr

def PairRec.cellX (r : PairRec) (c : Nat) : Nat := c % r.ncx
def PairRec.cellY (r : PairRec) (c : Nat) : Nat := c / r.ncx % r.ncy
def PairRec.cellZ (r : PairRec) (c : Nat) : Nat := c / (r.ncx * r.ncy)

/-- The neighbour of a cell at an offset (R289). -/
def PairRec.neighbour (r : PairRec) (c o : Nat) : Nat :=
  let step := fun (x d n : Nat) => (x + d + n - 1) % n
  step (r.cellX c) (o % 3) r.ncx + r.ncx * (step (r.cellY c) (o / 3 % 3) r.ncy + r.ncy * step (r.cellZ c) (o / 9) r.ncz)

/-- The offsets of a scheme. -/
def PairRec.offsets (r : PairRec) : List Nat := if r.half then (List.range 14).map (· + 13) else List.range 27

/-- The header of cell `c` in a list over a set of `n` particles; none where it is uncorrectable. -/
def State.cellHdr (s : State) (j : Job) (r : PairRec) (list n c : Nat) : Option CellHdr :=
  (s.pairBytes j (r.flags.testBit 1) list (16 * c) 16).map fun h =>
    { start := recAt h 0 4, count := recAt h 4 2, skip := (recAt h 0xC 2).testBit 0,
      ok := recAt h 6 2 == r.cellX c && recAt h 8 2 == r.cellY c && recAt h 0xA 2 == r.cellZ c &&
        decide (recAt h 0 4 + recAt h 4 2 ≤ n) && decide (recAt h 0xC 2 ≤ 1) && recAt h 0xE 2 == 0 }

/-- The i cells of a job. -/
def PairRec.iCells (r : PairRec) : List Nat := (List.range r.nCells).map (r.firstCell + ·)

/-- The headers that R303 reads: of the i cells, and both lists' of their 27 neighbours. One that cannot be read gives 7, before one
that is not consistent, 11 (R304). -/
def State.cellStatus (s : State) (j : Job) (r : PairRec) : Nat × W64 :=
  let chk := fun (list n c : Nat) =>
    match s.cellHdr j r list n c with
    | none => [(7, pairAddr (r.flags.testBit 1) list (16 * c))]
    | some h => if h.ok then [] else [(11, pairAddr (r.flags.testBit 1) list (16 * c))]
  worst (r.iCells.flatMap fun c => chk r.icell r.ni c ++ (List.range 27).flatMap fun o =>
    chk r.icell r.ni (r.neighbour c o) ++ chk r.jcell r.nj (r.neighbour c o))

/-- What stands next in the canonical order: a candidate, or a header that cannot be read: of cell `c`, or of the neighbour that index `i` meets at
offset `o`, with its ERRADDR. -/
inductive Cand where
  | pair (x : Cursor)
  | bad (c : Nat) (io : Option (Nat × Nat)) (addr : W64)
  deriving DecidableEq, Repr

/-- The candidates of a cell whose ICELL header does not say SKIP (R290); TAG is tested later. -/
def State.cellCands (s : State) (j : Job) (r : PairRec) (c : Nat) : List Cand :=
  match s.cellHdr j r r.icell r.ni c with
  | none => [.bad c none (pairAddr (r.flags.testBit 1) r.icell (16 * c))]
  | some h =>
    if h.skip then []
    else (List.range h.count).flatMap fun di => r.offsets.flatMap fun o =>
      let n := r.neighbour c o
      match s.cellHdr j r r.jcell r.nj n with
      | none => [.bad c (some (h.start + di, o)) (pairAddr (r.flags.testBit 1) r.jcell (16 * n))]
      | some g => ((List.range g.count).filter (fun dj => !r.half || o != 13 || decide (h.start + di < g.start + dj))).map
          (fun dj => .pair { c := c, i := h.start + di, o := o, j := g.start + dj, word := 0, side := 0 })

/-- Every candidate of a job in canonical order. -/
def State.candidates (s : State) (j : Job) (r : PairRec) : List Cand := r.iCells.flatMap (s.cellCands j r)

/-- Does a place of the canonical order hold a cursor? -/
def Cand.holds (a : Cand) (b : Cursor) : Bool :=
  match a with
  | .pair a => a.c == b.c && a.i == b.i && a.o == b.o && a.j == b.j
  | .bad c io _ => c == b.c && io.all (fun e => e == (b.i, b.o))

/-! ### One pair (R291 to R299) -/

/-- A particle. -/
structure Particle where
  pos : List Nat
  tag : Nat
  deriving DecidableEq, Repr

def State.particle (s : State) (j : Job) (r : PairRec) (set k : Nat) : Option Particle :=
  (s.pairBytes j (r.flags.testBit 0) set (16 * k) 16).map fun b => ⟨[recAt b 0 4, recAt b 4 4, recAt b 8 4], recAt b 12 4⟩

/-- Δ of one axis (R291). -/
def axisDiff (lq a b : Nat) : Int :=
  let d := (BitVec.ofNat 32 (a + 2 ^ 32 - b % 2 ^ 32)).toInt * (lq : Int)
  let m := ((d.natAbs + 2 ^ 31) / 2 ^ 32 : Nat)
  if d < 0 then -(m : Int) else m

/-- The three components of i minus j. -/
def PairRec.diffs (r : PairRec) (p q : Particle) : List Int :=
  [boxLq r.boxX, boxLq r.boxY, boxLq r.boxZ].zipIdx.map (fun e => axisDiff e.1 (p.pos.getD e.2 0) (q.pos.getD e.2 0))

def rsq (ds : List Int) : Nat := ds.foldl (fun a d => a + d.natAbs ^ 2) 0

/-- Rsym(n × 2^k) (R297). -/
def rsym (n k : Int) : Int :=
  if 0 ≤ k then n * 2 ^ k.toNat
  else
    let m := (n.natAbs + 2 ^ ((-k).toNat - 1)) / 2 ^ (-k).toNat
    if n < 0 then -(m : Int) else m

/-- Enum and Gnum of a squared distance (R295). -/
def tableEval (coefs : List Byte) (rc2 r2 : Nat) : Int × Int :=
  let u := r2 * 2 ^ 34 / rc2
  let m := u / 2 ^ 24
  let t : Int := (u % 2 ^ 24 : Nat)
  let c := fun (i : Nat) => signed32 (recAt coefs (32 * m + 4 * i) 4)
  let poly := fun (i : Nat) => c i * 2 ^ 72 + c (i + 1) * t * 2 ^ 48 + c (i + 2) * t ^ 2 * 2 ^ 24 + c (i + 3) * t ^ 3
  (poly 0, poly 4)

/-- What a pair adds: (qx, qy, qz, h). -/
def PairRec.contrib (r : PairRec) (coefs : List Byte) (ds : List Int) : List Int :=
  let (en, gn) := tableEval coefs r.rc2 (rsq ds)
  ds.map (fun d => rsym (gn * d) (r.fscale - 76)) ++ [rsym en (r.fscale - 65)]

/-- A word of an accumulator record. -/
def Block.accWord (b : Block) (x k w : Nat) : Int :=
  (BitVec.ofNat 64 (leNat (b.bufBytes (opId x) (opOff x + 32 * k + 8 * w) 8))).toInt

def Block.putAcc (b : Block) (x k w : Nat) (v : Int) : Block :=
  b.putBuf (opId x) (opOff x + 32 * k + 8 * w) (leBytes (BitVec.ofInt 64 v).toNat 8)

/-- The additions of a pair in order: array, record, word, side, amount. -/
def PairRec.adds (r : PairRec) (i j : Nat) (q : List Int) : List (Nat × Nat × Nat × Nat × Int) :=
  (q.zipIdx.map (fun e => (r.iacc, i, e.2, 0, e.1))) ++
    (if r.half then q.zipIdx.map (fun e => (r.jacc, j, e.2, 1, if e.2 = 3 then e.1 else -e.1)) else [])

/-- Applies the additions one after another, or answers the word and side of the first that leaves its range. -/
def Block.applyAdds (b : Block) : List (Nat × Nat × Nat × Nat × Int) → Except (Nat × Nat) Block
  | [] => .ok b
  | (x, k, w, side, v) :: rest =>
    let n := b.accWord x k w + v
    if n < -(2 ^ 63) ∨ n ≥ 2 ^ 63 then .error (w, side) else (b.putAcc x k w n).applyAdds rest

/-- How a run of candidates stands. -/
inductive PairEnd where
  | going
  | error (addr : W64)
  | sat (c : Cursor)
  deriving DecidableEq, Repr

/-- A run: the block with its accumulators, the counts, the end. -/
structure PairRun where
  b : Block
  pairs : Nat
  tested : Nat
  fin : PairEnd
  deriving DecidableEq, Repr

/-- One candidate. The one at the cursor of a resumed job is tested, and counts, again (R351). -/
def State.pairCand (s : State) (j : Job) (r : PairRec) (coefs : List Byte) (x : PairRun) (c : Cursor) : PairRun :=
  match s.particle j r r.iset c.i, s.particle j r r.jset c.j with
  | none, _ => { x with fin := .error (pairAddr (r.flags.testBit 0) r.iset (16 * c.i)) }
  | _, none => { x with fin := .error (pairAddr (r.flags.testBit 0) r.jset (16 * c.j)) }
  | some p, some q =>
    if p.tag = q.tag then x
    else
      let ds := r.diffs p q
      let y := { x with tested := x.tested + 1 }
      if rsq ds ≥ r.rc2 then y
      else
        match x.b.applyAdds (r.adds c.i c.j (r.contrib coefs ds)) with
        | .ok b1 => { y with b := b1, pairs := x.pairs + 1 }
        | .error (w, side) => { y with fin := .sat { c with word := w, side := side } }

/-- The next place of the order; a header that cannot be read ends the job where it stands (R304). -/
def State.pairStep (s : State) (j : Job) (r : PairRec) (coefs : List Byte) (x : PairRun) (a : Cand) : PairRun :=
  if x.fin ≠ .going then x
  else
    match a with
    | .pair c => s.pairCand j r coefs x c
    | .bad _ _ addr => { x with fin := .error addr }

/-- The rest of a job from its cursor. -/
def State.pairRun (s : State) (j : Job) (r : PairRec) (cur : Option Cursor) : PairRun :=
  let e := s.pairEng.get (quadOf j.die j.tile) {}
  let g := s.engAt j.ctxn j.handle
  let cs := s.candidates j r
  let todo := match cur with
    | none => cs
    | some c => cs.dropWhile (fun x => !x.holds c)
  todo.foldl (s.pairStep j r e.coefs) ⟨s.block j.uid, g.pairs, g.tested, .going⟩

/-! ### The events -/

/-- The core of a tile in its quad. -/
def coreInQuad (tile : Nat) : Nat := tile % 12 % 2 + 2 * (tile / 12 % 2)

/-- Is a job's turn: every earlier job of its context has retired (R285)? -/
def State.eligible (s : State) (j : Job) : Bool :=
  !s.jobs.any (fun i => i.ctxn == j.ctxn && i.handle == j.handle && decide (i.num < j.num))

/-- The job that an engine picks next (R285). -/
def State.pairPick (s : State) (q : Nat) : Option Job :=
  let last := (s.pairEng.get q {}).lastCore
  (List.range 4).findSome? fun i =>
    (s.pairQueue q).find? (fun j => s.eligible j && coreInQuad j.tile == (last + 1 + i) % 4)

/-- Does an engine run a job? -/
def State.pairBusy (s : State) (q : Nat) : Bool :=
  s.jobs.any fun j => j.phase == .started && quadOf j.die j.tile == q && (match j.work with | .pair _ _ => true | _ => false)

/-- PAIR_SAT waits for its block (R300). -/
def pairSatBad (j : Job) : W64 := BitVec.ofNat 64 (j.handle + j.num % 2 ^ 48 * 2 ^ 16)

def State.holdSat (s : State) (j : Job) : State :=
  let b := s.block j.uid
  s.setBlock j.uid { b with held := b.held ++ [⟨.pairSat, j.wid, pairSatBad j⟩] }

/-- A held PAIR_SAT of a job is withdrawn. -/
def State.dropSat (s : State) (j : Job) : State :=
  let b := s.block j.uid
  s.setBlock j.uid { b with held := b.held.filter (fun h => !(h.cause == .pairSat && h.ebad == pairSatBad j)) }

/-- Ends a pair job: its accumulators are held no longer. -/
def State.pairEnd (s : State) (j : Job) (r : PairRec) (status : Nat) (addr : W64) : State :=
  (s.setBlock j.uid (r.holds.foldl Block.unholdBuf (s.block j.uid))).retireJob j status addr

/-! ### `pair.resume` (R305, R306) -/

/-- Every accumulator word of `n` records scaled down. -/
def Block.rescale (b : Block) (x n shift : Nat) : Block :=
  (List.range n).foldl (fun b k => (List.range 4).foldl (fun (b : Block) w =>
    b.putAcc x k w (rsym (b.accWord x k w) (-(shift : Int)))) b) b

/-- The rescale of both arrays, once where they are one. -/
def Block.rescaleJob (b : Block) (r : PairRec) (shift : Nat) : Block :=
  let b1 := b.rescale r.iacc r.ni shift
  if r.half && r.jacc != r.iacc then b1.rescale r.jacc r.nj shift else b1

/-- The suspended job of a context. -/
def State.suspendedJob (s : State) (ctxn h : Nat) : Option (Job × PairRec × Option Cursor) :=
  (s.jobs.find? (fun j => j.ctxn == ctxn && j.handle == h && j.phase == .suspended)).bind fun j =>
    match j.work with
    | .pair r c => some (j, r, c)
    | _ => none

/-- The offset of the first field of a resume record that breaks its limits. -/
def State.resumeBad (s : State) (ctxn h : Nat) (bs : List Byte) : Option Nat :=
  let act := recAt bs 0 1
  let sh := recAt bs 1 1
  let fits := match s.suspendedJob ctxn h with
    | none => true
    | some (_, r, _) => decide (-64 ≤ r.fscale - sh)
  firstBad [(0, decide (act ≤ 1)), (1, decide (sh ≤ 63) && (act != 1 || sh == 0)), (2, recZero bs 2 6),
    (0x10, recZero bs 0x10 32), (1, fits)]

/-- `pair.resume`. A resumed job waits for its engine, as any job does. -/
def execPairResume (_h : Hdr) (d a b : BitVec 6) (s : State) : Out := .next <|
  let c := s.pre.sreg b
  let h := ctlCtx c
  let at_ := opBuf (s.pre.sreg a)
  let bs := s.bk.bufBytes at_.1 at_.2 48
  waveLevel s
    (firstStop [ctlCheck c (fun n => n == 0), s.ctxCheck h .pair, s.bk.recCheck at_.1 at_.2 48,
      (s.resumeBad s.bk.ctxn h bs).map (fun o => .fault .access (bufBad at_.1 (at_.2 + o)))]) fun s0 =>
    let s := s0.engRelease (ctlScope c)
    let put := fun (s : State) (n : Nat) => s.setW (s.wv.setS d (BitVec.ofNat 64 n))
    if s.retries s.bk.pid s.bk.ctxn then put s 0
    else
      match s.suspendedJob s.bk.ctxn h with
      | none => put s 0
      | some (j, r, cur) =>
        if j.num ≠ recAt bs 8 8 then put s 0
        else if recAt bs 0 1 = 1 then put ((s.dropSat j).pairEnd j r 9 0) j.num
        else
          let sh := recAt bs 1 1
          let r1 := { r with fscale := r.fscale - sh }
          let s1 := (s.dropSat j).setJob
            { j with phase := .queued, work := .pair r1 cur, deps := j.deps ++ s.jobDeps }
          put (s1.setBlock j.uid ((s1.block j.uid).rescaleJob r sh)) j.num

end Sys2Proof.Machine
end

