-- ==== Sys2Proof/Machine/Fabric.lean ====
section
/-! DEFINITION. Major 23 and `svc` (13): static routes and their instances, active messages, service batches. -/

namespace Sys2Proof.Machine

/-! ### Routes (R314 to R316) -/

def State.route (s : State) (pid n : Nat) : Route := s.routes.get (pid * 64 + n) {}
def State.setRoute (s : State) (pid n : Nat) (r : Route) : State := { s with routes := s.routes.set (pid * 64 + n) r {} }

/-- The virtual core of the issuing block. -/
def State.myDieid (s : State) : Nat := (s.dieidOf s.bk.pid s.bk.die).getD 0
def State.myVcid (s : State) : Nat := s.vcidAt s.bk.die s.bk.tile s.bk.pid

/-- The member of a route that a core is. -/
def Route.memberOf (r : Route) (dieid vcid : Nat) : Option Nat :=
  r.members.findIdx? (fun m => m.2.1 == dieid && m.2.2 == vcid)

/-! ### The mesh (R314, R418) -/

/-- The place of a logical tile on the global grid of 96 by 96 routers, and back. -/
def placeAt (die tile : Nat) : Nat × Nat := (12 * (die % 8) + tile % 12, 12 * (die / 8) + tile / 12)
def tileAt (p : Nat × Nat) : Nat × Nat := (p.1 / 12 + 8 * (p.2 / 12), p.1 % 12 + 12 * (p.2 % 12))

/-- The place one hop away: 0 toward lower y, 1 higher x, 2 higher y, 3 lower x. -/
def hopTo (p : Nat × Nat) (dir : Nat) : Option (Nat × Nat) :=
  match dir with
  | 0 => if p.2 = 0 then none else some (p.1, p.2 - 1)
  | 1 => if p.1 < 95 then some (p.1 + 1, p.2) else none
  | 2 => if p.2 < 95 then some (p.1, p.2 + 1) else none
  | _ => if p.1 = 0 then none else some (p.1 - 1, p.2)

/-- The neighbours of a place: in x before in y, those toward `q` first. -/
def neighbours (p q : Nat × Nat) : List (Nat × Nat) :=
  ((if q.1 < p.1 then [3, 1] else [1, 3]) ++ (if p.2 < q.2 then [2, 0] else [0, 2])).filterMap (hopTo p)

/-- The output of a router for a packet: that of its first valid matching detour, else in x until x agrees, then in y (R418). -/
def State.output (s : State) (p : Nat × Nat) (dst : Nat) (q : Nat × Nat) : Nat :=
  let (die, tile) := tileAt p
  let es := (List.range 16).map (fun e => s.reg (dieBase die + 0x81000 + 0x80 * tile + 8 * e))
  match es.find? (fun w => w.getLsbD 63 && (dst ^^^ field w 45 32) &&& field w 13 0 == 0) with
  | some w => field w 59 58
  | none => if p.1 < q.1 then 1 else if q.1 < p.1 then 3 else if p.2 < q.2 then 2 else 0

/-- Has a tile a live router? -/
def State.routerLive (s : State) (p : Nat × Nat) : Bool :=
  let (die, tile) := tileAt p
  s.tileKind die tile != 3 && s.tileKind die tile != 4

/-- Does a packet at a place reach its destination within `n` hops? -/
def State.routed (s : State) (dst : Nat) (q : Nat × Nat) : Nat → Nat × Nat → Bool
  | 0, p => p == q
  | n + 1, p => p == q || (match hopTo p (s.output p dst q) with
      | some r => (r == q || s.routerLive r) && s.routed dst q n r
      | none => false)

/-- The places at each distance from those of `cur`, over routers that a test admits, up to that of `src`. -/
def distances (ok : Nat × Nat → Bool) (src : Nat × Nat) : Nat → List (Nat × Nat) → List (Nat × Nat) → List (List (Nat × Nat))
  | 0, _, cur => [cur]
  | n + 1, prev, cur =>
    if cur.contains src || cur.isEmpty then [cur]
    else cur :: distances ok src n cur (((cur.flatMap (fun p => neighbours p src)).filter (fun p => ok p && !prev.contains p)).eraseDups)

/-- Down the distances to the nearest. -/
def descend (q : Nat × Nat) : List (List (Nat × Nat)) → Nat × Nat → List (Nat × Nat)
  | [], p => [p]
  | l :: r, p => p :: (((neighbours p q).find? l.contains).map (descend q r)).getD []

/-- A shortest path over routers that a test admits, with the moves in x first. -/
def shortest (ok : Nat × Nat → Bool) (src dst : Nat × Nat) : Option (List (Nat × Nat)) :=
  match (distances ok src 9216 [] [dst]).reverse with
  | l :: r => if l.contains src then some (descend dst r src) else none
  | [] => none

/-- The physical path that the chanter computes between two members of a partition's route: a shortest one in x then y over the
partition's own tiles and those of no partition, never over a hole or another's tile (R314, and R343's paths; otherwise which path
is assumption 102). -/
def State.meshPath (s : State) (pid : Nat) (src dst : Nat × Nat) : List (Nat × Nat) :=
  let own := fun (p : Nat × Nat) => (s.worldIn (tileAt p).1 (tileAt p).2 pid).isSome
  let open_ := fun (p : Nat × Nat) => own p || s.tileKind (tileAt p).1 (tileAt p).2 == 0 || s.tileKind (tileAt p).1 (tileAt p).2 == 2
  (shortest open_ src dst).getD [src, dst]

/-- The place of a member. -/
def State.memberPlace (s : State) (pid : Nat) (m : Nat × Nat × Nat) : Nat × Nat :=
  let die := (s.dieOf pid m.2.1).getD 0
  placeAt die ((s.tileOfVcid die pid m.2.2).getD 0)

/-- The routers (die, tile) on the paths between each member of a route and its parent. -/
def State.layPaths (s : State) (pid : Nat) (r : Route) : Route :=
  let up := fun (e : (Nat × Nat × Nat) × Nat) =>
    if e.2 = r.root then [s.memberPlace pid e.1]
    else s.meshPath pid (s.memberPlace pid e.1) (s.memberPlace pid (r.members.getD e.1.1 (0, 0, 0)))
  { r with paths := ((r.members.zipIdx.flatMap up).map tileAt).eraseDups }

/-! ### Values (R315, R321) -/

/-- The children of a member, ascending (R315). -/
def Route.children (r : Route) (m : Nat) : List Nat :=
  (List.range r.members.length).filter (fun c => c != r.root && (r.members.getD c (0, 0, 0)).1 == m)

/-- val(m) of R315, the tree at most `n` deep. -/
def Route.val (r : Route) (op : W32 → W32 → W32) (own : Nat → W32) : Nat → Nat → W32
  | 0, m => own m
  | n + 1, m => (r.children m).foldl (fun x c => op x (r.val op own n c)) (own m)

/-- The operations of `cred` (R321). -/
def credOp (op : Nat) (x y : W32) : W32 :=
  match op with
  | 0 => fadd32 x y
  | 1 => x + y
  | 2 => fmin32 x y
  | 3 => fmax32 x y
  | 4 => if y.toInt < x.toInt then y else x
  | _ => if x.toInt < y.toInt then y else x

/-! ### The fabric control word (R318) -/

def fcRoute (x : W64) : Nat := field x 57 52
def fcOp (x : W64) : Nat := field x 51 48
def fcLen (x : W64) : Nat := field x 47 32

def FabKind.hasSrc : FabKind → Bool
  | .crecv => false
  | _ => true
def FabKind.hasDst : FabKind → Bool
  | .csend => false
  | _ => true

/-- The checks of the control word. -/
def State.fabCtl (s : State) (k : FabKind) (x : W64) : Option Stop :=
  let r := s.route s.bk.pid (fcRoute x)
  firstStop [need (field x 63 58 == 0 && field x 31 19 == 0 && decide (ctlScope x ≤ 5) && decide (1 ≤ fcLen x) &&
      decide (fcLen x ≤ 16384) && (if k = .cred then decide (fcOp x ≤ 5) else fcOp x == 0) && r.state != .unset &&
      (k != .crecv || ctlCtx x == 0)) .access x,
    if k = .crecv then none else s.ctxCheck (ctlCtx x) .fabric,
    need (s.bk.die != 64 && (r.memberOf s.myDieid s.myVcid).isSome) .access x]

/-! ### Operands (R318): as one `kick` of two descriptors -/

/-- The operation's buffers as a byte copy. -/
def fabDesc (src dst : Option Nat) (len : Nat) : CopyDesc :=
  { op := 0, sfmt := 0, dfmt := 0, flags := src.isSome.toNat + 2 * dst.isSome.toNat, count0 := 4 * len,
    src := src.getD 0, dst := dst.getD 0, count1 := 1, count2 := 1, count3 := 1, str1 := 0, str2 := 0, str3 := 0, idx := 0 }

/-- The id and offset of a buffer operand, as one number. -/
def fabOpnd (x : W64) : Nat := field x 37 0

def Block.fabBuf (b : Block) (x : Option Nat) (len : Nat) : Option Stop :=
  match x with
  | none => none
  | some v => firstStop [b.engRange (opId v) (opOff v) (4 * len) 4,
      need (!(b.buf (opId v)).isSealed) .access (bufBad (opId v) (opOff v))]

def Block.fabFmt (b : Block) (x : Option Nat) : Option Stop :=
  match x with
  | none => none
  | some v => need ((b.buf (opId v)).fmt == 0) .formatMismatch (bufBad (opId v) (opOff v))

/-- The block with an operand's buffer taken as PLAIN: the operation moves LEN words whatever its FMT. -/
def Block.asPlain (b : Block) (x : Option Nat) : Block :=
  match x with
  | none => b
  | some v => b.setBuf (opId v) { b.buf (opId v) with fmt := 0 }

def Block.fabBufs (b : Block) (src dst : Option Nat) (len : Nat) : Option Stop :=
  firstStop [b.fabBuf src len, b.fabBuf dst len,
    match ((b.asPlain src).asPlain dst).applyDesc (fabDesc src dst len) with
    | .ok _ => none
    | .error x => some x,
    b.fabFmt src, b.fabFmt dst]

/-! ### Issue (R316 to R320, R322) -/

/-- The issuing core's operation takes its instance number and joins the instance. -/
def State.joinInstance (s : State) (k : FabKind) (x : W64) (src dst : Option Nat) (slot num : Nat) (dbuf : Buf) : State :=
  let n := fcRoute x
  let r := s.route s.bk.pid n
  let m := (r.memberOf s.myDieid s.myVcid).getD 0
  let o : FabOp := { pid := s.bk.pid, route := n, inst := r.counts.get m 0, member := m, kind := k, op := fcOp x,
                     len := fcLen x, scope := ctlScope x, uid := s.cur.uid, wid := s.cur.wid, src := src, dst := dst,
                     slot := slot, ctxn := s.bk.ctxn, handle := ctlCtx x, num := num, lanes := s.pre.live, dbuf := dbuf,
                     deps := s.jobDeps }
  { s.setRoute s.bk.pid n { r with counts := r.counts.set m (r.counts.get m 0 + 1) 0 } with fab := s.fab ++ [o] }

/-- A `csend` on a route of a single member completes at once, once what it releases is performed (R320). -/
def State.endAlone (s : State) (k : FabKind) (route : Nat) : State :=
  match s.fab.getLast? with
  | some o =>
    let alone := k == .csend && (s.route s.bk.pid route).members.length == 1 && s.depsDone o.deps &&
      s.fab.all (fun p => p == o || p.route != o.route || p.pid != o.pid)
    match s.job o.ctxn o.handle o.num with
    | some j =>
      if alone then ({ s with fab := s.fab.dropLast, bk := s.bk.copyOutDone (opId (o.src.getD 0)) }).retireJob j 0 0 else s
    | none => s
  | none => s

/-- The effects at issue on a READY route, with the job number (0 for a `crecv`), after the release of R150. -/
def State.fabIssue (s1 : State) (k : FabKind) (x : W64) (src dst : Option Nat) (slot : Nat) : State :=
  match s1.bk.applyDesc (fabDesc src dst (fcLen x)) with
  | .error _ => s1
  | .ok b1 =>
    let dbuf := match dst with
      | some v => b1.buf (opId v)
      | none => {}
    let s2 := { s1 with bk := b1 }
    let s3 := if k = .crecv then s2 else s2.accept (ctlCtx x) (ctlScope x) .fabric dbuf
    let s4 := s3.joinInstance k x src dst slot (if k = .crecv then 0 else (s3.engAt s3.bk.ctxn (ctlCtx x)).issued) dbuf
    s4.endAlone k (fcRoute x)

/-- `csend` and `cred`. -/
def fabJob (k : FabKind) (d b : BitVec 6) (src dst : Option Nat) (s : State) : State :=
  let x := s.pre.sreg b
  waveLevel s (firstStop [s.fabCtl k x, s.bk.fabBufs src dst (fcLen x)]) fun s =>
    let c := ctlCtx x
    let s := s.engRelease (ctlScope x)
    if s.retries s.bk.pid s.bk.ctxn then s.setW (s.wv.setS d 0)
    else
      let s1 :=
        if (s.route s.bk.pid (fcRoute x)).state = .failed then
          let s0 := s.accept c (ctlScope x) .fabric
          match s0.job s0.bk.ctxn c (s0.engAt s0.bk.ctxn c).issued with
          | some j => s0.retireJob j 9 0
          | none => s0
        else s.fabIssue k x src dst 0
      s1.setW (s1.wv.setS d (BitVec.ofNat 64 (s1.engAt s1.bk.ctxn c).issued))

def execCsend (_h : Hdr) (d a b : BitVec 6) (s : State) : Out := .next <|
  fabJob .csend d b (some (fabOpnd (s.pre.sreg a))) none s

def execCred (_h : Hdr) (d a b : BitVec 6) (s : State) : Out := .next <|
  fabJob .cred d b (some (fabOpnd (s.pre.sreg a))) (some (fabOpnd (s.pre.sreg (a + 1)))) s

/-- `crecv`: vD is marked empty in every live lane; on a FAILED route its status is fixed at once. -/
def execCrecv (_h : Hdr) (d a b : BitVec 6) (s : State) : Out := .next <|
  let x := s.pre.sreg b
  let D := s.pre.op d 1
  let dst := some (fabOpnd (s.pre.sreg a))
  waveLevel s
    (firstStop [boundsCheck s.pre [D], s.fabCtl .crecv x, s.bk.fabBufs none dst (fcLen x), await s.wv.freeSlot.isSome,
      await (!(lanesOf s.pre.live).any (fun L => dstWaits s.pre L D))]) fun s =>
    let failed := (s.route s.bk.pid (fcRoute x)).state == .failed
    let reqs := (lanesOf s.pre.live).map fun L =>
      let q : Req := { lane := L, val := if failed then some [9] else none }
      q
    let i := s.wv.freeSlot.getD 0
    let s1 := (s.setW (s.wv.openSlot .crecv D s.pre.live reqs)).engRelease (ctlScope x)
    if failed then s1 else s1.fabIssue .crecv x none dst i

/-! ### Completion of an instance (R319 to R323) -/

/-- The operations of an instance. -/
def State.instOps (s : State) (pid route inst : Nat) : List FabOp :=
  s.fab.filter (fun o => o.pid == pid && o.route == route && o.inst == inst)

/-- Is an instance well formed? -/
def wellFormedInst (r : Route) (ops : List FabOp) : Bool :=
  let o0 := ops.headD { pid := 0, route := 0, inst := 0, member := 0, kind := .csend, op := 0, len := 0, scope := 0, uid := 0,
                        wid := 0, src := none, dst := none, slot := 0, ctxn := 0, handle := 0, num := 0, lanes := 0, dbuf := {},
                        deps := [] }
  ops.all (fun o => o.len == o0.len) &&
    (ops.all (fun o => o.kind == .cred && o.op == o0.op) ||
      ops.all (fun o => if o.member = r.root then o.kind == .csend else o.kind == .crecv))

/-- Word `w` of an operation's source. -/
def State.fabWord (s : State) (o : FabOp) (w : Nat) : W32 :=
  match o.src with
  | none => 0
  | some v => BitVec.ofNat 32 (leNat ((s.block o.uid).bufBytes (opId v) (opOff v + 4 * w) 4))

/-- Word `w` that every destination of a well-formed instance receives. -/
def State.instWord (s : State) (r : Route) (ops : List FabOp) (w : Nat) : W32 :=
  let own := fun (m : Nat) => ((ops.find? (fun o => o.member == m)).map (fun o => s.fabWord o w)).getD 0
  match ops.head? with
  | some o =>
    if o.kind = .cred then r.val (credOp o.op) own r.members.length r.root else own r.root
  | none => 0

/-- Where a destination begins in the scratchpad, and the lines that it covers. -/
def FabOp.start (o : FabOp) : Nat := o.dbuf.offset + opOff (o.dst.getD 0)
def FabOp.lineCount (o : FabOp) : Nat := if o.dst.isNone then 0 else (o.start + 4 * o.len - 1) / 192 + 1 - o.start / 192

/-- Is everything of the destination there? -/
def FabOp.landed (o : FabOp) : Bool := decide (o.lineCount ≤ o.got)

/-- The next line of a destination arrives, of the words that `word` gives: presence, byte count, FULL (R123); a stale fill only writes its
bytes (R125). -/
def State.fillLine (s : State) (o : FabOp) (word : Nat → W32) : State :=
  let l := o.start / 192 + o.got
  let lo := max o.start (192 * l)
  let hi := min (o.start + 4 * o.len) (192 * l + 192)
  let bs := (List.range ((hi - lo) / 4)).flatMap (fun i => leBytes (word ((lo - o.start) / 4 + i)).toNat 4)
  let b := (s.block o.uid).putSpm lo bs
  let u := b.buf (opId (o.dst.getD 0))
  let s1 := { s with fab := s.fab.map (fun p => if p = o then { p with got := p.got + 1 } else p) }
  if u.fails ≠ o.dbuf.fails || u.offset ≠ o.dbuf.offset || u.state != .filling then s1.setBlock o.uid b
  else s1.setBlock o.uid (b.arrive (opId (o.dst.getD 0)) l (hi - lo))

/-- One participant's operation ends with a status. -/
def State.settleFab (s : State) (o : FabOp) (status : Nat) : State :=
  let s1 := match o.src with
    | some v => s.setBlock o.uid ((s.block o.uid).copyOutDone (opId v))
    | none => s
  let s2 := match o.dst with
    | none => s1
    | some v =>
      if status = 0 then s1
      else
        let u := (s1.block o.uid).buf (opId v)
        if u.fails = o.dbuf.fails ∧ u.offset = o.dbuf.offset then s1.setBlock o.uid ((s1.block o.uid).fillFailed (opId v))
        else s1
  match o.kind with
  | .crecv =>
    ((lanesOf o.lanes).foldl (fun s L => s.answer o.uid o.wid o.slot L [BitVec.ofNat 32 status]) s2).acquireFor o.uid o.wid
      o.lanes o.scope
  | _ =>
    match s2.job o.ctxn o.handle o.num with
    | some j => s2.retireJob j status 0
    | none => s2

/-- Every participant of an instance ends with one status, and the instance is gone. -/
def State.endInstance (s : State) (pid route inst status : Nat) : State :=
  let s1 := (s.instOps pid route inst).foldl (fun s o => s.settleFab o status) s
  { s1 with fab := s1.fab.filter (fun o => !(o.pid == pid && o.route == route && o.inst == inst)) }

/-- FABRIC_INSTANCE_COMPLETE, once every member has issued, every release is performed, and no earlier instance of the route is
incomplete: while a destination of a well-formed instance lacks a line, one line arrives at one of them, in an order that is free
(assumption 103); then the instance ends. No byte moves before, for an instance that is not well formed writes none (R319). -/
def execFabricInstanceComplete (pid route inst : Nat) (s : State) : Out := .next <|
  let r := s.route pid route
  let ops := s.instOps pid route inst
  let ready := (List.range r.members.length).all (fun m => ops.any (fun o => o.member == m)) && ops != [] &&
    ops.all (fun o => s.depsDone o.deps) &&
    !s.fab.any (fun o => o.pid == pid && o.route == route && decide (o.inst < inst))
  if !ready then s
  else if wellFormedInst r ops then
    let open_ := ops.filter (fun o => !o.landed)
    match open_[Config.pickStep s.picks % open_.length]? with
    | some o => ({ s with picks := s.picks + 1 }).fillLine o (s.instWord r ops)
    | none => s.endInstance pid route inst 0
  else s.endInstance pid route inst 10

/-- Aborts every incomplete instance of a route with a status (R323, R329). -/
def State.abortRoute (s : State) (pid route status : Nat) : State :=
  let insts := ((s.fab.filter (fun o => o.pid == pid && o.route == route)).map (·.inst)).eraseDups
  insts.foldl (fun s i => s.endInstance pid route i status) s

/-- A route fails (R323). -/
def State.failRoute (s : State) (pid route : Nat) : State :=
  (s.abortRoute pid route 9).setRoute pid route { s.route pid route with state := .failed }

/-! ### Active messages (R324, R325) -/

/-- The lanes that send. -/
def State.senders (s : State) (a : BitVec 6) : List Nat :=
  (lanesOf s.pre.live).filter (fun L => (s.pre.vreg (s.pre.vnum a + 2) L).getLsbD 31)

/-- `amsend`. -/
def execAmsend (_h : Hdr) (d a b : BitVec 6) (x : Bool) (s : State) : Out := .next <|
  let c := s.pre.sreg b
  let A := s.pre.op a 3 x
  let dest := fun (L : Nat) => s.pre.vreg (A.reg + 2) L
  let live := lanesOf s.pre.live
  waveLevel s
    (firstStop [boundsCheck s.pre [A], faultFirst (live.map (fun L => srcTest s.pre L A)),
      need (field c 63 60 == 0 && field c 31 19 == 0 && decide (ctlScope c ≤ 5)) .access c, s.ctxCheck (ctlCtx c) .fabric,
      firstStop ((s.senders a).map (fun L =>
        need ((dest L).toNat / 2 ^ 14 % 2 ^ 17 == 0) .access ((dest L).zeroExtend 64)))]) fun s =>
    let s1 := s.engRelease (ctlScope c)
    if s.retries s.bk.pid s.bk.ctxn then s1.setW (s1.wv.setS d 0)
    else
      let h := ctlCtx c
      let num := (s1.engAt s1.bk.ctxn h).issued + 1
      let msg := fun (L : Nat) =>
        let m : AmMsg :=
          { uid := s.cur.uid, wid := s.cur.wid, pid := s.bk.pid, dieid := (dest L).toNat / 2 ^ 8 % 64,
            vcid := (dest L).toNat % 256, ctxn := field c 47 36, gen := field c 59 48, inbox := field c 35 32,
            w0 := s.pre.vreg A.reg L, w1 := s.pre.vreg (A.reg + 1) L, from_ := BitVec.ofNat 32 (s.myVcid + s.myDieid * 256),
            scope := ctlScope c, deps := s1.jobDeps, jctxn := s.bk.ctxn, jhandle := h, jnum := num, lane := L,
            src := tileTag s.bk.die s.bk.tile, sdie := s.bk.die }
        m
      let s2 := s1.accept h (ctlScope c) .amsend
      let s3 := if s.senders a = [] then
          match s2.job s2.bk.ctxn h num with
          | some j => s2.retireJob j 0 0
          | none => s2
        else { s2 with ams := s2.ams ++ (s.senders a).map msg }
      s3.setW (s3.wv.setS d (BitVec.ofNat 64 num))

/-- A lane's message failed: the mask of failed lanes, and the status of the lowest. -/
def Job.failLane (j : Job) (lane status : Nat) : Job :=
  let m := j.errAddr ||| BitVec.ofNat 64 (2 ^ lane)
  let lowest := (List.range lane).all (fun L => !j.errAddr.getLsbD L)
  { j with errAddr := m, status := if lowest then status else j.status }

/-- The drop of a message that reaches no context (R313, R325): VC and WB are 0 (R312), SRC is the tile that sent it, and DST is
its core's tile, if it has one. -/
def State.dropMessage (s : State) (m : AmMsg) : State :=
  let d := m.dieid * 256 + m.vcid
  let dst := match (s.dieOf m.pid m.dieid).bind (fun die => (s.tileOfVcid die m.pid m.vcid).map (tileTag die)) with
    | some t => t
    | none => (Config.dropDst d m.ctxn).toNat
  let hdr := m.pid + 2 ^ 11 + dst * 2 ^ 18 + m.src * 2 ^ 32
  s.logDrop ((s.dieOf m.pid m.dieid).getD m.sdie) hdr (Config.dropReason d m.ctxn).toNat

/-- Where a message goes: its inbox's key and capacity, if its core and context are of the partition, the context is enabled, and
its generation is the context's. -/
def State.amDest (s : State) (m : AmMsg) : Option (Nat × Nat) :=
  match s.dieOf m.pid m.dieid with
  | none => none
  | some die =>
    if (s.tileOfVcid die m.pid m.vcid).isSome && s.ctxPid m.ctxn == some m.pid && s.ctxEnabled m.ctxn &&
        s.ctxGen m.ctxn == m.gen then
      some (inboxKey m.ctxn m.dieid m.vcid m.inbox, s.inboxCap die m.pid m.ctxn m.vcid m.inbox)
    else none

/-- AM_ARRIVAL: message `index` of those in flight reaches its core, after what its release covers is performed and after every
earlier message of its wave to that inbox. -/
def execAmArrival (index : Nat) (s : State) : Out := .next <|
  match s.ams[index]? with
  | none => s
  | some m =>
    let before := (s.ams.take index).any (fun e => e.uid == m.uid && e.wid == m.wid && e.pid == m.pid &&
      e.dieid == m.dieid && e.vcid == m.vcid && e.ctxn == m.ctxn && e.inbox == m.inbox)
    if before || !s.depsDone m.deps then s
    else
      let s1 := { s with ams := s.ams.eraseIdx index }
      let fail := fun (s : State) (st : Nat) =>
        match s.job m.jctxn m.jhandle m.jnum with
        | some j => s.setJob (j.failLane m.lane st)
        | none => s
      match s1.amDest m with
      | none => fail (s1.dropMessage m) 12
      | some (key, cap) =>
        let x : Msg := { w0 := m.w0, w1 := m.w1, from_ := m.from_, scope := m.scope, deps := m.deps }
        if (s1.inbox key).length < cap then (s1.setInbox key (s1.inbox key ++ [x])).deliver key 1 else fail s1 11

/-- AMSEND_JOB_RETIRE: every message of the job has arrived. -/
def execAmsendJobRetire (ctxn handle num : Nat) (s : State) : Out := .next <|
  match s.job ctxn handle num with
  | some j =>
    if j.work != .amsend || s.ams.any (fun m => m.jctxn == ctxn && m.jhandle == handle && m.jnum == num) then s
    else s.retireJob j j.status j.errAddr
  | none => s

/-! ### Service calls (R192, R330 to R332, R379, R404) -/

/-- The slots of a die's batch area, by the partition that owns it. -/
def State.slotBusy (s : State) (pid die n : Nat) : Bool := s.batches.any (fun b => b.pid == pid && b.die == die && b.slotN == n)

/-- The lowest-numbered free slot. -/
def State.freeBatch (s : State) (pid die : Nat) : Option Nat :=
  (List.range (s.svcn die pid)).find? (fun n => !s.slotBusy pid die n)

/-- The VA of a slot, in the drone context. -/
def State.batchVa (s : State) (pid die n : Nat) : Nat := field (s.preg die pid 0x20) 55 0 + 1024 * n

/-- Writes SVCSTAT: SEQ of the last batch, and the busy slots. -/
def State.putSvcStat (s : State) (pid die : Nat) : State :=
  match s.pslot die pid with
  | none => s
  | some n =>
    let busy := (s.batches.filter (fun b => b.pid == pid && b.die == die)).length
    s.setReg (partReg die n 0x30)
      (BitVec.ofNat 64 (s.batchSeq.get (die * 256 + pid) 0 % 2 ^ 32 * 2 ^ 32 + busy % 512))

/-- Writes bytes at a VA of a context as an agent of a die, performed there; an address that is not mapped takes none. -/
def State.writeVa (s : State) (die ctxn pid va : Nat) (bs : List Byte) : State :=
  match s.dieXlat die ctxn pid va with
  | none => s
  | some e => s.engWriteMem die 999 ctxn 2 va pid 0 (e.pa va) bs

/-- The batch record (R330). -/
def State.batchRecord (s : State) (sel : W64) (a : Nat) (m : Lanes) (seq : Nat) : List Byte :=
  let arg := fun (L : Nat) => (List.range 4).flatMap (fun i => leBytes (if laneIn m L then (s.pre.vreg (a + i) L).toNat else 0) 4)
  leBytes sel.toNat 8 ++ leBytes m.toNat 8 ++ leBytes (s.myVcid + s.myDieid * 256) 4 ++ leBytes s.bk.bid 4 ++
    leBytes s.cur.wid 2 ++ leBytes s.bk.ctxn 2 ++ leBytes s.bk.gen 2 ++ leBytes 0 2 ++ leBytes seq 8 ++ leBytes 0 24 ++
    allLanes.flatMap arg

/-- `svc`: the calling lanes form one batch, and a message tells the drone. -/
def execSvc (h : Hdr) (d a b : BitVec 6) (x : Bool) (s : State) : Out := .next <|
  let D := s.pre.op d 2
  let A := s.pre.op a 4 x
  let die := s.bk.die
  let pid := s.bk.pid
  perThread h s
    (fun L => firstStop [longCheck s L [D] [A],
      await ((s.drone die pid).isSome && (s.freeBatch pid die).isSome)]) fun m s =>
    if m = 0 then s
    else
      match s.drone die pid, s.freeBatch pid die with
      | some (ctxn, vcid), some n =>
        let seq := s.batchSeq.get (die * 256 + pid) 0 + 1
        let va := s.batchVa pid die n
        let e : Batch := { pid := pid, die := die, slotN := n, uid := s.cur.uid, wid := s.cur.wid,
                           wslot := s.wv.freeSlot.getD 0, ctxn := s.bk.ctxn, gen := s.bk.gen, lanes := m }
        let reqs := (lanesOf m).map fun L =>
          let q : Req := { lane := L }
          q
        let s1 := s.setW (s.wv.openSlot .svc D m reqs)
        let s2 := { s1 with batches := s1.batches ++ [e], batchSeq := s1.batchSeq.set (die * 256 + pid) seq 0 }
        let s3 := (s2.putSvcStat pid die).writeVa die ctxn pid va (s.batchRecord (s.pre.sreg b) A.reg m seq)
        let key := inboxKey ctxn s.myDieid vcid 15
        let w : Msg := { w0 := BitVec.ofNat 32 va, w1 := BitVec.ofNat 32 (va / 2 ^ 32),
                         from_ := BitVec.ofNat 32 (s.myVcid + s.myDieid * 256), scope := 2 }
        (s3.setInbox key (s3.inbox key ++ [w])).deliver key 1
      | _, _ => s

end Sys2Proof.Machine
end

