-- ==== Sys2Proof/Machine/Stream.lean ====
section
/-! DEFINITION. Major 21 (11 R265 to R271): the streamed forms `mloop` and `mconv`, with their start phase. -/

namespace Sys2Proof.Machine

/-! ### Operands -/

/-- The bytes of an element. -/
def MSrc.es (o : MSrc) : Nat := if o.fmt = 6 then 1 else elemSize o.fmt

/-- `ebad` of an operand's place. -/
def MSrc.bad (o : MSrc) (a : Nat) : W64 := if o.isBuf then bufBad o.id a else BitVec.ofNat 64 a

/-- Where an element comes from: a constant, bytes at a distance from the base, or a place in a Q4 block. -/
inductive MElem where
  | const (x : W32)
  | mem (rel : Nat)
  | q4 (blk row col : Nat)
  deriving DecidableEq, Repr

/-- An operand from its base word. -/
def msrc (isBuf : Bool) (x : W64) : MSrc :=
  if isBuf then { isBuf := true, id := field x 37 32, base := field x 31 0 } else { isBuf := false, base := x.toNat }

/-- What stops the access to the base (R267 step 2). -/
def State.baseCheck (s : State) (o : MSrc) : Option Stop :=
  if o.isBuf then s.bk.engRange o.id o.base 1 1 else (s.access s.who .engRead o.base 1).stop o.base

/-- The format of the operand's memory, 0 where it is PLAIN, and its geometry. -/
def State.memFmt (s : State) (o : MSrc) : Nat × Nat :=
  if o.isBuf then ((s.bk.buf o.id).fmt, (s.bk.buf o.id).geo)
  else
    match s.access s.who .engRead o.base 1 with
    | .ok x => (leafFmt x.leaf, leafGeo x.leaf)
    | _ => (0, 0)

/-- The operand with its effective format. -/
def State.withFmt (s : State) (o : MSrc) (named : Nat) : MSrc :=
  let f := s.memFmt o
  { o with pageFmt := f.1, pageGeo := f.2, named := named, fmt := if f.1 = 0 then named else f.1 }

/-- Is an element on a page with this leaf of the operand's effective format: the page's, or the named one on a PLAIN page (R111, R267)? For Q4
the page itself has the format and the geometry (R269). -/
def MSrc.fmtOk (o : MSrc) (leaf : W64) : Bool :=
  if o.fmt = 6 then leafFmt leaf == o.pageFmt && leafGeo leaf == o.pageGeo
  else (if leafFmt leaf = 0 then o.named else leafFmt leaf) == o.fmt

/-- The place of byte `a` of a page or a buffer: checks of one element of `n` bytes, which is read as by a plain load of every live
thread (R111, R268, R370). An element of another effective format than the base's raises FORMAT_MISMATCH (assumption 111). -/
def State.elemCheck (s : State) (o : MSrc) (a n : Nat) : Option Stop :=
  if o.isBuf then
    firstStop [need (decide (a + n ≤ (s.bk.buf o.id).size)) .access (bufBad o.id a),
      need (a % n == 0) .align (bufBad o.id a),
      need ((s.bk.buf o.id).state != .empty) .bufState (bufBad o.id a), need (!s.bk.bufMarked o.id a n) .dataError (bufBad o.id a)]
  else
    match s.access s.who .engRead a 1 with
    | .ok x => firstStop [need (decide (a + n ≤ 2 ^ 56)) .pageFault (BitVec.ofNat 64 a), need (o.fmtOk x.leaf) .formatMismatch (BitVec.ofNat 64 a),
        need (a % n == 0) .align (BitVec.ofNat 64 a), s.bpData ((lanesOf s.pre.live).headD 0) true false a n,
        need (!s.badRange x.pa n) .dataError (BitVec.ofNat 64 a)]
    | r => r.stop a

/-- The place of a code byte of a Q4 block, by unit or in a compact buffer (R88, R119); none where the buffer holds no such
block. -/
def q4CodeAt (o : MSrc) (size blk row col : Nat) : Option Nat :=
  let inBlk := row * 24 + col / 2
  if o.isBuf ∧ size % 131072 ≠ 0 then
    if blk < size / 1248 then some (blk * 1152 + inBlk) else none
  else
    let a := o.base + blk / 105 * 131072 + blk % 105 * 1152 + inBlk
    if o.isBuf ∧ a ≥ size then none else some a

/-- The places of the row and column scale bytes of a code byte. -/
def q4ScaleAt (o : MSrc) (size a col : Nat) : Nat × Nat :=
  let e := if o.isBuf then q4BufScales 0 size a else q4PageScales 0 a
  match e with
  | none => (0, 0)
  | some (r, c0, c1) => (r, if col % 2 = 0 then c0 else c1)

/-- The places of an element's bytes, each with its width; none where a buffer holds no such block. -/
def State.elemPlaces (s : State) (o : MSrc) (e : MElem) : Option (List (Nat × Nat)) :=
  let size := (s.bk.buf o.id).size
  match e with
  | .const _ => some []
  | .mem rel => some [((o.base + rel) % 2 ^ 64, o.es)]
  | .q4 blk row col =>
    (q4CodeAt o size blk row col).map fun a =>
      [(a, 1), ((q4ScaleAt o size a col).1, 1), ((q4ScaleAt o size a col).2, 1)]

/-- The checks of an element. A Q4 block that its buffer does not hold raises ACCESS with the base's place (R269; assumption 124). -/
def State.checkElem (s : State) (o : MSrc) (e : MElem) : Option Stop :=
  match s.elemPlaces o e with
  | none => some (.fault .access (o.bad o.base))
  | some ps => firstStop (ps.map (fun p => s.elemCheck o p.1 p.2))

/-! ### A stream: its operands, its dot group and its elements by step -/

/-- The checks of every element, step by step, A before B (R268): A in rows, B in increasing k. -/
def State.checkStream (s : State) (a b : MSrc) (ks n : Nat) (fa fb : Nat → Nat → Nat → MElem) : List (Option Stop) :=
  ((List.range n).flatMap fun st =>
    (allLanes.flatMap fun i => (List.range ks).map fun k => s.checkElem a (fa st i k)) ++
    ((List.range ks).flatMap fun k => allLanes.map fun j => s.checkElem b (fb st k j)))

/-- The elements of an operand of a stream. -/
def streamElems (ks n : Nat) (f : Nat → Nat → Nat → MElem) (isA : Bool) : List MElem :=
  (List.range n).flatMap fun st => allLanes.flatMap fun i => (List.range ks).map fun k => if isA then f st i k else f st k i

/-- Lines of FILLING buffers that an operand reads. -/
def State.streamLines (s : State) (o : MSrc) (es : List MElem) (t : Tab Bool) : Tab Bool :=
  let u := s.bk.buf o.id
  if !o.isBuf || u.state != .filling then t
  else es.foldl (fun t e => ((s.elemPlaces o e).getD []).foldl (fun (t : Tab Bool) p =>
    let (lo, hi) := u.span p.1 p.2
    (List.range (hi - lo)).foldl (fun (t : Tab Bool) i => if t.get (lo + i) false then t else t.set (lo + i) true false) t) t) t

/-- The pages that an operand reads, as far as they are translated. -/
def State.streamPins (s : State) (o : MSrc) (es : List MElem) (ps : List TlbE) : List TlbE :=
  if o.isBuf then ps
  else es.foldl (fun ps e => ((s.elemPlaces o e).getD []).foldl (fun (ps : List TlbE) p =>
    match s.tlbFind s.who p.1 with
    | some t => if ps.contains t then ps else ps ++ [t]
    | none => ps) ps) ps

/-- The wave's own stores that its core has not performed hold back its reads (R268). -/
def State.ownStores (s : State) : Bool :=
  s.writes.any (fun w => w.level == 0 && w.uid == s.cur.uid && w.wid == s.cur.wid)

/-- Reads one byte group of an operand as it stands now. -/
def State.readPlace (s : State) (o : MSrc) (p : Nat × Nat) : State × Nat :=
  if o.isBuf then (s, leNat (s.bk.bufBytes o.id p.1 p.2))
  else
    match s.access s.who .engRead p.1 p.2 with
    | .ok x =>
      let (s1, bs, _) := (s.recall x.pa p.2).readMem (s.view ((lanesOf s.pre.live).headD 0)) 0 x.pa p.2
      (s1, leNat bs)
    | _ => (s, 0)

/-- An element's word. -/
def State.readElem (s : State) (o : MSrc) (e : MElem) : State × W32 :=
  match e with
  | .const x => (s, x)
  | .mem rel =>
    let r := s.readPlace o ((o.base + rel) % 2 ^ 64, o.es)
    (r.1, BitVec.ofNat 32 r.2)
  | .q4 _ _ col =>
    match (s.elemPlaces o e).getD [] with
    | [c, r, k] =>
      let x := s.readPlace o c
      let y := x.1.readPlace o r
      let z := y.1.readPlace o k
      (z.1, q4Word y.2 z.2 (if col % 2 = 0 then x.2 % 16 else x.2 / 16))
    | _ => (s, 0)

/-- A fold that threads the state and keeps the results in order. -/
def mapState {α β : Type} (f : State → α → State × β) (s : State) (l : List α) : State × List β :=
  let r := l.foldl (fun (e : State × List β) x => let y := f e.1 x; (y.1, y.2 :: e.2)) (s, [])
  (r.1, r.2.reverse)

/-- The elements of every step, as the unit takes them: rows of A and columns of B. -/
def State.readStream (s : State) (a b : MSrc) (ks n : Nat) (fa fb : Nat → Nat → Nat → MElem) :
    State × List (List (List W32) × List (List W32)) :=
  mapState (fun s st =>
    let ra := mapState (fun s i => mapState (fun s k => s.readElem a (fa st i k)) s (List.range ks)) s allLanes
    let rb := mapState (fun s j => mapState (fun s k => s.readElem b (fb st k j)) s (List.range ks)) ra.1 allLanes
    (rb.1, ra.2, rb.2)) s (List.range n)

/-- What the lowest live lane newly observed, every live lane observed: each global element is loaded as if every live thread
made it (R268). -/
def State.shareObserved (s0 s : State) : State :=
  match lanesOf s.pre.live with
  | [] => s
  | L :: r =>
    let k := fun (L : Nat) => tkey s.cur.uid s.cur.wid L
    let new := (s.observed.get (k L) []).filter (fun e => !(s0.observed.get (k L) []).any (·.1 == e.1))
    if new = [] then s
    else { s with observed := r.foldl (fun t L =>
      t.upd (k L) [] (fun l => l ++ new.filter (fun e => !l.any (·.1 == e.1)))) s.observed }

/-! ### The start phase (R265) -/

/-- A wave's start phase is over: it issued, or it stopped. -/
def State.dropStart (s : State) (uid wid : Nat) : State :=
  { s with starts := s.starts.filter (fun p => !(p.uid == uid && p.wid == wid)) }

/-- Are all awaited lines present? A wave whose fill fails waits on till the lines arrive by another (assumption 123). -/
def StartPhase.ready (p : StartPhase) (b : Block) : Bool := p.lines.all (fun e => b.lineIn e.1)

/-- The start phase of the wave that issues. -/
def State.phase (s : State) : Option StartPhase :=
  s.starts.find? (fun p => p.uid == s.cur.uid && p.wid == s.cur.wid && p.pc == s.cur.pc)

/-- The start phase of the wave that issues takes a new form. -/
def State.putPhase (s : State) (p : StartPhase) : State :=
  let mine := fun (q : StartPhase) => q.uid == s.cur.uid && q.wid == s.cur.wid
  if s.starts.any mine then { s with starts := s.starts.map (fun q => if mine q then p else q) }
  else { s with starts := s.starts ++ [p] }

/-- What a wave's start phase has pinned stays mapped for it (R265): its pages are found before any entry of its quarter's TLB. -/
def State.withPins (s : State) (pins : List TlbE) : State := { s with tlb := pins ++ s.tlb }

/-- What `mloop` or `mconv` does in its start phase: the operands before their formats are known, the formats named, the
number of k in a dot group and of steps, the elements, and the checks of formats that come before those of elements. -/
structure StreamForm where
  a : MSrc
  b : MSrc
  fa : Nat
  fb : Nat
  ks : MSrc → Nat
  steps : Nat → Nat
  elemA : MSrc → Nat → Nat → Nat → Nat → MElem
  elemB : MSrc → Nat → Nat → Nat → Nat → MElem
  fmts : State → MSrc → MSrc → List (Option Stop)

/-- Every check that follows those of the bases, in order (R267). -/
def StreamForm.checks (f : StreamForm) (s : State) (a b : MSrc) : List (Option Stop) :=
  let k := f.ks a
  f.fmts s a b ++ s.checkStream a b k (f.steps k) (f.elemA a k) (f.elemB b k)

/-- An attempt of a wave in its start phase whose bases are checked: the checks go on from where they stood, and the pages
that were found are pinned; once all have passed the wave awaits the lines that it reads. -/
def State.phaseCheck (s : State) (f : StreamForm) (p : StartPhase) (a b : MSrc) : State :=
  let sp := s.withPins p.pins
  let k := f.ks a
  let ea := streamElems k (f.steps k) (f.elemA a k) true
  let eb := streamElems k (f.steps k) (f.elemB b k) false
  let cs := f.checks sp a b
  let i := p.passed + ((cs.drop p.passed).takeWhile Option.isNone).length
  let p1 := { p with ops := some (a, b), passed := i, pins := sp.streamPins b eb (sp.streamPins a ea p.pins) }
  match cs.getD i none with
  | some (.fault c e) => waveRaw (s.dropStart s.cur.uid s.cur.wid) (some (.fault c e)) id
  | some x => waveRaw (s.putPhase p1) (some x) id
  | none =>
    let s1 := (s.putPhase { p1 with checked := true, lines := s.streamLines b eb (s.streamLines a ea []) }).hold s.cur.lanes
    { s1 with cur := { s1.cur with acted := true } }

/-- An attempt of a wave in its start phase: the bases, then the rest. -/
def State.phaseBase (s : State) (f : StreamForm) (p : StartPhase) : State :=
  let sp := s.withPins p.pins
  match p.ops with
  | some (a, b) => s.phaseCheck f p a b
  | none =>
    let pins := sp.streamPins f.b [.mem 0] (sp.streamPins f.a [.mem 0] p.pins)
    match firstStop [sp.baseCheck f.a, sp.baseCheck f.b] with
    | some (.fault c e) => waveRaw (s.dropStart s.cur.uid s.cur.wid) (some (.fault c e)) id
    | some x => waveRaw (s.putPhase { p with pins := pins }) (some x) id
    | none => s.phaseCheck f { p with pins := pins } (sp.withFmt f.a f.fa) (sp.withFmt f.b f.fb)

/-- The wave issues once its phase has ended, an entry is free and its own stores are in its core: the elements are read
through the pinned pages. -/
def State.phaseIssue (s : State) (d : BitVec 3) (zero : Bool) (f : StreamForm) (p : StartPhase) : State :=
  match p.ops with
  | none => s.hold s.cur.lanes
  | some (a, b) =>
    if p.done && s.mqRoom && !(s.ownStores && !(a.isBuf && b.isBuf)) then
      let k := f.ks a
      let r := (s.withPins p.pins).readStream a b k (f.steps k) (f.elemA a k) (f.elemB b k)
      let s1 := (State.shareObserved s { r.1 with tlb := s.tlb }).dropStart s.cur.uid s.cur.wid
      (s1.enqueue d (.steps zero a.fmt b.fmt r.2) p.pins).countLive
    else s.hold s.cur.lanes

/-- A streamed form: `pre` are the checks that come before its start phase reads anything (R254), `shape` the record it reads
there; `form` says from the record what it does. Each check is made once (R254, R265). -/
def streamOp (s : State) (d : BitVec 3) (zero : Bool) (pre : Option Stop) (shape : List Byte) (form : List Byte → StreamForm) :
    State :=
  if s.cur.lanes != s.pre.live then s.hold s.cur.lanes
  else
    match s.phase with
    | some p => if p.checked then s.phaseIssue d zero (form p.shape) p else s.phaseBase (form p.shape) p
    | none =>
      match pre with
      | some x => waveRaw s (some x) id
      | none => s.phaseBase (form shape) { uid := s.cur.uid, wid := s.cur.wid, pc := s.cur.pc, shape := shape }

/-- STREAM_START_PHASE_END: a wave that has pinned its pages and made its checks, sees every line it reads present. -/
def execStreamStartPhaseEnd (uid wid : Nat) (s : State) : Out := .next
  { s with starts := s.starts.map (fun p =>
      if p.uid = uid ∧ p.wid = wid ∧ (p.checked && p.ready (s.block uid)) = true then { p with done := true } else p) }

/-! ### `mloop` (R267 to R269) -/

/-- The pairs of effective formats that a multiply accepts (R256). -/
def pairOk (fa fb : Nat) : Bool := (fa == fb && decide (1 ≤ fa) && decide (fa ≤ 6)) || (fa == 3 && fb == 4)

/-- What an operand's effective format or, for Q4, its geometry and base refuse (R267 steps 3 and 4, R269). -/
def fmtNamed (f : Nat) : Bool := decide (1 ≤ f) && decide (f ≤ 6)

/-- The geometry of a Q4 operand (R267 step 4, R269). -/
def MSrc.geoCheck (o : MSrc) : Option Stop :=
  if o.fmt ≠ 6 then none else need (o.pageFmt == 6 && o.pageGeo == 0) .formatMismatch (o.bad o.base)

/-- The base and the increment of a Q4 operand (R267, R269), which name no fault: ALIGN with the base, ACCESS with the increment (assumption
124). -/
def MSrc.q4Check (o : MSrc) (inc : W64) : Option Stop :=
  if o.fmt ≠ 6 then none
  else firstStop [need (if o.isBuf then o.base == 0 else o.base % 131072 == 0) .align (o.bad o.base), need (inc == 0) .access inc]

/-- The element of A or B of a step (`isB`). -/
def mloopElem (o : MSrc) (stride inc : W64) (ks : Nat) (isB : Bool) (st r c : Nat) : MElem :=
  if o.fmt = 6 then
    let kk := ks * st + (if isB then r else c)
    let blk := (stride.toNat + kk / 48) % 2 ^ 64
    if isB then .q4 blk (kk % 48) c else .q4 blk r (kk % 48)
  else .mem ((st * inc.toNat + r * stride.toNat + c * o.es) % 2 ^ 64)

/-- `mloop` from its six scalars and its control word. -/
def mloopForm (r : Nat → W64) (c : W64) : StreamForm :=
  { a := msrc (c.getLsbD 17) (r 0), b := msrc (c.getLsbD 18) (r 3), fa := field c 11 8, fb := field c 15 12,
    ks := fun a => mKs a.fmt, steps := fun _ => field c 7 0 + 1,
    elemA := fun a k => mloopElem a (r 1) (r 2) k false, elemB := fun b k => mloopElem b (r 4) (r 5) k true,
    fmts := fun _ a b => [need (fmtNamed a.fmt && fmtNamed b.fmt) .access c,
      need (pairOk a.fmt b.fmt) .formatMismatch (a.bad a.base), a.geoCheck, b.geoCheck, a.q4Check (r 2), b.q4Check (r 5)] }

/-- `mloop`. -/
def execMloop (_h : Hdr) (d : BitVec 3) (a b : BitVec 6) (s : State) : Out := .next <|
  let c := s.pre.sreg b
  streamOp s d (c.getLsbD 16) (firstStop [s.tileCheck d, need (field c 63 19 == 0) .access c]) []
    (fun _ => mloopForm (fun i => s.pre.sreg (a + BitVec.ofNat 6 i)) c)

/-! ### `mconv` (R270, R271) -/

/-- A shape record as fields by offset. -/
structure Shape192 where
  bytes : List Byte
  deriving DecidableEq, Repr

def Shape192.at_ (r : Shape192) (off n : Nat) : Nat := leNat ((r.bytes.drop off).take n)

/-- The field offsets whose limits a record breaks, in record order. -/
def Shape192.badFields (r : Shape192) : List Nat :=
  let lim := fun (off n lo hi : Nat) => if lo ≤ r.at_ off n ∧ r.at_ off n ≤ hi then [] else [off]
  let afmt := fun (off : Nat) => if r.at_ 0x1B 1 = 1 then lim off 1 0 0 else lim off 1 1 5
  lim 0 4 1 65535 ++ lim 4 4 1 65535 ++ lim 8 4 1 65535 ++ lim 0xC 4 1 65535 ++
    (List.range 6).flatMap (fun i => lim (0x10 + i) 1 1 16) ++ lim 0x1A 1 0 1 ++ lim 0x1B 1 0 1 ++
    afmt 0x1C ++ afmt 0x1D ++ lim 0x1E 1 0 3 ++ lim 0x1F 1 0 0 ++ lim 0x24 4 1 (2 ^ 32 - 1) ++ lim 0x60 96 0 0

/-- OH and OW, as integers. -/
def Shape192.out (r : Shape192) (vert : Bool) : Int :=
  let g := fun (a b n : Nat) => ((if vert then r.at_ a n else r.at_ b n : Nat) : Int)
  let size := g 8 0xC 4
  let filt := g 0x10 0x11 1
  let stride := g 0x12 0x13 1
  let dil := g 0x14 0x15 1
  let padA := g 0x16 0x18 1
  let padB := g 0x17 0x19 1
  (size + padA + padB - dil * (filt - 1) - 1).fdiv stride + 1

/-- The element of the input for output position `p` and index `kk` of K. -/
def Shape192.input (r : Shape192) (p kk : Nat) : MElem :=
  let ch := r.at_ 4 4
  let fH := r.at_ 0x10 1
  let fW := r.at_ 0x11 1
  let oh := (r.out true).toNat
  let ow := (r.out false).toNat
  if p ≥ r.at_ 0 4 * oh * ow ∨ kk ≥ ch * fH * fW then .const 0
  else
    let (c, fw, fh) :=
      if r.at_ 0x1A 1 = 0 then (kk % ch, kk / ch % fW, kk / (ch * fW)) else (kk / (fH * fW), kk % fW, kk / fW % fH)
    let h : Int := (p / ow % oh * r.at_ 0x12 1 : Nat) - (r.at_ 0x16 1 : Nat) + (fh * r.at_ 0x14 1 : Nat)
    let w : Int := (p % ow * r.at_ 0x13 1 : Nat) - (r.at_ 0x18 1 : Nat) + (fw * r.at_ 0x15 1 : Nat)
    if h < 0 ∨ h ≥ (r.at_ 8 4 : Nat) ∨ w < 0 ∨ w ≥ (r.at_ 0xC 4 : Nat) then .const (BitVec.ofNat 32 (r.at_ 0x20 4))
    else .mem ((p / (oh * ow) * r.at_ 0x30 8 + h.toNat * r.at_ 0x38 8 + w.toNat * r.at_ 0x40 8 + c * r.at_ 0x48 8) % 2 ^ 64)

/-- A padding constant holds the low bits of the input format alone. -/
def padTo (es : Nat) : MElem → MElem
  | .const x => .const (BitVec.ofNat 32 (x.toNat % 2 ^ (8 * es)))
  | e => e

/-- What FMTSRC asks of an operand (R270). -/
def Shape192.fmtSrcCheck (r : Shape192) (o : MSrc) (named : Nat) : Option Stop :=
  need (if r.at_ 0x1B 1 = 1 then o.pageFmt != 0 else o.pageFmt == 0 || o.pageFmt == named) .formatMismatch (o.bad o.base)

/-- `K` of R271. -/
def Shape192.k (r : Shape192) : Nat := r.at_ 4 4 * r.at_ 0x10 1 * r.at_ 0x11 1

/-- `mconv` from its shape record and its control word; `bad` is `ebad` of a field of the record. -/
def Shape192.form (r : Shape192) (c : W64) (bad : Nat → W64) : StreamForm :=
  { a := msrc (r.at_ 0x1E 1 % 2 == 1) (BitVec.ofNat 64 (r.at_ 0x28 8)), b := msrc (r.at_ 0x1E 1 / 2 == 1) (BitVec.ofNat 64 (r.at_ 0x50 8)),
    fa := r.at_ 0x1C 1, fb := r.at_ 0x1D 1, ks := fun a => mKs a.fmt, steps := fun k => (r.k + k - 1) / k,
    elemA := fun a ks st i k => padTo a.es (r.input (field c 31 0 + i) (st * ks + k)),
    elemB := fun b ks st k j =>
      let oc := field c 47 32 + j
      if st * ks + k ≥ r.k ∨ oc ≥ r.at_ 0x24 4 then .const 0
      else .mem (((st * ks + k) * r.at_ 0x58 8 + oc * b.es) % 2 ^ 64),
    fmts := fun _ a b => [r.fmtSrcCheck a (r.at_ 0x1C 1), r.fmtSrcCheck b (r.at_ 0x1D 1),
      need (pairOk a.fmt b.fmt && a.fmt != 6) .formatMismatch (a.bad a.base),
      need (decide ((r.k + mKs a.fmt - 1) / mKs a.fmt ≤ 256)) .access (bad 4)] }

/-- `mconv`. The record is read once, at the start of the start phase (R270). -/
def execMconv (_h : Hdr) (d : BitVec 3) (a b : BitVec 6) (s : State) : Out := .next <|
  let at_ := opBuf (s.pre.sreg a)
  let c := s.pre.sreg b
  let bytes := s.bk.bufBytes at_.1 at_.2 192
  let r : Shape192 := ⟨bytes⟩
  let bad := fun (off : Nat) => bufBad at_.1 (at_.2 + off)
  streamOp s d (c.getLsbD 48)
    (firstStop [s.tileCheck d, need (field c 63 49 == 0) .access c, s.bk.engRange at_.1 at_.2 192 48,
      s.bk.engRead at_.1 at_.2 192, need (!s.bk.bufMarked at_.1 at_.2 192) .dataError (bad 0), (r.badFields.head?).map (fun off => .fault .access (bad off)),
      need (decide (1 ≤ r.out true) && decide (1 ≤ r.out false)) .access (bad 8)]) bytes
    (fun bs => Shape192.form ⟨bs⟩ c bad)

end Sys2Proof.Machine
end

