-- ==== Sys2Proof/Machine/Launch.lean ====
section
/-! DEFINITION. Launch records and where blocks stand (02 R30 to R35, 16 R364, 18 R400 to R402): a record's fields and checks,
the room of a core, the image area, the start of a block. -/

namespace Sys2Proof.Machine

/-! ### Reads by a dispatcher (R400) -/

/-- A byte read through a context at a level: none where a check of R111 fails or the data is uncorrectable. -/
def State.ctxByte (s : State) (die ctxn pid : Nat) (level : Level) (va : Nat) : Option Byte :=
  if va ≥ 2 ^ 56 then none
  else
    match s.dieXlat die ctxn pid va with
    | none => none
    | some e =>
      let w : Who := ⟨die, 999, 4, ctxn, pid, level⟩
      let r := (s.recall (e.pa va) 1).readByte (engView die) 0 (e.pa va)
      if s.permits w .load e.leaf (e.pa va) && (fmtCheck .load e.leaf va).isNone && !r.bad then some r.byte else none

/-- Bytes read so, from a VA up. -/
def State.ctxBytes (s : State) (die ctxn pid : Nat) (level : Level) (va n : Nat) : Option (List Byte) :=
  (List.range n).mapM (fun i => s.ctxByte die ctxn pid level (va + i))

/-! ### The record (R30) -/

def LRec.ofBytes (bs : List Byte) : LRec :=
  let attr := recAt bs 0x28 4
  { entry := recAt bs 0 8, args := recAt bs 8 8, grid := recAt bs 0x10 4, waves := recAt bs 0x14 1, acc := recAt bs 0x15 1,
    vregs := recAt bs 0x16 2, spmb := recAt bs 0x18 4, nbuf := recAt bs 0x1C 1, bdt := recAt bs 0x20 8,
    det := attr.testBit 0, sealedFlow := attr.testBit 1, prio := attr / 4 % 4, split := attr.testBit 4,
    stctx := recAt bs 0x2C 2, stflg := recAt bs 0x2E 2 % 2 == 1, stval := recAt bs 0x30 8, cpctx := recAt bs 0x38 2,
    cpflg := recAt bs 0x3A 2 % 2 == 1, cpinc := recAt bs 0x3C 4, seed := recW bs 0x40, tvt := recAt bs 0x48 8 }

/-- Are the reserved fields of a record zero? -/
def recReserved (bs : List Byte) : Bool :=
  recZero bs 0x1D 3 && decide (recAt bs 0x28 4 < 32) && decide (recAt bs 0x2E 2 < 2) && decide (recAt bs 0x3A 2 < 2) &&
    recZero bs 0x50 112

/-- Is BDT consistent with NBUF? -/
def LRec.bdtOk (r : LRec) : Bool :=
  if r.nbuf = 0 then r.bdt == 0
  else decide (r.nbuf ≤ 64) && r.bdt != 0 && decide (r.bdt < 2 ^ 56) && r.bdt % 48 == 0

/-- The entries of the buffer declaration table, 48 bytes each; none where the table cannot be read. -/
def State.bufTable (s : State) (die ctxn pid : Nat) (level : Level) (r : LRec) : Option (List (List Byte)) :=
  if !r.bdtOk then none
  else (List.range r.nbuf).mapM (fun i => s.ctxBytes die ctxn pid level (r.bdt + 48 * i) 48)

/-- Are the reserved fields of a table entry zero (R118)? -/
def entryReserved (bs : List Byte) : Bool := decide (recAt bs 0xA 2 < 8) && recZero bs 0xE 34

def Buf.ofBytes (bs : List Byte) : Buf := Buf.ofWords (recW bs 0) (recW bs 8)

/-- Do no two entries cover a common line (R118)? -/
def noOverlap : List Buf → Bool
  | [] => true
  | u :: r => r.all (fun v => !u.overlaps v) && noOverlap r

/-! ### The room of a core (R22, R34, R115) -/

/-- What stands on the cores of a die: waves and accumulator tiles by quarter (key 4 tile + q), scratchpad bytes by world of a
tile (key 2 tile + world). -/
structure Occ where
  waves : Tab Nat := []
  acc : Tab Nat := []
  spm : Tab Nat := []
  deriving DecidableEq, Repr

/-- The weight of a grade (R22), in halves. -/
def gradeWeight (g : Nat) : Nat := if g = 4 then 2 else if g = 0 then 0 else 1

/-- Adds a block's waves, one quarter each, and its allotment. -/
def Occ.add (o : Occ) (tile world acc spmb : Nat) (qs : List Nat) : Occ :=
  { waves := qs.foldl (fun t q => t.upd (4 * tile + q) 0 (· + 1)) o.waves,
    acc := qs.foldl (fun t q => t.upd (4 * tile + q) 0 (· + acc)) o.acc, spm := o.spm.upd (2 * tile + world) 0 (· + spmb) }

/-- Does a block stand on its core? -/
def Block.standing (b : Block) : Bool := b.resident && b.state != .ended && b.state != .lost

/-- The occupancy of a die. -/
def State.occ (s : State) (die : Nat) : Occ :=
  s.uids.foldl (fun o u =>
    let b := s.block u
    if b.standing && b.die == die then
      o.add b.tile ((s.worldIn die b.tile b.pid).getD 0) ((b.waves.head?.map (·.accN)).getD 0) b.spmb (b.waves.map (·.quarter))
    else o) {}

/-- Scratchpad bytes of a world on a tile (R115); the banks of a split tile's worlds are the chanter's choice. -/
def State.spmRoom (s : State) (die tile world : Nat) : Nat :=
  if s.fld (splitReg die tile) 23 20 = 0 then 1048576
  else
    let n := 1 + Config.splitBanks die tile % 15
    65536 * (if world = 0 then n else 16 - n)

/-- The quarters of a core that a partition may use. -/
def State.coreQuarters (s : State) (die tile pid : Nat) : List Nat :=
  (s.quartersOf die tile pid).filter (fun q => s.grade die tile q != 0)

def Occ.roomFor (o : Occ) (tile acc n q : Nat) : Bool :=
  decide (o.waves.get (4 * tile + q) 0 + n ≤ 32) && decide (o.acc.get (4 * tile + q) 0 + n * acc ≤ 8)

/-- The score of a quarter (R402), in halves. -/
def State.quarterScore (s : State) (o : Occ) (die tile q : Nat) : Nat :=
  gradeWeight (s.grade die tile q) * (32 - o.waves.get (4 * tile + q) 0)

/-- The first of the greatest by a measure. -/
def bestBy (f : Nat → Nat) : List Nat → Option Nat
  | [] => none
  | x :: r =>
    match bestBy f r with
    | none => some x
    | some y => if f x < f y then some y else some x

/-- Inserts a number behind those of equal or greater weight. -/
def insertDown (f : Nat → Nat) (x : Nat) : List Nat → List Nat
  | [] => [x]
  | y :: r => if f y < f x then x :: y :: r else y :: insertDown f x r

/-- Deals `n` waves over quarters in turn, from place `i` on, each taking one while it has room (R402). -/
def dealWaves (o : Occ) (tile acc : Nat) (qs : List Nat) : Nat → Nat → List Nat → Option (List Nat)
  | _, 0, out => some out.reverse
  | i, n + 1, out =>
    let cnt := fun (q : Nat) => (out.filter (· == q)).length
    let turn := (List.range qs.length).map (fun k => qs.getD ((i + k) % qs.length) 0)
    match turn.find? (fun q => o.roomFor tile acc (cnt q + 1) q) with
    | none => none
    | some q => dealWaves o tile acc qs (qs.idxOf q + 1) n (q :: out)

/-- The quarter of each wave of a block on a core, if the core can hold the block (R34, R402). -/
def State.fitOn (s : State) (o : Occ) (die tile pid : Nat) (r : LRec) : Option (List Nat) :=
  match s.worldIn die tile pid with
  | none => none
  | some w =>
    let qs := s.coreQuarters die tile pid
    if o.spm.get (2 * tile + w) 0 + r.spmb > s.spmRoom die tile w then none
    else if r.split then
      dealWaves o tile r.acc (qs.foldl (fun l q => insertDown (fun q => gradeWeight (s.grade die tile q)) q l) []) 0 r.waves []
    else
      (bestBy (s.quarterScore o die tile) (qs.filter (o.roomFor tile r.acc r.waves))).map (fun q => List.replicate r.waves q)

/-- The score of a core (R402), in halves. -/
def State.coreScore (s : State) (o : Occ) (die tile pid : Nat) : Nat :=
  (s.quartersOf die tile pid).foldl (fun n q => n + s.quarterScore o die tile q) 0

/-- The core that a block goes to, with its quarters: the greatest score, then the lower `vcid` (R402). Tiles in `shut` hold nothing
new. -/
def State.bestCore (s : State) (o : Occ) (die pid : Nat) (shut : List Nat) (r : LRec) : Option (Nat × List Nat) :=
  let ts := (s.tilesOf die pid).filter (fun t => !shut.contains t && (s.fitOn o die t pid r).isSome)
  let byVcid := ts.foldl (fun l t => insertDown (fun t => 255 - s.vcidAt die t pid) t l) []
  match bestBy (fun t => s.coreScore o die t pid) byVcid with
  | none => none
  | some t => (s.fitOn o die t pid r).map (fun qs => (t, qs))

/-- Places for `n` blocks of one record at once (R35). -/
def State.gang (s : State) (o : Occ) (die pid : Nat) (shut : List Nat) (r : LRec) : Nat → Option (List (Nat × List Nat))
  | 0 => some []
  | n + 1 =>
    match s.bestCore o die pid shut r with
    | none => none
    | some (t, qs) =>
      (s.gang (o.add t ((s.worldIn die t pid).getD 0) r.acc r.spmb qs) die pid shut r n).map (fun l => (t, qs) :: l)

/-- A die holds at most 144 · 128 waves. -/
def State.gangOf (s : State) (o : Occ) (die pid : Nat) (shut : List Nat) (r : LRec) (n : Nat) : Option (List (Nat × List Nat)) :=
  if n > 18432 then none else s.gang o die pid shut r n

/-! ### The checks of R31 -/

/-- The first failing code of R31 for a record of a partition's launch on a die, or 0; with the buffers that its table declares. -/
def State.recCode (s : State) (die pid ctxn : Nat) (level : Level) (bs : List Byte) : Nat × List Buf :=
  let r := LRec.ofBytes bs
  let table := s.bufTable die ctxn pid level r
  let entries := (table.getD [])
  let bufs := entries.map Buf.ofBytes
  let okHandle := fun (n : Nat) => (s.engEntry ctxn n).isSome
  let sealedOk := fun (u : Buf) => !u.isSealed || ((s.keysOf pid).contains u.key && (s.sealed pid || s.ctxSealimg ctxn))
  let shape := decide (1 ≤ r.waves) && decide (r.waves ≤ 32) && decide (r.acc ≤ 8)
  let checks : List (Nat × Bool) :=
    [(1, recReserved bs && (!r.det || s.feature 0) && entries.all entryReserved),
     (2, decide (r.entry < 2 ^ 56) && r.entry % 12 == 0 && decide (r.args < 2 ^ 56) && r.args % 8 == 0),
     (3, r.grid != 0), (4, decide (1 ≤ r.waves) && decide (r.waves ≤ 32)),
     (5, decide (16 ≤ r.vregs) && decide (r.vregs ≤ 1024) && r.vregs % 16 == 0), (6, decide (r.acc ≤ 8)),
     (7, decide (r.spmb ≤ 1048576) && r.spmb % 192 == 0),
     (8, table.isSome && bufs.all (fun u => u.entryOk r.spmb (s.feature 3)) && noOverlap bufs),
     (9, !shape || (s.bestCore {} die pid [] r).isSome),
     (10, !r.det || (s.gangOf {} die pid [] r r.grid).isSome),
     (11, !s.sealed pid || r.sealedFlow),
     (12, (!r.stflg || okHandle r.stctx) && (!r.cpflg || okHandle r.cpctx) && (r.cpflg == (r.cpinc != 0))),
     (13, r.tvt != 0 && decide (r.tvt < 2 ^ 56) && r.tvt % 192 == 0), (14, bufs.all sealedOk)]
  ((firstBad checks).getD 0, bufs)

/-! ### The image area (R364 to R366) -/

/-- PB of the block image. -/
def presenceBytes (spmb : Nat) : Nat := 192 * ((spmb + 294911) / 294912)

/-- Bytes of a block image, and of a wave image. -/
def blockImageSize (spmb : Nat) : Nat := 0xCC0 + presenceBytes spmb + spmb
def feBytes (vregs : Nat) : Nat := 192 * ((vregs + 23) / 24)
def waveImageSize (vregs acc : Nat) : Nat := 0x1680 + feBytes vregs + 192 * vregs + 9216 * acc + 512

/-- Bytes that a block of a record takes in the area: its block image, then its wave images. -/
def LRec.imageBytes (r : LRec) : Nat := blockImageSize r.spmb + r.waves * waveImageSize r.vregs r.acc

/-- Bytes that a block holds. -/
def Block.imageBytes (b : Block) : Nat :=
  let w := b.waves.headD {}
  blockImageSize b.spmb + b.waves.length * waveImageSize w.vregs w.accN

/-- Is a reply of a wave still to come (R70)? -/
def Wave.repliesDue (w : Wave) : Bool := w.slots.any (fun e => e.2.lanes != 0 || !e.2.reqs.isEmpty)

/-- Does a block still hold its images: it has not ended, or a reply of a wave is due (R70)? -/
def Block.holdsImage (b : Block) : Bool := b.kind != .rim b.tile && (b.state != .ended || b.waves.any Wave.repliesDue)

/-- The images of a context, as first address and end. -/
def State.images (s : State) (ctxn : Nat) : List (Nat × Nat) :=
  (s.uids.filter (fun u => (s.block u).ctxn == ctxn && (s.block u).holdsImage)).map
    (fun u => ((s.block u).imgAt, (s.block u).imgAt + (s.block u).imageBytes))

/-- The lowest room of `n` bytes in a context's image area, at a multiple of 8 (assumption 17). -/
def State.imageRoom (s : State) (ctxn n : Nat) : Option Nat :=
  let base := field (s.ctxWord 0 ctxn 1) 55 12 * 4096
  let top := base + (s.ctxWord 0 ctxn 2).toNat
  let used := s.images ctxn
  let free := fun (a : Nat) => decide (a + n ≤ top) && used.all (fun e => decide (a + n ≤ e.1) || decide (e.2 ≤ a))
  let starts := (base :: (used.map (fun e => (e.2 + 7) / 8 * 8)).filter (fun a => decide (base ≤ a)))
  (starts.filter free).foldl (fun m a => match m with
    | none => some a
    | some b => some (min a b)) none

/-! ### The start of a block (R33) -/

/-- The free slots of the active set of a quarter (R36). -/
def State.freeSlots (s : State) (die tile q : Nat) : List Nat :=
  (List.range 8).filter fun n => !s.uids.any fun u =>
    let b := s.block u
    b.standing && b.die == die && b.tile == tile && b.waves.any (fun w => w.quarter == q && w.active && !w.ended && w.aslot == n)

/-- The active slot of each wave placed on the quarters `qs` (R36 leaves open which waves of a new block start in the active set: the
quarter's free slots go to them in `wid` order, and the others start pending, ready from that clk; assumption 95). -/
def State.dealSlots (s : State) (die tile : Nat) (qs : List Nat) : List (Option Nat) :=
  qs.zipIdx.map fun e => (s.freeSlots die tile e.1)[((qs.take e.2).filter (· == e.1)).length]?

/-- A wave takes an active slot from now, or is pending and ready from now. -/
def Wave.enter (w : Wave) (slot : Option Nat) (now : Nat) : Wave :=
  { w with active := slot.isSome, aslot := slot.getD 0, heldSince := now, readyLast := false,
           readySince := if slot.isSome then none else some now }

/-- A wave of a launch in its initial state. -/
def Launch.wave (l : Launch) (wid q : Nat) (slot : Option Nat) (now : Nat) : Wave :=
  let w : Wave := { wid := wid, vregs := l.rcd.vregs, accN := l.rcd.acc, live := fullMask, seed := l.rcd.seed, quarter := q }
  ((((w.setS 1 (BitVec.ofNat 64 l.rcd.args)).setS 2 l.s2).setS 3 l.s3).setS 4 l.s4).setPcs fullMask l.rcd.entry |>.enter slot now

/-- The waves of a block on quarters of a core: 8 of a quarter are active at most (R36). The free active slots are taken in `wid` order, and
the other waves are pending and ready from that clk (assumption 95). -/
def State.startWaves (s : State) (l : Launch) (die tile : Nat) (qs : List Nat) : List Wave :=
  qs.zipIdx.map fun e => l.wave e.2 e.1 ((s.dealSlots die tile qs)[e.2]?.getD none) s.clk

/-- The next block of a launch, in its initial state, on a core. -/
def State.newBlock (s : State) (id : Nat) (tile : Nat) (qs : List Nat) (img : Nat) : Block :=
  let l := s.launch id
  let b : Block :=
    { uid := s.nextUid, launch := id, bid := l.nextBid, ctxn := l.ctxn, gen := s.ctxGen l.ctxn, pid := l.pid, level := l.level,
      kind := l.kind, die := l.die, tile := tile, waves := s.startWaves l l.die tile qs, spmb := l.rcd.spmb, imgAt := img,
      wimg := img + blockImageSize l.rcd.spmb, handlerOf := if l.kind = .handler then some l.forBlock else none }
  l.bufs.zipIdx.foldl (fun b e => b.declare e.2 e.1) b

/-- The scope at which a block's start acquires: `sys` for a queue launch, whose slot the dispatcher read so (R398), else `pkg`. -/
def BlockKind.startScope : BlockKind → Nat
  | .queue => 5
  | _ => 3

/-- Every wave of a block acquires. -/
def State.acquireBlock (s : State) (uid scope : Nat) : State :=
  ((List.range (s.block uid).waves.length)).foldl (fun s i => s.acquireFor uid i (s.wave uid i).live scope) s

/-- `fence.full.pkg` for the threads of a resumed wave (R154): while what they made or saw is not performed at `pkg`, the wave waits. -/
def State.fenceWave (s : State) (uid i : Nat) : State :=
  let w := s.wave uid i
  let s1 := (lanesOf w.live).foldl (fun s L => s.fixLoads uid i L (fun _ => true)) s
  if (lanesOf w.live).all (fun L => s1.released uid i L 3 && !w.atomicPending L) then
    (s1.setWave uid i { s1.wave uid i with refence := false }).acquireFor uid i w.live 3
  else s.setWave uid i { w with refence := true }

/-- Every wave of a block that resumes does so. -/
def State.fenceBlock (s : State) (uid : Nat) : State := (List.range (s.block uid).waves.length).foldl (fun s i => s.fenceWave uid i) s

/-- Places the next block of a launch on a core. -/
def State.startBlock (s : State) (id tile : Nat) (qs : List Nat) (img : Nat) : State :=
  let b := s.newBlock id tile qs img
  let l := s.launch id
  let s1 := ({ s with nextUid := s.nextUid + 1 }).setBlock b.uid b
  let s2 := s1.setLaunch id { l with nextBid := l.nextBid + 1, readySince := s.clk }
  s2.acquireBlock b.uid l.kind.startScope

end Sys2Proof.Machine
end

