-- ==== Sys2Proof/Machine/Image.lean ====
section
/-! DEFINITION. Context images (16 R365 to R368): the block image and the wave image as 8-byte words, what a write of a word
changes, the bytes that a stop writes to memory. -/

namespace Sys2Proof.Machine

/-- A word from fields, each a place in bits and a value. -/
def packWord (fs : List (Nat × Nat)) : W64 := BitVec.ofNat 64 (fs.foldl (fun n f => n + f.2 * 2 ^ f.1) 0)

/-- `n` numbers of `w` bits, the first lowest. -/
def packSeq (w n : Nat) (f : Nat → Nat) : W64 := packWord ((List.range n).map (fun i => (w * i, f i % 2 ^ w)))

/-! ### The block image (R365) -/

/-- Bit w: wave w has arrived in this phase of the block barrier. -/
def Block.barWaves (b : Block) : Nat := b.barArrived.foldl (fun n w => n ||| 2 ^ w) 0

/-- HELD: PAIR_SAT, CORE_LOST. -/
def Block.heldBits (b : Block) : Nat :=
  (if b.held.any (fun h => h.cause == .pairSat) then 1 else 0) + (if b.coreLostHeld then 2 else 0)

/-- A word of the entry of buffer `i` in BUFTAB. -/
def Block.bufWord (b : Block) (i off : Nat) : W64 :=
  let u := b.buf i
  match off with
  | 0 => packWord [(0, u.offset % 2 ^ 32), (32, u.size % 2 ^ 32)]
  | 8 => packWord [(0, u.fmt % 256), (8, u.geo % 256), (16, u.flags % 65536), (32, u.key % 65536)]
  | 0x10 => packWord [(0, u.bytes % 2 ^ 32), (32, u.outs % 65536), (48, u.heldN % 65536)]
  | 0x18 => packWord [(0, u.state.code), (8, u.decl.toNat)]
  | _ => 0

/-- The word of the block image at an offset that is a multiple of 8. -/
def Block.imgWord (b : Block) (off : Nat) : W64 :=
  let pb := presenceBytes b.spmb
  let w0 := b.waves.headD {}
  if off = 0 then
    packWord [(0, b.bid % 2 ^ 32), (32, b.waves.length), (40, b.state.code), (48, b.causeWave.getD 0xFF), (56, b.level.code)]
  else if off = 8 then packWord [(0, b.spmb), (32, b.barPhase % 2 ^ 32)]
  else if off = 0x10 then packWord [(0, b.barWaves), (32, b.heldBits)]
  else if off = 0x18 then BitVec.ofNat 64 b.wimg
  else if off = 0x20 then BitVec.ofNat 64 (waveImageSize w0.vregs w0.accN)
  else if off < 0xC0 then 0
  else if off < 0xCC0 then b.bufWord ((off - 0xC0) / 48) ((off - 0xC0) % 48)
  else if off < 0xCC0 + pb then packSeq 1 64 (fun i => (b.lineIn (8 * (off - 0xCC0) + i)).toNat)
  else packSeq 8 8 (fun i => (b.spm.get (off - 0xCC0 - pb + i) 0).toNat)

/-- Does a word of the block image hold a field that `ctxwr` may write: HELD or ALLOT? -/
def Block.imgRw (b : Block) (off : Nat) : Bool := off == 0x10 || decide (0xCC0 + presenceBytes b.spmb ≤ off)

/-- A `ctxwr` to the block image: the block, and whether the write is logged. Writing 0 to a bit of HELD withdraws its cause; writing 1 there,
or anything but 0 to the RO field BARWAVES, has no effect and is logged (R6, R365; assumption 19). -/
def Block.putImg (b : Block) (off : Nat) (x : W64) : Block × Bool :=
  let pb := presenceBytes b.spmb
  if off = 0x10 then
    let b1 := if x.getLsbD 32 then b else { b with held := b.held.filter (fun h => h.cause != .pairSat) }
    let b2 := if x.getLsbD 33 then b1
      else { b1 with coreLostHeld := false, held := b1.held.filter (fun h => h.cause != .coreLost) }
    (if field x 63 34 = 0 then b2 else b, field x 63 32 != 0 || field x 31 0 != 0)
  else if 0xCC0 + pb ≤ off then (b.putSpm (off - 0xCC0 - pb) (leBytes x.toNat 8), false)
  else (b, true)

/-! ### The wave image (R366) -/

/-- An entry of the hardware part of a lane's call stack. -/
def Wave.csent (w : Wave) (e L : Nat) : W64 :=
  if e < w.hwDepth L then BitVec.ofNat 64 ((w.stack.get L []).getD (w.memDepth.get L 0 + e) 0) else w.spare.get (48 * e + L) 0

/-- A word of pending-reply slot `n`. -/
def Wave.slotWord (w : Wave) (n part : Nat) : W64 :=
  let s := w.slot n
  match part with
  | 0 => packWord [(0, s.reg % 65536), (16, s.span % 256), (24, s.kind.code)]
  | 1 => s.lanes.zeroExtend 64
  | _ => s.err.zeroExtend 64

def Wave.flagBits (w : Wave) : Nat :=
  w.z.toNat + 2 * w.n.toNat + 4 * w.c.toNat + 8 * w.ovf.toNat + 16 * w.kz.toNat + 32 * w.skipbp.toNat

/-- V0 of a wave image. -/
def Wave.v0At (w : Wave) : Nat := 0x1680 + feBytes w.vregs
def Wave.tilesAt (w : Wave) : Nat := w.v0At + 192 * w.vregs
def Wave.arvAt (w : Wave) : Nat := w.tilesAt + 9216 * w.accN

/-- The word of a wave image at an offset that is a multiple of 8. -/
def Wave.imgWord (w : Wave) (off : Nat) : W64 :=
  if off = 0 then w.wclk
  else if off = 8 then w.seed
  else if off = 0x10 then packWord [(0, w.ecause.toNat), (32, w.skid % 256), (40, w.flagBits), (48, w.vregs)]
  else if off = 0x18 then w.epc
  else if off = 0x20 then w.ebad
  else if off = 0x28 then w.cstk
  else if off = 0x30 then packWord [(0, w.fpctl.toNat), (32, w.accN), (40, w.dbgpend % 256)]
  else if off = 0x38 then packSeq 16 4 w.idx
  else if off = 0x40 then w.live.zeroExtend 64
  else if off < 0xC0 then 0
  else if off < 0xF8 then (w.kmask (BitVec.ofNat 3 ((off - 0xB8) / 8))).zeroExtend 64
  else if off < 0x130 then (w.pred (BitVec.ofNat 3 ((off - 0xF8) / 8))).zeroExtend 64
  else if off < 0x180 then 0
  else if off < 0x380 then w.sreg (BitVec.ofNat 6 ((off - 0x180) / 8))
  else if off < 0x3C0 then 0
  else if off < 0x540 then BitVec.ofNat 64 (w.pcOf ((off - 0x3C0) / 8))
  else if off < 0x600 then packSeq 32 2 (fun i => (w.sdiOf ((off - 0x540) / 4 + i)).toNat)
  else if off < 0x6C0 then packSeq 32 2 (fun i => (w.tstatOf ((off - 0x600) / 4 + i)).toNat)
  else if off < 0x6F0 then packSeq 8 8 (fun i => w.hwDepth (off - 0x6C0 + i))
  else if off < 0x750 then packSeq 16 4 (fun i => w.memDepth.get ((off - 0x6F0) / 2 + i) 0)
  else if off < 0x780 then packSeq 8 8 (fun i => w.fcode.get (off - 0x750 + i) 0)
  else if off < 0x1380 then w.csent ((off - 0x780) / 384) ((off - 0x780) % 384 / 8)
  else if off < 0x1680 then w.slotWord ((off - 0x1380) / 24) ((off - 0x1380) % 24 / 8)
  else if off < w.v0At then
    let r := (off - 0x1680) / 8
    if r < w.vregs then ((~~~ (w.empty.get r 0)) &&& fullMask).zeroExtend 64 else 0
  else if off < w.tilesAt then packSeq 32 2 (fun i => (w.vreg ((off - w.v0At) / 192) ((off - w.v0At) % 192 / 4 + i)).toNat)
  else if off < w.arvAt then packSeq 32 2 (fun i => (w.acc.get ((off - w.tilesAt) / 4 + i) 0).toNat)
  else
    match w.arv.get ((off - w.arvAt) / 8) 0 with
    | 0 => 0
    | p + 1 => packWord [(0, p % 2 ^ 63), (63, 1)]

/-- Bits of a word that a field's reserved part may not hold. -/
def resOk (x : W64) (h l : Nat) : Bool := field x h l == 0

/-- A write of one RW field with its reserved bits zero; otherwise the field keeps its value and the write is logged (R5). -/
def putField (ok : Bool) (w new : Wave) : Wave × Bool := if ok then (new, false) else (w, true)

/-- Several fields of one word. -/
def putFields (w : Wave) (fs : List (Wave → Wave × Bool)) : Wave × Bool :=
  fs.foldl (fun r f => let n := f r.1; (n.1, r.2 || n.2)) (w, false)

/-- FEBITS (R368): 1 over 0 makes the register full in the lane and takes the lane from LANES of its slot; a mark goes once every
register of its slot is full in the lane (R232). -/
def Wave.fillReg (w : Wave) (r L : Nat) : Wave :=
  let w1 := w.markFull r L 1
  let whole := fun (s : Slot) => (List.range s.span).all (fun i => !w1.isEmpty (s.reg + i) L)
  let step := fun (s : Slot) =>
    if s.covers r then
      ({ s with lanes := setLane s.lanes L false, err := if whole s then setLane s.err L false else s.err,
                errAddr := if whole s then s.errAddr.erase L else s.errAddr } : Slot).tidy
    else s
  { w1 with slots := w1.slots.foldl (fun t e => t.set e.1 (step e.2) {}) w1.slots }

def Wave.putFull (w : Wave) (r : Nat) (x : W64) : Wave × Bool :=
  let e := w.empty.get r 0
  let m := x.truncate 48
  (((lanesOf (e &&& m)).foldl (fun w L => w.fillReg r L) w), (~~~ e &&& ~~~ m &&& fullMask) != 0)

/-- An entry of the hardware part of the call stack takes a value. -/
def Wave.putCsent (w : Wave) (e L : Nat) (x : W64) : Wave :=
  if e < w.hwDepth L then
    { w with stack := w.stack.set L ((w.stack.get L []).set (w.memDepth.get L 0 + e) x.toNat) [] }
  else { w with spare := w.spare.set (48 * e + L) x 0 }

def Wave.putFlags (w : Wave) (n : Nat) : Wave :=
  { w with z := n.testBit 0, n := n.testBit 1, c := n.testBit 2, ovf := n.testBit 3, kz := n.testBit 4, skipbp := n.testBit 5 }

/-- Two words of a field of 32-bit elements. -/
def put32 (w : Wave) (i : Nat) (x : W64) (f : Wave → Nat → W32 → Wave) : Wave :=
  f (f w i (x.truncate 32)) (i + 1) ((x >>> 32).truncate 32)

/-- The word at 0x10: ECAUSE, SKID, WFLAGS are RW, VREGS is RO. -/
def Wave.putWord10 (w : Wave) (x : W64) : Wave × Bool :=
  putFields w
    [fun w => putField (resOk x 31 15) w { w with ecause := x.truncate 32 },
     fun w => putField (resOk x 39 36) w { w with skid := field x 35 32 },
     fun w => putField (resOk x 47 46) w (w.putFlags (field x 45 40)),
     fun w => (w, field x 63 48 != 0)]

/-- The word at 0x30: FPCTL and DBGPEND are RW, ACC is RO. -/
def Wave.putWord30 (w : Wave) (x : W64) : Wave × Bool :=
  putFields w
    [fun w => putField (resOk x 31 4 && decide (field x 2 0 ≤ 4)) w { w with fpctl := x.truncate 32 },
     fun w => (w, field x 39 32 != 0),
     fun w => putField (resOk x 46 42) w { w with dbgpend := field x 47 40 },
     fun w => (w, field x 63 48 != 0)]

/-- A write of the PC of a thread: a wave that stopped while it waited for another block's stop no longer stands at that instruction (R380). -/
def Wave.putPc (w : Wave) (L pc : Nat) : Wave :=
  if w.pcOf L = pc then w
  else
    { w.setPc L pc with waiting := match w.waiting with
        | .target _ _ => .none
        | .targetDone => .none
        | x => x }

/-- A `ctxwr` to a wave image (R366, R368): the wave, and whether the write is logged. -/
def Wave.putImg (w : Wave) (off : Nat) (x : W64) : Wave × Bool :=
  if off = 0x10 then w.putWord10 x
  else if off = 0x18 then ({ w with epc := x }, false)
  else if off = 0x20 then ({ w with ebad := x }, false)
  else if off = 0x28 then putField (resOk x 63 59 && resOk x 11 0) w { w with cstk := x }
  else if off = 0x30 then w.putWord30 x
  else if off = 0x38 then
    putField (resOk x 15 10 && resOk x 31 26 && resOk x 47 42 && resOk x 63 58) w
      { w with index := (List.range 4).foldl (fun t i => t.set i (field x (16 * i + 9) (16 * i)) 0) w.index }
  else if 0xC0 ≤ off ∧ off < 0xF8 then
    putField (resOk x 63 48) w (w.setMask (BitVec.ofNat 3 ((off - 0xB8) / 8)) (x.truncate 48))
  else if 0xF8 ≤ off ∧ off < 0x130 then
    putField (resOk x 63 48) w (w.setPred (BitVec.ofNat 3 ((off - 0xF8) / 8)) fullMask (x.truncate 48))
  else if 0x188 ≤ off ∧ off < 0x380 then (w.setS (BitVec.ofNat 6 ((off - 0x180) / 8)) x, false)
  else if 0x3C0 ≤ off ∧ off < 0x540 then
    (w.putPc ((off - 0x3C0) / 8) x.toNat, false)
  else if 0x540 ≤ off ∧ off < 0x600 then (put32 w ((off - 0x540) / 4) x (fun w i y => w.setSdi i y), false)
  else if 0x780 ≤ off ∧ off < 0x1380 then
    putField (resOk x 63 56) w (w.putCsent ((off - 0x780) / 384) ((off - 0x780) % 384 / 8) x)
  else if 0x1680 ≤ off ∧ off < 0x1680 + 8 * w.vregs then
    if resOk x 63 48 then w.putFull ((off - 0x1680) / 8) x else (w, true)
  else if w.v0At ≤ off ∧ off < w.tilesAt then
    (put32 w ((off - w.v0At) % 192 / 4) x (fun w i y => w.setV ((off - w.v0At) / 192) i y), false)
  else if w.tilesAt ≤ off ∧ off < w.arvAt then
    (put32 w ((off - w.tilesAt) / 4) x (fun w i y => { w with acc := w.acc.set i y 0 }), false)
  else (w, true)

/-! ### Images in memory (R363, R364, R367) -/

/-- The word of an image; part 0 is the block image. -/
def Block.partWord (b : Block) (part off : Nat) : W64 :=
  if part = 0 then b.imgWord off else (b.waves.getD (part - 1) {}).imgWord off

/-- A write of one word of an image, and whether it is logged. -/
def Block.putPart (b : Block) (part off : Nat) (x : W64) : Block × Bool :=
  if part = 0 then b.putImg off x
  else
    let r := (b.waves.getD (part - 1) {}).putImg off x
    ({ b with waves := b.waves.set (part - 1) r.1 }, r.2)

/-- The VA of a word of an image. -/
def Block.partVa (b : Block) (part off : Nat) : Nat :=
  let w := b.waves.headD {}
  if part = 0 then b.imgAt + off else b.wimg + (part - 1) * waveImageSize w.vregs w.accN + off

/-- The size of an image. -/
def Block.partBytes (b : Block) (part : Nat) : Nat :=
  let w := b.waves.headD {}
  if part = 0 then blockImageSize b.spmb else waveImageSize w.vregs w.accN

/-- The vector register whose line holds a word of a wave image. -/
def Block.lineOf (b : Block) (part off : Nat) : Option Nat :=
  let w := b.waves.getD (part - 1) {}
  if part ≠ 0 ∧ w.v0At ≤ off ∧ off < w.tilesAt then some ((off - w.v0At) / 192) else none

/-- Is a context's image area sealed (R367)? -/
def State.imageSealed (s : State) (pid ctxn : Nat) : Bool := s.sealed pid || s.ctxSealimg ctxn

/-- May an image stand in a page: that of a sealed context only in a page of the partition key (R129, R367, R455; assumption 107)? -/
def State.imagePage (s : State) (b : Block) (e : TlbE) : Bool :=
  !s.imageSealed b.pid b.ctxn || s.partKey b.pid == some (leafKey e.leaf)

/-- Writes a word of an image at a VA of its context; a protected page takes it under its key (R367). An address that is not mapped, or whose
page may not hold the image, takes none. A write to a word at which an atomic is on its way home follows it there (R142). -/
def State.putImageWord (s : State) (b : Block) (va : Nat) (x : W64) : State :=
  match s.dieXlat b.die b.ctxn b.pid va with
  | none => s
  | some e =>
    let scope := if s.rmwInFlight (e.pa va) 8 then 2 else 3
    if s.imagePage b e then s.engWriteMem b.die b.tile b.ctxn scope va b.pid (leafKey e.leaf) (e.pa va) (leBytes x.toNat 8) else s

/-- What memory holds of a word of an image: nothing where no page holds it; `none` within where its line does not decrypt, or is
uncorrectable (R128, R367). -/
def State.getImageWord (s : State) (b : Block) (part off : Nat) : Option (Option W64) :=
  let va := b.partVa part off
  match s.dieXlat b.die b.ctxn b.pid va with
  | none => none
  | some e =>
    if !s.imagePage b e then none
    else if leafKey e.leaf = 0 then
      let r := s.engBytes b.die (e.pa va) 8
      some (if r.2 then none else some (BitVec.ofNat 64 (leNat r.1)))
    else some ((s.plainBytes b.pid (leafKey e.leaf) (e.pa va) 8).map (fun bs => BitVec.ofNat 64 (leNat bs)))

/-- Writes `n` bytes of an image, 8 at a time. -/
def State.putImage (s : State) (b : Block) (va n : Nat) (f : Nat → W64) : State :=
  (List.range (n / 8)).foldl (fun s i => s.putImageWord b (va + 8 * i) (f (8 * i))) s

/-- Is a vector line of a wave in the register cache? -/
def State.lineCached (s : State) (uid wid reg : Nat) : Bool := s.rcache.any (fun x => x.uid == uid && x.wid == wid && x.reg == reg)

/-- The current value of a vector line goes to memory. -/
def State.putLine (s : State) (uid wid reg : Nat) : State :=
  let b := s.block uid
  let w := s.wave uid wid
  let off := w.v0At + 192 * reg
  let s1 := s.putImage b (b.partVa (wid + 1) off) 192 (fun o => w.imgWord (off + o))
  if w.inImage.contains reg then s1 else s1.setWave uid wid { w with inImage := w.inImage ++ [reg] }

/-- A line leaves the cache; a modified one is written back to its wave image (R78). -/
def State.evict (s : State) (x : RLine) : State :=
  let b := s.block x.uid
  let s1 := { s with rcache := s.rcache.erase x }
  if x.dirty = false ∨ b.state = .ended ∨ b.waves = [] then s1 else s1.putLine x.uid x.wid x.reg

/-- Writes the block image and every wave image of a block to its image area, but for the vector lines (R363). -/
def State.writeImages (s : State) (b : Block) : State :=
  let s1 := s.putImage b b.imgAt (blockImageSize b.spmb) b.imgWord
  b.waves.zipIdx.foldl (fun s e =>
    let va := b.partVa (e.2 + 1)
    (s.putImage b (va 0) e.1.v0At e.1.imgWord).putImage b (va e.1.tilesAt) (b.partBytes (e.2 + 1) - e.1.tilesAt)
      (fun o => e.1.imgWord (e.1.tilesAt + o))) s1

/-- Every vector line of a block goes to memory, and none stays in the register cache (R376). -/
def State.writeLines (s : State) (uid : Nat) : State :=
  let s1 := (List.range (s.block uid).waves.length).foldl (fun s i =>
    (List.range (s.wave uid i).vregs).foldl (fun s r => s.putLine uid i r) s) s
  { s1 with rcache := s1.rcache.filter (fun x => x.uid != uid) }

/-- A vector line of a wave has changed: the cached line differs from its image now; a line that stands in the image alone changes there (R364). -/
def State.saveLine (s : State) (uid wid reg : Nat) : State :=
  if s.lineCached uid wid reg then
    { s with rcache := s.rcache.map (fun x => if x.uid == uid && x.wid == wid && x.reg == reg then { x with dirty := true } else x) }
  else if (s.block uid).resident && !(s.wave uid wid).inImage.contains reg then s
  else s.putLine uid wid reg

/-- The images of a block that is on no core follow what has changed of it since it was `b0` (R70, R364). -/
def State.saveChanges (s : State) (b0 : Block) (part : Nat) : State :=
  let b := s.block b0.uid
  if b.resident then s
  else
    let offs := ((List.range (b0.partBytes part / 8)).map (8 * ·)).filter (fun o => b0.partWord part o != b.partWord part o)
    let s1 := (offs.filterMap (b.lineOf part)).eraseDups.foldl (fun s r => s.saveLine b0.uid (part - 1) r) s
    (offs.filter (fun o => (b.lineOf part o).isNone)).foldl (fun s o => s.putImageWord b (b.partVa part o) (b.partWord part o)) s1

/-- What replies wrote into registers of a wave reaches their lines, or its image. -/
def State.saveRegs (s : State) (b0 : Block) (wid reg span : Nat) : State :=
  if (s.block b0.uid).resident then (List.range span).foldl (fun s i => s.saveLine b0.uid wid (reg + i)) s else s.saveChanges b0 (wid + 1)

/-- The block with a word of its image as memory holds it: what software stored there stands in the fields that may be written
(assumption 106). HELD is the hardware's own. -/
def State.loadWord (s : State) (b : Block) (part off : Nat) : Block :=
  match s.getImageWord b part off with
  | some (some x) =>
    if (part = 0 ∧ off < 0xCC0) ∨ x = b.partWord part off then b
    else match b.lineOf part off with
      | some r => if s.lineCached b.uid (part - 1) r || !(b.waves.getD (part - 1) {}).inImage.contains r then b else (b.putPart part off x).1
      | none => (b.putPart part off x).1
  | _ => b

/-- Does a word of a block's images that memory holds not decrypt? -/
def State.imageWordBad (s : State) (b : Block) (part off : Nat) : Bool := s.getImageWord b part off == some none

/-- A block that comes back to a core takes its images from memory (R363, R367): lines that stay elsewhere are written back first. An
uncorrectable word is reported (R481). -/
def State.loadImages (s : State) (uid : Nat) : State :=
  let b := s.block uid
  let words := (List.range (b.waves.length + 1)).flatMap (fun p => (List.range (b.partBytes p / 8)).map (fun i => (p, 8 * i)))
  let s1 := s.setBlock uid (words.foldl (fun b e => s.loadWord b e.1 e.2) b)
  match words.find? (fun e => s.imageWordBad b e.1 e.2) with
  | some e =>
    let pa := ((s.dieXlat b.die b.ctxn b.pid (b.partVa e.1 e.2)).map (fun x => x.pa (b.partVa e.1 e.2))).getD 0
    s1.mcheck 4 (pa / 2 ^ 27) (s.ownerOf pa)
  | none => s1

end Sys2Proof.Machine
end

