-- ==== Sys2Proof/Machine/Traps.lean ====
section
/-! DEFINITION. Stopping and restarting blocks (16 R357 to R363, R370, R372, R376): the broadcast of a halt, when a block is
stopped, what follows, trap delivery, held causes, pre-emption, resuming. -/

namespace Sys2Proof.Machine

/-! ### Names (R362) -/

/-- The handle of a block. -/
def State.handleOf (s : State) (b : Block) : W64 :=
  packWord [(0, b.bid % 2 ^ 32), (32, b.ctxn % 4096), (44, b.gen % 4096), (56, ((s.dieidOf b.pid (s.launch b.launch).die).getD 0) % 64)]

/-- The `dieid` of a launch in a partition names its die. -/
def State.onDieid (s : State) (b : Block) (d : Nat) : Bool := s.dieOf b.pid d == some (s.launch b.launch).die

/-- When the dispatcher took a block's launch: of a handler or drone block, when it was placed (R362). -/
def Block.taken (b : Block) : Nat := if b.kind = .queue then b.launch else b.uid

/-- The block that a handle names: of those of its context, die and `bid` that have not ended, that of the launch taken first; none
where the handle is stale. -/
def State.named (s : State) (h : W64) : Option Nat :=
  let c := field h 43 32
  let fits := fun (u : Nat) =>
    let b := s.block u
    b.state != .ended && b.kind != .rim b.tile && b.ctxn == c && b.bid == field h 31 0 && s.onDieid b (field h 61 56)
  if field h 63 62 ≠ 0 ∨ field h 55 44 ≠ s.ctxGen c then none
  else
    (s.uids.filter fits).foldl (fun m u => match m with
      | none => some u
      | some v => if (s.block u).taken < (s.block v).taken then some u else some v) none

/-! ### What still runs for a block (R359) -/

/-- Does a job work on buffers of its block? -/
def Job.onBuffers (j : Job) : Bool :=
  match j.work with
  | .copy d => d.flags % 4 != 0
  | .chain d => d.flags % 4 != 0
  | .pair _ _ => true
  | .fabric => true
  | _ => false

/-- Has every operation of a block that a stop waits for completed? A suspended pair job is the exception. -/
def State.blockQuiet (s : State) (uid : Nat) : Bool :=
  let b := s.block uid
  s.mqueue.all (fun e => e.2.all (fun x => x.uid != uid)) &&
    b.bufs.all (fun e => e.2.outs == 0 && e.2.state != .filling) &&
    s.jobs.all (fun j => j.uid != uid || !j.onBuffers || j.phase == .suspended) &&
    s.fab.all (fun o => o.uid != uid || (o.src.isNone && o.dst.isNone)) &&
    s.writes.all (fun w => w.uid != uid || decide (w.level ≥ 4))

/-- Does a suspended pair job hold buffers of a block (R309)? -/
def State.satHeld (s : State) (uid : Nat) : Bool := s.jobs.any (fun j => j.uid == uid && j.phase == .suspended)

/-- Is a block stopped: every wave, and all it waits for? -/
def State.isStopped (s : State) (uid : Nat) : Bool :=
  let b := s.block uid
  b.state == .running && b.stopping != .no && b.broadcast && b.waves.all (fun w => w.stopped || w.ended) && s.blockQuiet uid

/-! ### Stopping waves (R358, R252, R265, R148) -/

/-- The PC of the lowest live thread. -/
def Wave.lowPc (w : Wave) : Nat := ((lanesOf w.live).head?.map w.pcOf).getD 0

/-- A wave stops at once for a broadcast: `skid` 0, cause HALTED. -/
def Wave.haltNow (w : Wave) : Wave :=
  { w with stopped := true, skidding := false, skid := 0, ecause := ecauseWord .halted false 0, parked := [] }

/-- May a wave use its skid: active, and a thread not waiting nor parked? -/
def Wave.maySkid (w : Wave) : Bool :=
  w.active && (match w.waiting with | .none => true | .released _ => true | _ => false) &&
    (lanesOf w.live).any (fun L => w.parked.get L none == none)

/-- BLOCK_HALT: the broadcast reaches the other waves of a block that begins to stop; those of `keep` that can still issue enter
their skid, the rest stop at once. A wait that has not been granted leaves its semaphore's order when its wave stops (R243). -/
def execBlockHalt (uid : Nat) (keep : List Nat) (s : State) : Out := .next <|
  let b := s.block uid
  if b.state ≠ .running ∨ b.stopping = .no ∨ b.broadcast then s
  else
    let stop := fun (e : Wave × Nat) =>
      if e.1.stopped || e.1.ended then e.1
      else if keep.contains e.2 && e.1.maySkid then { e.1 with skidding := true, skid := 0 }
      else e.1.haltNow
    let s1 := s.setBlock uid { b with waves := b.waves.zipIdx.map stop, broadcast := true }
    (List.range b.waves.length).foldl (fun s i => if (s.wave uid i).stopped then s.semLeave uid i else s) s1

/-- Has a wave stopped by a `brk` or a `trap` that it retired (R188)? -/
def Wave.trapped (w : Wave) : Bool :=
  w.ecause.toNat % 256 == Cause.softTrap.code || (w.ecause.toNat % 256 == Cause.breakpoint.code && !w.ebad.getLsbD 63)

/-- A stopped wave leaves what it held outside itself: its place at a semaphore, its start phase, open transactions; `epc` of a
wave that is not the faulting one, and records HALTED (R357), is the word in front of which its skid stopped (R202), else the PC of its
lowest live thread (R359); a `brk` or `trap` that it retired in the clk of the faulting wave's cause keeps its `epc` and `ebad` (R188;
assumption 122). -/
def State.settleWave (s : State) (uid i : Nat) : State :=
  let s1 := (s.semLeave uid i).dropStart uid i
  let w := s1.wave uid i
  if w.ended then s1
  else
    let w1 := (lanesOf w.live).foldl (fun w L => w.txAbort L 4 0) w
    let w2 := { w1 with parked := [], waiting := match w1.waiting with
      | .idle _ => .none
      | x => x }
    let own := (s1.block uid).causeWave == some i && w2.ecause.toNat % 256 != 0
    s1.setWave uid i (if own then w2 else { w2 with
      ecause := ecauseWord .halted false 0
      epc := if w2.trapped then w2.epc else BitVec.ofNat 64 ((w2.front.map (·.1)).getD w2.lowPc) })

/-- Every wave of a block settles. -/
def State.settleWaves (s : State) (uid : Nat) : State :=
  (List.range (s.block uid).waves.length).foldl (fun s i => s.settleWave uid i) s

/-! ### Debug events (R370) -/

def State.dbgctl (s : State) (ctxn : Nat) : W64 := s.ctxWord 5 ctxn 4

/-- A breakpoint or step of a wave goes to the debugger: inbox 14 of DCTX on the block's core. -/
def State.debugEvent (s : State) (b : Block) (cause wid : Nat) : State :=
  let dctx := field (s.dbgctl b.ctxn) 27 16
  let dieid := (s.dieidOf b.pid b.die).getD 0
  let vcid := s.vcidAt b.die b.tile b.pid
  let key := inboxKey dctx dieid vcid 14
  let m : Msg := { w0 := BitVec.ofNat 32 b.bid, w1 := BitVec.ofNat 32 (cause + wid * 2 ^ 8 + b.gen % 4096 * 2 ^ 14),
                   from_ := BitVec.ofNat 32 (0xFF + dieid * 256) }
  if (s.inbox key).length < s.inboxCap b.die b.pid dctx vcid 14 then s.setInbox key (s.inbox key ++ [m]) else s

/-! ### Trap delivery (R360, R361) -/

/-- The event UNHANDLED. -/
def State.unhandled (s : State) (b : Block) (cause : Nat) : State :=
  s.event b.pid b.die (0x40 + cause + b.ctxn % 4096 * 2 ^ 8 + b.gen % 4096 * 2 ^ 20) b.bid

/-- A handler is queued for a block, from the entry of its cause; an entry that is empty, cannot be read, or fails R31 or R360
leaves the block HALTED with the event UNHANDLED. -/
def State.queueHandler (s : State) (uid cause : Nat) (ecause : W32) (wid : Nat) : State :=
  let b := s.block uid
  let l := s.launch b.launch
  match s.ctxBytes b.die b.ctxn b.pid .s (l.rcd.tvt + 192 * cause) 192 with
  | none => s.unhandled b cause
  | some bs =>
    let r := LRec.ofBytes bs
    let c := s.recCode b.die b.pid b.ctxn .s bs
    if r.entry = 0 ∨ c.1 ≠ 0 ∨ r.grid ≠ 1 ∨ r.stflg = true then s.unhandled b cause
    else
      let h : Launch :=
        { uid := s.nextUid, rcd := { r with prio := 3 }, bufs := c.2, die := b.die, pid := b.pid, ctxn := b.ctxn, level := .s,
          kind := .handler, forBlock := uid, s2 := s.handleOf b, s3 := ecause.zeroExtend 64, s4 := BitVec.ofNat 64 wid,
          readySince := s.clk }
      ({ s with nextUid := s.nextUid + 1 }).setLaunch h.uid h

/-- The delivery of a stopped block's cause: to the debugger for BREAKPOINT and SINGLE_STEP with ATTACH, else to a handler. -/
def State.deliverTrap (s : State) (uid : Nat) : State :=
  let b := s.block uid
  let wid := b.causeWave.getD 0
  let w := s.wave uid wid
  let cause := w.ecause.toNat % 256
  let s1 := s.setBlock uid { b with delivered := true }
  if cause = 0 then s1
  else if (cause = 17 ∨ cause = 18) ∧ (s.dbgctl b.ctxn).getLsbD 0 = true then s1.debugEvent b cause wid
  else s1.queueHandler uid cause w.ecause wid

/-- Does the partition of a block deliver traps now (R421)? -/
def State.delivers (s : State) (pid : Nat) : Bool := s.qstate pid == 1

/-- A stop for a cause: the repeat count (R407), and the delivery, or, for a rim core, the log entry (R477). -/
def State.trapStopped (s : State) (uid : Nat) : State :=
  let b := s.block uid
  let w := s.wave uid (b.causeWave.getD 0)
  let cause := w.ecause.toNat % 256
  let same := b.repCount != 0 && b.repCause == cause && b.repEpc == w.epc
  let b1 := { b with state := .halted, stopping := .no, broadcast := false, delivered := false, repCause := cause, repEpc := w.epc,
                     repCount := if same then b.repCount + 1 else 1, repWave := b.causeWave, repFired := same && b.repFired, stopNo := s.nextUid }
  let s1 := ({ s with nextUid := s.nextUid + 1 }).setBlock uid b1
  if b.die = 64 then s1.log 9 (b.tile % 8 + cause * 8)
  else if s1.delivers b.pid then s1.deliverTrap uid
  else s1

/-! ### Leaving and coming back (R363, R372) -/

/-- A block leaves its core: everything but its vector lines is written to its images, and its allotment goes; its lines stay in the register
cache till others need the room (R363). A sealed block's lines go too (R376). In a partition reset no image is kept (R440). -/
def State.leaveCore (s : State) (uid : Nat) (st : BlockSt) : State :=
  let b := { s.block uid with state := st, stopping := .no, broadcast := false, resident := false }
  let s1 := if s.resetting.contains b.pid then s.setBlock uid b else (s.setBlock uid b).writeImages b
  if st = .sealedImg then s1.writeLines uid else s1

/-- A resumed wave: stopped no longer; a wave that a breakpoint register stopped skips it once (R370). -/
def Wave.resumed (w : Wave) : Wave :=
  { w with stopped := false, skidding := false, fcode := [], front := none,
           skipbp := w.skipbp || (w.ecause.toNat % 256 == 17 && w.ebad.getLsbD 63) }

/-- The waves of a block run again. -/
def Block.resumed (b : Block) : Block :=
  { b with state := .running, stopping := .no, broadcast := false, waves := b.waves.map Wave.resumed }

/-- A HALTED block is resumed: on its core, with a `fence.full.pkg` for each thread (R154), or to be placed again. -/
def State.resumeHalted (s : State) (uid : Nat) : State :=
  let b := s.block uid
  if b.resident then (s.setBlock uid b.resumed).fenceBlock uid
  else s.setBlock uid { b with state := .swapped }

/-- A breakpoint that a sealing kept is delivered (R370): the block becomes HALTED with that wave's cause BREAKPOINT, at the word that was hit. -/
def State.pendingBreak (s : State) (uid : Nat) : State :=
  let b := s.block uid
  let hit := (List.range b.waves.length).filter (fun i => decide ((s.wave uid i).dbgpend ≥ 0x80))
  match hit with
  | [] => s.setBlock uid { b with state := .swapped }
  | i0 :: _ =>
    let s1 := hit.foldl (fun s i =>
      let w := s.wave uid i
      let w1 := { w with ecause := ecauseWord .breakpoint false 0, epc := BitVec.ofNat 64 ((w.front.map (·.1)).getD w.lowPc),
                         ebad := bpBad (w.dbgpend % 4) ((w.front.map (·.2)).getD ((lanesOf w.live).headD 0)), dbgpend := 0 }
      s.setWave uid i w1) s
    let b1 := { s1.block uid with state := .halted, causeWave := some i0, delivered := false, stopNo := s.nextUid }
    let s2 := ({ s1 with nextUid := s1.nextUid + 1 }).setBlock uid b1
    if (s2.dbgctl b.ctxn).getLsbD 0 then
      hit.foldl (fun s i => s.debugEvent b1 17 i) (s2.setBlock uid { b1 with delivered := true })
    else if s2.delivers b.pid then s2.deliverTrap uid
    else s2

/-- What `resume` does to a HALTED or SEALED block. -/
def State.resumeBlock (s : State) (uid : Nat) : State :=
  if (s.block uid).state = .halted then s.resumeHalted uid
  else (List.range (s.block uid).waves.length).foldl (fun t i => t.saveChanges (s.block uid) (i + 1)) (s.pendingBreak uid)

/-! ### Ends by reset (R439) -/

/-- Every live thread of a wave ends. -/
def State.endWave (s : State) (uid i : Nat) : State :=
  let w := s.wave uid i
  let s1 := s.setWave uid i (w.endThreads w.live)
  s1.barrierTry uid

/-- The waves, or the whole block (0x3F), that resets name end; MSI-X vector 2 tells the VF of the reset of a wave, which is then complete
(R438). -/
def State.applyKill (s : State) (uid : Nat) : State :=
  let b := s.block uid
  match b.killer with
  | none => s
  | some pid =>
    let s1 := s.setBlock uid { b with killWaves := [], killer := none, killed := b.killed || b.killWaves.contains 0x3F }
    b.killWaves.foldl (fun s k =>
      let ws := if k = 0x3F then List.range b.waves.length else [k]
      let t := ws.foldl (fun s i => s.endWave uid i) s
      if k = 0x3F then t else t.sendMsix pid 2) s1

/-! ### A block has stopped (R358 to R363, R376) -/

/-- What a stop makes of a `halt` (`sealing` = false) or `seal` that waits for it: done, or to begin again on the block as it
stands. -/
def Stopping.serves (st : Stopping) (sealing : Bool) : Bool :=
  match st with
  | .sealing => true
  | .kill => false
  | _ => !sealing

/-- A `seal` that a stop did not serve and whose issuer has stopped meanwhile takes the block as it now stands (R376, R380). -/
def State.sealLeft (s : State) (uid : Nat) (st : Stopping) : State :=
  let b := s.block uid
  let asked := s.uids.any (fun u => (s.block u).waves.any (fun w => w.stopped && w.waiting == .target uid true))
  if asked && !st.serves true && (b.state == .halted || b.state == .swapped) && !s.satHeld uid then s.leaveCore uid .sealedImg else s

/-- The waves that wait for the stop of a block go on. A wave that has itself stopped finds its `halt` or `seal` done when it is resumed
(R380), if the block was sealed, and else begins it again. -/
def State.wakeTargets (s : State) (uid : Nat) (st : Stopping) : State :=
  s.uids.foldl (fun s u => (List.range (s.block u).waves.length).foldl (fun s i =>
    let w := s.wave u i
    match w.waiting with
    | .target t sealing => if t = uid then s.setWave u i { w with waiting := if st.serves sealing || (w.stopped && (s.block uid).state == .sealedImg) then .targetDone else .none } else s
    | _ => s) s) s

/-- The state that a stop leaves. -/
def State.endStop (s : State) (uid : Nat) : State :=
  let b := s.block uid
  match b.stopping with
  | .trap => s.trapStopped uid
  | .halt => s.setBlock uid { b with state := .halted, stopping := .no, broadcast := false }
  | .preempt => s.leaveCore uid .swapped
  | .preemptHalt => s.leaveCore uid .halted
  | .sealing => s.leaveCore uid .sealedImg
  | .kill => (s.setBlock uid b.resumed).fenceBlock uid
  | .no => s

/-- Does a stop take the block from its core? -/
def Stopping.moves : Stopping → Bool
  | .preempt => true | .preemptHalt => true | .sealing => true | _ => false

/-- BLOCK_STOPPED. -/
def execBlockStopped (uid : Nat) (s : State) : Out := .next <|
  let st := (s.block uid).stopping
  if !s.isStopped uid || (st.moves && s.satHeld uid) then s
  else ((((s.settleWaves uid).endStop uid).applyKill uid).sealLeft uid st).wakeTargets uid st

/-! ### Held causes (R300, R357) -/

/-- A held cause is taken by a wave that has not ended. No instruction is undone: an arrival at a barrier stands (R252, R300); a wait
that has not been granted leaves its semaphore's order (R243). -/
def State.takeHeld (s : State) (uid i : Nat) (h : HeldCause) : State :=
  let w := s.wave uid i
  let s1 := (s.setWave uid i (w.stopFor h.cause false 0 w.lowPc h.ebad)).semLeave uid i
  s1.setBlock uid ((s1.block uid).beginTrap i)

/-- No wave is left (R300): the issuing wave's registers tell the cause. -/
def State.takeHeldEnded (s : State) (uid : Nat) (h : HeldCause) : State :=
  let w := s.wave uid h.wid
  let s1 := s.setWave uid h.wid { w with ecause := ecauseWord h.cause false 0, epc := 0, ebad := h.ebad }
  s1.setBlock uid ((s1.block uid).beginTrap h.wid)

/-- The held cause of the least code. -/
def Block.nextHeld (b : Block) : Option HeldCause :=
  b.held.foldl (fun m h => match m with
    | none => some h
    | some x => if h.cause.code < x.cause.code then some h else some x) none

/-- ASYNC_CAUSE_TAKE: before any issue of a running block, the held cause of the least code is taken. -/
def execAsyncCauseTake (uid : Nat) (s : State) : Out := .next <|
  let b := s.block uid
  match b.nextHeld with
  | none => s
  | some h =>
    if b.state ≠ .running ∨ b.stopping ≠ .no ∨ b.resident = false then s
    else
      let s1 := s.setBlock uid { b with held := b.held.erase h }
      let open_ := (List.range b.waves.length).filter (fun i => !(s.wave uid i).ended)
      if open_.contains h.wid then s1.takeHeld uid h.wid h
      else
        match open_ with
        | i :: _ => s1.takeHeld uid i h
        | [] => s1.takeHeldEnded uid h

/-! ### Pre-emption (R363, R406) -/

/-- May a block be pre-empted: a drone block only for the quiesce protocol? -/
def State.preemptible (s : State) (b : Block) : Bool :=
  b.die != 64 && b.resident && b.stopping == .no && (b.kind != .drone || decide (s.qstate b.pid ≥ 3))

/-- PREEMPT: a RUNNING block begins to stop; a resident HALTED block is written out as it stands. -/
def execPreempt (uid : Nat) (s : State) : Out := .next <|
  let b := s.block uid
  if !s.preemptible b then s
  else if b.state = .running then s.setBlock uid { b with stopping := .preempt, broadcast := false, causeWave := none }
  else if b.state = .halted ∧ s.satHeld uid = false then s.leaveCore uid .halted
  else s

end Sys2Proof.Machine
end

