-- ==== Sys2Proof/Machine/Migrate.lean ====
section
/-! DEFINITION. Translation's own steps (17 R386 to R392): walks that fill the TLBs, the invalidation protocol with the migration
lock and switch, the teardown of a context. -/

namespace Sys2Proof.Machine

/-! ### Walks (R386, R388) -/

/-- A walk in flight on a die: it serves 64 at once, and the others queue (R386, R388). -/
def State.walkRuns (s : State) (die quarter ctxn va : Nat) : Bool :=
  ((s.walks.filter (fun x => x.1 == die)).take 64).contains (die, quarter, ctxn, va / 2 ^ 17 * 2 ^ 17)

/-- PAGE_WALK: a walk for a quarter (tile · 4 + quarter) of a die fills its TLB, and the die's walk cache with the leaf and the table entries on its
path; one that faults leaves nothing. -/
def execPageWalk (die quarter ctxn va : Nat) (s : State) : Out := .next <|
  let mine := fun (x : Nat × Nat × Nat × Nat) => x.1 == die && x.2.1 == quarter && x.2.2.1 == ctxn
  if !s.walkRuns die quarter ctxn va then s
  else
    let s0 := { s with walks := s.walks.filter (fun x => !(mine x && x.2.2.2 == va / 2 ^ 17 * 2 ^ 17)) }
    match s.ctxPid ctxn with
    | none => s0
    | some pid =>
      let s1 := s0.bumpDie die 0x82 1
      match s.dieXlat die ctxn pid va with
      | none => s1
      | some e =>
        let path := ((s.walkPath die ctxn pid va).map (·.2)).getD []
        let tables := path.map (fun p =>
          ({ e with quarter := none, base := va / levelBytes p.1 * levelBytes p.1, size := levelBytes p.1, leaf := p.2, level := p.1 + 1 } : TlbE))
        { s1 with walks := s1.walks.filter (fun x => !(mine x && decide (e.base ≤ x.2.2.2) && decide (x.2.2.2 < e.base + e.size))),
                  tlb := addTlb 128 ((tables ++ [{ e with quarter := none }]).foldl (addTlb 4096) s1.tlb)
                    { e with quarter := some (quarter / 4, quarter % 4) } }

/-! ### What an invalidation covers (R389) -/

/-- Is a range of a context's addresses covered? The entries dropped tell the page's extent. -/
def State.tlbCovers (s : State) (j : Job) (c va n : Nat) : Bool :=
  match j.work with
  | .tlbinv kind a ctxn =>
    if kind = 0 then
      c == ctxn && ((decide (va < a + 2 ^ 17) && decide (a < va + n)) ||
        j.pins.any (fun e => decide (va < e.base + e.size) && decide (e.base < va + n)))
    else if kind = 1 then c == ctxn
    else s.ctxPid c == s.ctxPid ctxn
  | _ => false

/-- Does an entry go: it maps the page that holds `sA`, or is of a context that goes whole? -/
def State.tlbDrops (s : State) (j : Job) (e : TlbE) : Bool :=
  match j.work with
  | .tlbinv kind a ctxn =>
    if kind = 0 then e.ctxn == ctxn && decide (e.base ≤ a) && decide (a < e.base + e.size)
    else if kind = 1 then e.ctxn == ctxn
    else s.ctxPid e.ctxn == s.ctxPid ctxn
  | _ => false

/-- Each request of a kind in any slot that a test passes: block, wave, slot index, the slot, the request. -/
def State.reqsOf (s : State) (kind : SlotKind) (p : Nat → Req → Bool) : List (Nat × Nat × Nat × Slot × Req) :=
  s.uids.flatMap fun u => (List.range (s.block u).waves.length).flatMap fun i =>
    (s.wave u i).slots.flatMap fun e =>
      if e.2.kind = kind then (e.2.reqs.filter (p (s.block u).ctxn)).map (fun q => (u, i, e.1, e.2, q)) else []

/-- Atomics not yet performed under a covered page, named by block, wave and place in the wave's order. -/
def State.openAtomics (s : State) (j : Job) : List Nat :=
  ((s.reqsOf .atomic (fun c q => q.open_ && s.tlbCovers j c q.va q.width && (s.lockOf q.pa).isNone)).map
    (fun e => (e.1 * 32 + e.2.1) * 2 ^ 48 + e.2.2.2.1.ord)).eraseDups

/-- The entries are dropped on every die, and covered loads take their values. -/
def State.tlbStart (s : State) (j : Job) : State :=
  let gone := s.tlb.filter (s.tlbDrops j)
  let j1 := { j with phase := .started, pins := gone.filter (·.level == 0), idx := [s.nextWrite] }
  let s1 := { s with tlb := s.tlb.filter (fun e => !s.tlbDrops j e) }
  let loads := s1.reqsOf .load (fun c q => q.open_ && s1.tlbCovers j1 c q.va q.width)
  let s2 := loads.foldl (fun s e => s.fixLane e.1 e.2.1 e.2.2.1 e.2.2.2.2.lane 0) s1
  s2.setJob { j1 with arrived := s2.openAtomics j1 }

/-- The virtual address by which a transaction reached a byte. -/
def Tx.vaOf (t : Tx) (pa : Nat) : Nat := (t.grans.get (pa / 2 ^ 17) 0 - 1) * 2 ^ 17 + pa % 2 ^ 17

/-- Does anything translated through a dropped entry still stand: a write neither performed at `pkg` nor held at its home, an atomic,
a transaction's stores, a pin? A commit to a locked frame has reached its home. -/
def State.tlbWaits (s : State) (j : Job) : Bool :=
  let wBusy := fun (w : PWrite) => decide (w.id < j.idx.headD 0) && s.tlbCovers j w.ctxn w.va w.bytes.length &&
    decide (w.level < 4) && !w.held
  let txBusy := fun (u : Nat) => (s.block u).waves.any (fun w => w.tx.any (fun e => match e.2 with
    | some t => t.data.any (fun e => s.tlbCovers j (s.block u).ctxn (t.vaOf e.1) 1) &&
        !(t.validating && t.data.any (fun e => (s.lockOf e.1).isSome))
    | none => false))
  let pinned := fun (e : TlbE) => s.tlbCovers j e.ctxn e.base e.size
  s.writes.any wBusy || (s.openAtomics j).any (fun k => j.arrived.contains k) || s.uids.any txBusy ||
    s.jobs.any (fun i => (match i.work with | .tlbinv _ _ _ => false | _ => true) && i.pins.any pinned) ||
    s.starts.any (fun p => p.pins.any pinned) ||
    s.mqueue.any (fun q => q.2.any (fun e => e.pins.any pinned))

/-! ### Migration (R155, R392) -/

/-- The home agent of a frame. -/
def homeOf (pa : Nat) : Nat := if isHbm pa then pa / 2 ^ 27 / 384 else 32

/-- The modified lines of a frame: writes past their core and not at their home. -/
def State.modified (s : State) (frame n : Nat) : List PWrite :=
  s.writes.filter (fun w => decide (2 ≤ w.level) && w.hits frame n)

/-- The lock: modified and U copies of the frame's lines go home, and the lock is set; none while a modified line cannot. -/
def State.lockFrame (s : State) (ctxn : Nat) (p : Page) : Option State :=
  let frame := leafPa p.leaf
  let home := fun (s : State) => (s.modified frame p.bytes).foldl (fun s w => if s.mayRaise w then s.raise w else s) s
  let s1 := home (home (home s))
  if s1.modified frame p.bytes ≠ [] then none
  else
    let s2 := s1.recall frame p.bytes
    some { s2 with locks := s2.locks ++ [⟨ctxn, p.base, frame, p.bytes⟩] }

/-- Where an access in flight goes after the switch: to the frame that the entry of its own page names. -/
def State.movedPa (s : State) (l : MigLock) (c va pa : Nat) : Nat :=
  if l.frame ≤ pa ∧ pa < l.frame + l.size then
    match (s.ctxPid c).bind (fun pid => s.walk c pid va) with
    | some p => leafPa p.leaf + (va - p.base)
    | none => pa
  else pa

/-- A transaction follows the pages that it reached. -/
def State.moveTx (s : State) (l : MigLock) (c : Nat) (t : Tx) : Tx :=
  let move := fun (pa : Nat) => match t.grans.get (pa / 2 ^ 17) 0 with
    | 0 => pa
    | n + 1 => s.movedPa l c (n * 2 ^ 17 + pa % 2 ^ 17) pa
  let sector := fun (x : Nat) => sectorOf (if move (48 * x) = 48 * x then move (48 * x + 47) else move (48 * x))
  { t with
    reads := t.reads.map sector, writes := t.writes.map sector, seen := t.seen.map (fun e => (move e.1, e.2)),
    data := t.data.map (fun e => (move e.1, e.2)), grans := t.grans.map (fun e => (move (e.1 * 2 ^ 17) / 2 ^ 17, e.2)) }

/-- Requests that wait, and transactions, follow their page. -/
def State.moveWave (s : State) (l : MigLock) (c : Nat) (w : Wave) : Wave :=
  { w with tx := w.tx.map (fun e => (e.1, e.2.map (s.moveTx l c))), slots := w.slots.map (fun e => (e.1, { e.2 with reqs := e.2.reqs.map (fun q =>
      if q.open_ then { q with pa := s.movedPa l c q.va q.pa } else q) })) }

/-- A pin follows its page. -/
def State.movePin (s : State) (l : MigLock) (e : TlbE) : TlbE :=
  if e.ctxn = l.ctxn ∧ e.base = l.va then
    match (s.ctxPid e.ctxn).bind (fun pid => s.walk e.ctxn pid e.base) with
    | some p => { e with leaf := p.leaf }
    | none => e
  else e

/-- Held writes are performed in their order of arrival, where their frame is locked no longer; one whose release still waits for a write that
another lock holds is in flight again. -/
def State.performHeld (s : State) (ids : List Nat) : State :=
  ids.foldl (fun s i => match s.writes.find? (·.id == i) with
    | some w =>
      if (s.lockOf w.pa).isSome then s
      else if w.deps.all (fun d => s.performedAt d.1 d.2) then
        (s.dropOwn w.die w.tile 4 w.pa w.bytes.length).raise { w with level := if w.sealGen = 0 then 3 else 4, held := false }
      else { s with writes := s.writes.map (fun u => if u.id = i then { u with held := false } else u) }
    | none => s) s

/-- The switch: what is in flight to the old frame follows its page; copies of the old lines are invalidated; the lock clears; held writes are
performed. -/
def State.switchWrites (s : State) (l : MigLock) : State :=
  let ids := (s.writes.filter (fun w => w.held && w.hits l.frame l.size)).map (·.id)
  let inOld := fun (k : Nat) => decide (l.frame ≤ k % 2 ^ 48) && decide (k % 2 ^ 48 < l.frame + l.size)
  let s1 : State := s.uids.foldl (fun s u =>
    s.setBlock u { s.block u with waves := (s.block u).waves.map (s.moveWave l (s.block u).ctxn) }) s
  let s2 : State := { s1 with
    writes := s1.writes.map (fun (w : PWrite) => { w with pa := s.movedPa l w.ctxn w.va w.pa }),
    jobs := s1.jobs.map (fun (j : Job) => { j with pins := j.pins.map (s.movePin l) }),
    stale := s1.stale.filter (fun e => !inOld e.1),
    tlb := s1.tlb.filter (fun e => !(e.ctxn == l.ctxn && e.base == l.va)),
    locks := s1.locks.filter (fun x => x != l) }
  s2.performHeld ids

/-! ### Teardown (R387) -/

/-- What a block holds elsewhere goes: places at semaphores, start phases, matrix operations, requests for items and messages. -/
def State.detachBlock (s : State) (uid : Nat) : State :=
  let n := (s.block uid).waves.length
  let s1 := (List.range n).foldl (fun s i => (s.semLeave uid i).dropStart uid i) s
  let mine := fun (k : Nat) => k / 48 / 32 == uid
  { s1 with
    amWaits := s1.amWaits.filter (fun w => w.uid != uid), rcache := s1.rcache.filter (fun x => x.uid != uid),
    mqueue := (s1.mqueue.map (fun e => (e.1, e.2.filter (fun x => x.uid != uid)))).filter (fun e => e.2 != []),
    launches := s1.launches.map (fun e => (e.1, { e.2 with getters := e.2.getters.filter (fun g => g.uid != uid) })),
    observed := s1.observed.filter (fun e => !mine e.1) }

/-- A block goes; a `halt` or `seal` that waits for it goes on. -/
def State.removeBlock (s : State) (uid : Nat) : State :=
  let s1 := (s.wakeTargets uid .kill).detachBlock uid
  { s1 with blocks := s1.blocks.erase uid }

/-- Has a block of a context an atomic that is not performed (R142)? -/
def State.atomicsOpen (s : State) (ctxn : Nat) : Bool :=
  !(s.reqsOf .atomic (fun c q => c == ctxn && q.open_)).isEmpty

/-- A context's jobs retire with ABORTED, and every incomplete instance that one of its blocks joined ends so. -/
def State.abortJobs (s : State) (mine : Nat → Bool) : State :=
  let ops := s.fab.filter (fun o => mine o.ctxn)
  let insts := (ops.map (fun o => (o.pid, o.route, o.inst))).eraseDups
  let s1 := insts.foldl (fun s i => s.endInstance i.1 i.2.1 i.2.2 8) s
  (s1.jobs.filter (fun j => mine j.ctxn)).foldl (fun s j => s.retireJob j 8 0) s1

/-- The four steps of a teardown; the locks of the context go, and what they held is performed. -/
def State.tearCtx (s : State) (ctxn : Nat) : State :=
  let s1 := s.abortJobs (· == ctxn)
  let s2 := (s1.uids.filter (fun u => (s1.block u).ctxn == ctxn)).foldl State.removeBlock s1
  let s3 := { s2 with
    launches := s2.launches.filter (fun e => e.2.ctxn != ctxn),
    tlb := s2.tlb.filter (fun e => e.ctxn != ctxn), walks := s2.walks.filter (fun x => x.2.2.1 != ctxn), locks := s2.locks.filter (fun l => l.ctxn != ctxn),
    inboxes := s2.inboxes.filter (fun e => e.1 / (64 * 256 * 16) != ctxn), tearing := s2.tearing.erase ctxn }
  let s4 := s3.performHeld ((s3.writes.filter (·.held)).map (·.id))
  let w := s4.ctxWord 0 ctxn 0
  s4.setCtxWord 0 ctxn 0 (withField (withField w 17 17 0) 11 0 ((field w 11 0 + 1) % 4096))

/-- CONTEXT_TEARDOWN, once ENABLED has been cleared and every atomic of the context is performed. -/
def execContextTeardown (ctxn : Nat) (s : State) : Out := .next <|
  if !s.tearing.contains ctxn || s.atomicsOpen ctxn then s else s.tearCtx ctxn

end Sys2Proof.Machine
end

