-- ==== Sys2Proof/Machine/Fetch.lean ====
section
/-! DEFINITION. Instruction fetch (R111, R156, R160): one code word at a time, through translation, from the quarter's
instruction cache where it holds the line, else from memory. -/

namespace Sys2Proof.Machine

/-- What a fetch answers: the word, a translation to wait for, or the fault of the fetching thread. -/
inductive Fetched where
  | word (w : W32)
  | miss
  | fault (c : Cause) (ebad : W64)
  deriving DecidableEq, Repr

/-- The quarter's instruction cache line that holds a physical address (R156). -/
def State.codeLine (s : State) (w : Who) (pa : Nat) : Option ICell :=
  s.icache.find? (fun c => c.die == w.die && c.tile == w.tile && c.quarter == w.q && c.line == pa / 192)

/-- The physical word of a fetch: from the instruction cache (R156) or fresh, as `fresh` says. -/
def State.fetchPhys (s : State) (w : Who) (va : Nat) (x : Xlat) (fresh : Bool) : Fetched :=
  if x.maint then .word (romWord ((x.pa - 0x60000) / 4))
  else
    match if fresh then none else s.codeLine w x.pa with
    | some c => .word (BitVec.ofNat 32 (leNat ((c.bytes.drop (x.pa % 192)).take 4)))
    | none =>
      if s.badRange x.pa 4 then .fault .dataError (BitVec.ofNat 64 va)
      else .word (BitVec.ofNat 32 (leNat ((s.recall x.pa 4).peekMem { die := w.die, tile := w.tile } x.pa 4)))

/-- Fetches the word at a VA for a thread of `w`. -/
def State.fetch (s : State) (w : Who) (va : Nat) (fresh : Bool := false) : Fetched :=
  match s.access w .fetch va 4 with
  | .fault c => .fault c (BitVec.ofNat 64 va)
  | .miss => .miss
  | .ok x => s.fetchPhys w va x fresh

/-- A fetch keeps the line that it reads in the quarter's instruction cache, whole (R156); a line with uncorrectable bytes is not kept. -/
def State.keepCode (s : State) (w : Who) (va : Nat) : State :=
  match s.access w .fetch va 4 with
  | .ok x =>
    let l := x.pa / 192
    if x.maint || (s.codeLine w x.pa).isSome || s.badRange (192 * l) 192 then s
    else
      let bs := (s.recall (192 * l) 192).peekMem { die := w.die, tile := w.tile } (192 * l) 192
      { s with icache := ⟨w.die, w.tile, w.q, l, bs⟩ :: s.icache }
  | _ => s

/-- The VA of the packet that holds a word (R160). -/
def packetOf (va : Nat) : Nat := va / 12 * 12

/-- The bytes of a packet as three words, or what stops the fetch. -/
def State.packet (s : State) (w : Who) (p : Nat) : Except Stop (List W32) :=
  match s.fetch w p, s.fetch w (p + 4), s.fetch w (p + 8) with
  | .fault c b, _, _ => .error (.fault c b)
  | _, .fault c b, _ => .error (.fault c b)
  | _, _, .fault c b => .error (.fault c b)
  | .word a, .word b, .word c => .ok [a, b, c]
  | .miss, _, _ => .error (.walk p)
  | _, .miss, _ => .error (.walk (p + 4))
  | _, _, .miss => .error (.walk (p + 8))

/-- Is a target the first word of an issue group (R199 check 5)? A target whose packet cannot be fetched passes: the
arriving thread meets the fault. -/
def State.groupStart (s : State) (w : Who) (t : Nat) : Option Stop :=
  let p := packetOf t
  if t = p then none
  else
    match s.packet w p with
    | .error (.walk va) => some (.walk va)
    | .error _ => none
    | .ok ws =>
      let x := ws.getD ((t - p) / 4 - 1) 0
      if (x.extractLsb' 26 5).toNat = 31 ∨ x.getLsbD 31 then some (.fault .align (BitVec.ofNat 64 t)) else none

end Sys2Proof.Machine
end

