-- ==== Sys2Proof/Machine/Scalar.lean ====
section
/-! DEFINITION. Majors 0 to 5 (08): housekeeping, special registers, scalar arithmetic, constants, branches, jumps and
calls. `svc` stands with the fabric. -/

namespace Sys2Proof.Machine

/-- The instruction word, zero-extended: `ebad` of the faults that name it (R355). -/
def State.wordBad (s : State) : W64 := s.cur.word.zeroExtend 64

/-- ACCESS where the level is below the one needed (R71, R171). -/
def State.levelCheck (s : State) (lv : Level) : Option Stop :=
  need (decide (lv.code ≤ s.bk.level.code)) .access s.wordBad

/-! ### Major 0 -/

/-- `nop` (R185). -/
def execNop (h : Hdr) (s : State) : Out := .next <| perThread h s (fun _ => none) (fun _ s => s)

/-- The waves of a quarter of a tile, as (uid, wid). -/
def State.wavesOn (s : State) (die tile q : Nat) : List (Nat × Nat) :=
  s.uids.flatMap fun u =>
    let b := s.block u
    if b.die != die || b.tile != tile || !b.resident then []
    else ((List.range b.waves.length).filter (fun i => (s.wave u i).quarter == q && !(s.wave u i).ended)).map (fun i => (u, i))

/-- Is a pending wave of a quarter ready (R44)? -/
def State.pendingReady (s : State) (die tile q : Nat) : Bool :=
  (s.wavesOn die tile q).any (fun e => !(s.wave e.1 e.2).active && (s.wave e.1 e.2).readySince.isSome)

/-- `nap` (R186, R44): with a ready pending wave the executing wave moves to the pending set, ready from now. -/
def execNap (_h : Hdr) (s : State) : Out := .next <|
  waveLevel s none fun s =>
    if s.pendingReady s.bk.die s.bk.tile s.pre.quarter then
      s.setW { s.wv with active := false, readySince := some s.clk, readyLast := true }
    else s

/-- `exit` (R187). -/
def execExitT (h : Hdr) (s : State) : Out := .next <|
  perThread h s (fun _ => none) fun m s =>
    let s1 := s.setW (s.wv.endThreads m)
    if s1.wv.ended then s1.barrierTry s1.cur.uid else s1

/-- `brk` and `trap` (R188): every word of the group takes effect, then the wave stops for the trap. In its skid a wave
stops in front of it (R202). -/
def trapOp (h : Hdr) (c : Cause) (n : BitVec 12) (s : State) : State :=
  if s.wv.skidding && (lanesOf s.cur.lanes).any (h.guard s.pre) then s.stopSkid
  else
    perThread h s (fun _ => none) fun m s =>
      match lanesOf m with
      | [] => s
      | L :: _ => s.raiseTrap c L (BitVec.ofNat 64 (n.toNat + L * 2 ^ 12))

def execBrk (h : Hdr) (n : BitVec 12) (s : State) : Out := .next <| trapOp h .breakpoint n s
def execTrapN (h : Hdr) (n : BitVec 12) (s : State) : Out := .next <| trapOp h .softTrap n s

/-- A lane-held special register (R71). -/
def Wave.laneSr (w : Wave) (n L : Nat) : W32 :=
  match n with
  | 2 => BitVec.ofNat 32 L
  | 6 => w.sdiOf L
  | _ => w.tstatOf L

/-- A special register of a wave (R71), as it stood before the clock. -/
def State.waveSr (s : State) (n : Nat) : W64 :=
  let w := s.pre
  let b := s.bk
  if b.die = 64 ∧ (n = 3 ∨ n = 4 ∨ n = 9) then Config.rimValue b.tile n
  else
    match n with
    | 0 => BitVec.ofNat 64 s.cur.wid
    | 1 => BitVec.ofNat 64 b.bid
    | 3 => BitVec.ofNat 64 (s.vcidAt b.die b.tile b.pid)
    | 4 => BitVec.ofNat 64 ((s.dieidOf b.pid b.die).getD 0)
    | 5 => w.wclk
    | 7 => w.seed
    | 8 => BitVec.ofNat 64 s.time
    | 9 => BitVec.ofNat 64 (s.grade b.die b.tile w.quarter)
    | 10 => w.fpctl.zeroExtend 64
    | 12 => w.cstk
    | 32 => w.ecause.zeroExtend 64
    | 33 => w.epc
    | 34 => w.ebad
    | 35 => BitVec.ofNat 64 w.skid
    | _ => BitVec.ofNat 64 (w.idx (n - 16))

/-- `srd` (R189): a lane-held register into a vector register, any other into a scalar register; numbers 32 to 35 at
level S and above. -/
def execSrd (h : Hdr) (d a : BitVec 6) (s : State) : Out := .next <|
  if laneHeld a.toNat then vecOp h s (s.pre.op d 1) [] (fun L => [s.pre.laneSr a.toNat L])
  else
    waveLevel s (if a.toNat ≥ 32 then s.levelCheck .s else none)
      (fun s => s.setW (s.wv.setS d (s.waveSr a.toNat)))

/-- Bits of `cstk` that `swr` may set (R74). -/
def cstkMask : W64 := 0x07FFFFFFFFFFF000

/-- What `swr` checks (R190): REG_BOUNDS for an index register, ACCESS for `cstk` while entries are in memory. -/
def State.swrCheck (s : State) (n : Nat) (v : W64) : Option Stop :=
  if 16 ≤ n then need (decide (v.toNat < 1024)) .regBounds (BitVec.ofNat 64 (v.toNat % 2 ^ 32))
  else if n = 12 then need (!(lanesOf s.pre.live).any (fun L => s.pre.memDepth.get L 0 != 0)) .access v
  else none

/-- What `swr` writes (R190): a reserved bit makes the write have no effect, and it is logged. -/
def State.swrWrite (s : State) (n : Nat) (v : W64) : State :=
  if 16 ≤ n then s.setW { s.wv with index := s.wv.index.set (n - 16) v.toNat 0 }
  else if n = 12 then
    if v &&& ~~~ cstkMask = 0 then s.setW { s.wv with cstk := v } else s.logIgnored 0
  else
    let x := v.toNat % 2 ^ 32
    if x < 16 ∧ x % 8 ≤ 4 then s.setW { s.wv with fpctl := BitVec.ofNat 32 x } else s.logIgnored 0

/-- `swr` (R190). -/
def execSwr (_h : Hdr) (d a : BitVec 6) (s : State) : Out := .next <|
  let v := s.pre.sreg a
  waveLevel s (s.swrCheck d.toNat v) (fun s => s.swrWrite d.toNat v)

/-- `clkadd` (R191): sA and the count of the instruction, the sum no more than 2^64 − 1. -/
def execClkadd (_h : Hdr) (a : BitVec 6) (s : State) : Out := .next <|
  waveLevel s none fun s => s.setW (s.wv.count (s.pre.sreg a).toNat)

/-! ### Scalar arithmetic (R193) -/

/-- A wave-level instruction that writes one scalar register. -/
def scalarOp (s : State) (d : BitVec 6) (v : W64) : State := waveLevel s none (fun s => s.setW (s.wv.setS d v))

/-- Signed division toward zero, with its corners (R193). -/
def divS (a b : W64) : W64 := if b = 0 then BitVec.allOnes 64 else BitVec.ofInt 64 (Int.tdiv a.toInt b.toInt)
def remS (a b : W64) : W64 := if b = 0 then a else BitVec.ofInt 64 (a.toInt - b.toInt * Int.tdiv a.toInt b.toInt)
def divU (a b : W64) : W64 := if b = 0 then BitVec.allOnes 64 else BitVec.ofNat 64 (a.toNat / b.toNat)
def remU (a b : W64) : W64 := if b = 0 then a else BitVec.ofNat 64 (a.toNat % b.toNat)

/-- The number of bits above the highest 1 of an `n`-bit value, `n` for zero. -/
def clzN (n x : Nat) : Nat := if x = 0 then n else n - 1 - x.log2

/-- The number of bits below the lowest 1, `n` for zero. -/
def ctzN (n x : Nat) : Nat := ((List.range n).find? (fun i => x.testBit i)).getD n

/-- The number of 1 bits. -/
def popN (n x : Nat) : Nat := ((List.range n).filter (fun i => x.testBit i)).length

/-- Bit i of the result is bit n − 1 − i. -/
def revN (n x : Nat) : Nat := (List.range n).foldl (fun r i => if x.testBit i then r + 2 ^ (n - 1 - i) else r) 0

/-- The carry-less product (R193, R205): the XOR over every set bit i of b of a shifted left by i. -/
def clmulN (n a b : Nat) : Nat := (List.range n).foldl (fun r i => if b.testBit i then r ^^^ (a * 2 ^ i) else r) 0

def shlW (a b : W64) : W64 := a <<< min b.toNat 64
def shrW (a b : W64) : W64 := a >>> min b.toNat 64
def sraW (a b : W64) : W64 := a.sshiftRight (min b.toNat 64)
def minW (a b : W64) : W64 := if a.toInt ≤ b.toInt then a else b
def maxW (a b : W64) : W64 := if a.toInt ≤ b.toInt then b else a

/-- a[w−1:0] sign-extended, w − 1 in a field. -/
def sextW (a : W64) (wm1 : Nat) : W64 := (a <<< (63 - wm1)).sshiftRight (63 - wm1)
def zextW (a : W64) (wm1 : Nat) : W64 := (a <<< (63 - wm1)) >>> (63 - wm1)

/-- `cmp` and `cmpi`: the difference, and the condition codes (R60). -/
def compareOp (s : State) (d : BitVec 6) (a b : W64) : State :=
  waveLevel s none (fun s => s.setW ((s.wv.setS d (a - b)).setCodes a b))

def execAdd (_h : Hdr) (d a b : BitVec 6) (s : State) : Out := .next <|
  scalarOp s d ((s.pre.sreg a) + (s.pre.sreg b))
def execSub (_h : Hdr) (d a b : BitVec 6) (s : State) : Out := .next <|
  scalarOp s d ((s.pre.sreg a) - (s.pre.sreg b))
def execMul (_h : Hdr) (d a b : BitVec 6) (s : State) : Out := .next <|
  scalarOp s d ((s.pre.sreg a) * (s.pre.sreg b))
def execMulh (_h : Hdr) (d a b : BitVec 6) (s : State) : Out := .next <|
  scalarOp s d (BitVec.ofInt 64 ((s.pre.sreg a).toInt * (s.pre.sreg b).toInt / 2 ^ 64))
def execMulhn (_h : Hdr) (d a b : BitVec 6) (s : State) : Out := .next <|
  scalarOp s d (BitVec.ofNat 64 ((s.pre.sreg a).toNat * (s.pre.sreg b).toNat / 2 ^ 64))
def execDiv (_h : Hdr) (d a b : BitVec 6) (s : State) : Out := .next <|
  scalarOp s d (divS (s.pre.sreg a) (s.pre.sreg b))
def execDivn (_h : Hdr) (d a b : BitVec 6) (s : State) : Out := .next <|
  scalarOp s d (divU (s.pre.sreg a) (s.pre.sreg b))
def execRem (_h : Hdr) (d a b : BitVec 6) (s : State) : Out := .next <|
  scalarOp s d (remS (s.pre.sreg a) (s.pre.sreg b))
def execRemn (_h : Hdr) (d a b : BitVec 6) (s : State) : Out := .next <|
  scalarOp s d (remU (s.pre.sreg a) (s.pre.sreg b))
def execAndS (_h : Hdr) (d a b : BitVec 6) (s : State) : Out := .next <|
  scalarOp s d ((s.pre.sreg a) &&& (s.pre.sreg b))
def execOrS (_h : Hdr) (d a b : BitVec 6) (s : State) : Out := .next <|
  scalarOp s d ((s.pre.sreg a) ||| (s.pre.sreg b))
def execXorS (_h : Hdr) (d a b : BitVec 6) (s : State) : Out := .next <|
  scalarOp s d ((s.pre.sreg a) ^^^ (s.pre.sreg b))
def execAndn (_h : Hdr) (d a b : BitVec 6) (s : State) : Out := .next <|
  scalarOp s d ((s.pre.sreg a) &&& ~~~ (s.pre.sreg b))
def execShl (_h : Hdr) (d a b : BitVec 6) (s : State) : Out := .next <|
  scalarOp s d (shlW (s.pre.sreg a) (s.pre.sreg b))
def execShr (_h : Hdr) (d a b : BitVec 6) (s : State) : Out := .next <|
  scalarOp s d (shrW (s.pre.sreg a) (s.pre.sreg b))
def execSra (_h : Hdr) (d a b : BitVec 6) (s : State) : Out := .next <|
  scalarOp s d (sraW (s.pre.sreg a) (s.pre.sreg b))
def execRol (_h : Hdr) (d a b : BitVec 6) (s : State) : Out := .next <|
  scalarOp s d ((s.pre.sreg a).rotateLeft ((s.pre.sreg b).toNat % 64))
def execRor (_h : Hdr) (d a b : BitVec 6) (s : State) : Out := .next <|
  scalarOp s d ((s.pre.sreg a).rotateRight ((s.pre.sreg b).toNat % 64))
def execMinS (_h : Hdr) (d a b : BitVec 6) (s : State) : Out := .next <|
  scalarOp s d (minW (s.pre.sreg a) (s.pre.sreg b))
def execMaxS (_h : Hdr) (d a b : BitVec 6) (s : State) : Out := .next <|
  scalarOp s d (maxW (s.pre.sreg a) (s.pre.sreg b))
def execMinn (_h : Hdr) (d a b : BitVec 6) (s : State) : Out := .next <|
  scalarOp s d (if (s.pre.sreg a).toNat ≤ (s.pre.sreg b).toNat then (s.pre.sreg a) else (s.pre.sreg b))
def execMaxn (_h : Hdr) (d a b : BitVec 6) (s : State) : Out := .next <|
  scalarOp s d (if (s.pre.sreg a).toNat ≤ (s.pre.sreg b).toNat then (s.pre.sreg b) else (s.pre.sreg a))
def execClmul (_h : Hdr) (d a b : BitVec 6) (s : State) : Out := .next <|
  scalarOp s d (BitVec.ofNat 64 (clmulN 64 (s.pre.sreg a).toNat (s.pre.sreg b).toNat))
def execClmulh (_h : Hdr) (d a b : BitVec 6) (s : State) : Out := .next <|
  scalarOp s d (BitVec.ofNat 64 (clmulN 64 (s.pre.sreg a).toNat (s.pre.sreg b).toNat / 2 ^ 64))
def execClz (_h : Hdr) (d a : BitVec 6) (s : State) : Out := .next <| scalarOp s d (BitVec.ofNat 64 (clzN 64 (s.pre.sreg a).toNat))
def execCtz (_h : Hdr) (d a : BitVec 6) (s : State) : Out := .next <| scalarOp s d (BitVec.ofNat 64 (ctzN 64 (s.pre.sreg a).toNat))
def execPopc (_h : Hdr) (d a : BitVec 6) (s : State) : Out := .next <| scalarOp s d (BitVec.ofNat 64 (popN 64 (s.pre.sreg a).toNat))
def execBrev (_h : Hdr) (d a : BitVec 6) (s : State) : Out := .next <| scalarOp s d (BitVec.ofNat 64 (revN 64 (s.pre.sreg a).toNat))
def execMov (_h : Hdr) (d a : BitVec 6) (s : State) : Out := .next <| scalarOp s d (s.pre.sreg a)
def execSext (_h : Hdr) (d a b : BitVec 6) (s : State) : Out := .next <| scalarOp s d (sextW (s.pre.sreg a) b.toNat)
def execZext (_h : Hdr) (d a b : BitVec 6) (s : State) : Out := .next <| scalarOp s d (zextW (s.pre.sreg a) b.toNat)
def execCmp (_h : Hdr) (d a b : BitVec 6) (s : State) : Out := .next <| compareOp s d (s.pre.sreg a) (s.pre.sreg b)

/-! ### Scalar immediates (R194) and constants (R195) -/

/-- The immediate of format I as a 64-bit operand (R168). -/
def imm64 (h : Hdr) (i : BitVec 11) : W64 := BitVec.ofInt 64 (immI h i)

def execAddi (h : Hdr) (d a : BitVec 6) (i : BitVec 11) (s : State) : Out := .next <| scalarOp s d (s.pre.sreg a + imm64 h i)
def execAndi (h : Hdr) (d a : BitVec 6) (i : BitVec 11) (s : State) : Out := .next <| scalarOp s d (s.pre.sreg a &&& imm64 h i)
def execOri (h : Hdr) (d a : BitVec 6) (i : BitVec 11) (s : State) : Out := .next <| scalarOp s d (s.pre.sreg a ||| imm64 h i)
def execXori (h : Hdr) (d a : BitVec 6) (i : BitVec 11) (s : State) : Out := .next <| scalarOp s d (s.pre.sreg a ^^^ imm64 h i)
def execShli (h : Hdr) (d a : BitVec 6) (i : BitVec 11) (s : State) : Out := .next <| scalarOp s d (shlW (s.pre.sreg a) (imm64 h i))
def execShri (h : Hdr) (d a : BitVec 6) (i : BitVec 11) (s : State) : Out := .next <| scalarOp s d (shrW (s.pre.sreg a) (imm64 h i))
def execSrai (h : Hdr) (d a : BitVec 6) (i : BitVec 11) (s : State) : Out := .next <| scalarOp s d (sraW (s.pre.sreg a) (imm64 h i))
def execCmpi (h : Hdr) (d a : BitVec 6) (i : BitVec 11) (s : State) : Out := .next <| compareOp s d (s.pre.sreg a) (imm64 h i)

/-- `li` (R195). -/
def execLi (h : Hdr) (d : BitVec 6) (i : BitVec 20) (s : State) : Out := .next <| scalarOp s d (BitVec.ofInt 64 (immL h i))

/-! ### Branches (R172, R173, R196, R197) -/

/-- The target of format B: the VA of the branch's own packet + 12 × offset. -/
def State.target (s : State) (h : Hdr) (o : BitVec 20) : Int := (packetOf s.cur.wordPc : Int) + 12 * immL h o

/-- PAGE_FAULT for a target outside the 56-bit space. -/
def targetCheck (t : Int) : Option Stop := need (decide (0 ≤ t ∧ t < 2 ^ 56)) .pageFault (BitVec.ofInt 64 t)

/-- FLOW_SEALED (R174). -/
def State.flowCheck (s : State) : Option Stop := need (!s.curLaunch.rcd.sealedFlow) .flowSealed s.wordBad

/-- `bt` and `btn`: taken where the predicate is `sense`. With U = 0 each thread for itself; with U = 1 the wave as a
whole, once every live thread reads the same value (R173). FLOW_SEALED comes before the convergence wait (R174). -/
def branchOp (h : Hdr) (sense u : Bool) (p : BitVec 3) (o : BitVec 20) (s : State) : State :=
  let t := s.target h o
  let taken := fun L => laneIn (s.pre.pred p) L == sense
  if !u then
    perThread h s (fun L => firstStop [s.flowCheck, targetCheck t, predCheck s.pre L [p]])
      (fun m s => s.setW (s.wv.setPcs (maskOf (fun L => laneIn m L && taken L)) t.toNat))
  else if s.curLaunch.rcd.sealedFlow then perThread h s (fun _ => s.flowCheck) (fun _ s => s)
  else
    let live := lanesOf s.pre.live
    let same := live.all taken || live.all (fun L => !taken L)
    let bad := BitVec.ofNat 64 ((s.pre.pred p &&& s.pre.live).toNat)
    waveLevel s (firstStop [targetCheck t, firstStop (live.map (fun L => predCheck s.pre L [p])), need same .uniformity bad])
      (fun s => if live.all taken then s.setW (s.wv.setPcs s.pre.live t.toNat) else s)

def execBt (h : Hdr) (u : Bool) (p : BitVec 3) (o : BitVec 20) (s : State) : Out := .next <| branchOp h true u p o s
def execBtn (h : Hdr) (u : Bool) (p : BitVec 3) (o : BitVec 20) (s : State) : Out := .next <| branchOp h false u p o s

/-- `bw` (R196). -/
def execBw (h : Hdr) (q : BitVec 3) (o : BitVec 20) (s : State) : Out := .next <|
  let t := s.target h o
  waveLevel s (targetCheck t)
    (fun s => if s.pre.cond q then s.setW (s.wv.setPcs s.pre.live t.toNat) else s)

/-- Pushes a return address, spilling the oldest hardware entry when 8 are there: a store after the lane's older loads of those bytes (R76,
R131). -/
def State.push (s : State) (L ret : Nat) : State :=
  let st := s.wv.stack.get L []
  let j := s.wv.memDepth.get L 0
  let s1 :=
    if s.wv.hwDepth L < 8 then s
    else
      let a := s.wv.stackAddr L j
      match s.access s.who .spill a 8 with
      | .ok x =>
        let s0 := s.fixLoads s.cur.uid s.cur.wid L (fun r => r.reads x.pa 8)
        let s2 := (s0.recall x.pa 8).send (s.view L) 0 s.bk.ctxn a x.pa (leBytes (st.getD j 0) 8)
          (s0.depsOf (s.view L).key) false
        s2.setW { s2.wv with memDepth := s2.wv.memDepth.set L (j + 1) 0 }
      | _ => s
  s1.setW { s1.wv with stack := s1.wv.stack.set L (st ++ [ret]) [] }

/-- Each lane pushes its return address, the first word after the group (R165), and goes to its target. -/
def State.callTo (s : State) (m : Lanes) (t : Nat → Nat) : State :=
  (lanesOf m).foldl (fun s L => let s1 := s.push L s.cur.next; s1.setW (s1.wv.setPc L (t L))) s

/-- `call` (R173, R196): the target is checked before the push. -/
def execCall (h : Hdr) (o : BitVec 20) (s : State) : Out := .next <|
  let t := s.target h o
  orderedBy h s (s.ordPush h) (fun L => firstStop [targetCheck t, s.pushCheck L]) (fun m s => s.callTo m (fun _ => t.toNat))

/-! ### Jumps, indirect calls and returns (R198, R199) -/

/-- Checks 2 and 3 of R199. -/
def jumpCheck (t : Nat) : Option Stop :=
  firstStop [need (decide (t < 2 ^ 56)) .pageFault (BitVec.ofNat 64 t), need (t % 4 == 0) .align (BitVec.ofNat 64 t)]

/-- The 64-bit target of a lane. -/
def Wave.jumpTarget (w : Wave) (a : BitVec 6) (L : Nat) : Nat :=
  (w.vreg (w.vnum a) L).toNat + (w.vreg (w.vnum a + 1) L).toNat * 2 ^ 32

/-- `jr` (R198). FLOW_SEALED is raised whatever the guard (R174, R183). -/
def execJr (h : Hdr) (a : BitVec 6) (x : Bool) (s : State) : Out := .next <|
  if s.curLaunch.rcd.sealedFlow then perThread {} s (fun _ => s.flowCheck) (fun _ s => s)
  else perThread h s (fun L => firstStop [opCheck s.pre L [] [s.pre.op a 2 x],
      jumpCheck (s.pre.jumpTarget a L), s.groupStart s.who (s.pre.jumpTarget a L)])
    (fun m s => s.setW ((lanesOf m).foldl (fun w L => w.setPc L (s.pre.jumpTarget a L)) s.wv))

/-- `callr` (R198). -/
def execCallr (h : Hdr) (a : BitVec 6) (x : Bool) (s : State) : Out := .next <|
  if s.curLaunch.rcd.sealedFlow then perThread {} s (fun _ => s.flowCheck) (fun _ s => s)
  else orderedBy h s (s.ordPush h) (fun L => firstStop [opCheck s.pre L [] [s.pre.op a 2 x],
      jumpCheck (s.pre.jumpTarget a L), s.pushCheck L, s.groupStart s.who (s.pre.jumpTarget a L)])
    (fun m s => s.callTo m (fun L => s.pre.jumpTarget a L))

/-- The abort of a `ret` at the depth that the outermost `txb` recorded (R199, R247). -/
def State.retAbort (s : State) (L : Nat) : Option Stop :=
  match s.wv.txOf L with
  | none => none
  | some t => if (s.wv.stack.get L []).length = t.depth then some (.abort 7 0xFF) else none

/-- `ret` (R198, R199). -/
def execRet (h : Hdr) (s : State) : Out := .next <|
  perThread h s (fun L => firstStop [s.retAbort L, s.popCheck L, jumpCheck (s.wv.top L), s.groupStart s.who (s.wv.top L)])
    (fun m s => s.setW ((lanesOf m).foldl (fun w L => (w.setPc L (w.top L)).pop L) s.wv))

end Sys2Proof.Machine
end

