-- ==== Sys2Proof/Machine/Priv.lean ====
section
/-! DEFINITION. Major 30 (16 R369 to R380): the privileged instructions. Each is wave-level; the level is checked first, then the
handle that an operand names. -/

namespace Sys2Proof.Machine

/-! ### Shared checks and ends -/

def State.privCheck (s : State) : Option Stop := s.levelCheck .s

/-- A context number of another partition is refused below level M (R371, R416). -/
def State.ownCtx (s : State) (ctxn : Nat) : Bool := s.bk.level == .m || s.ctxPid ctxn == some s.bk.pid

/-- A block handle (R362): stale, or of a context of another partition. -/
def State.handleCheck (s : State) (h : W64) : Option Stop :=
  need ((s.named h).isSome && s.ownCtx (field h 43 32)) .access h

/-- The block that a handle names. -/
def State.namedBlock (s : State) (h : W64) : Nat := (s.named h).getD 0

def State.targetSt (s : State) (h : W64) : BlockSt := (s.block (s.namedBlock h)).state

/-- A release by every live thread at a scope is complete. -/
def State.allReleased (s : State) (scope : Nat) : Bool := (lanesOf s.pre.live).all (fun L => s.releasedLane L scope)

/-- Has this instruction begun and waits, or has what it waits for come? -/
def Waiting.begun : Waiting → Bool
  | .target _ _ => true | .targetDone => true | _ => false

/-- The checks of an instruction that waits for a stop are made once, when it begins. -/
def State.onceCheck (s : State) (chk : Option Stop) : Option Stop := if s.wv.waiting.begun then none else chk

/-- The instruction completes. -/
def State.waitOver (s : State) : State := (s.setW { s.wv with waiting := .none }).countLive

/-- The instruction begins to wait for the stop of a block. -/
def State.waitTarget (s : State) (t : Nat) (sealing : Bool) : State :=
  let s1 := (s.setW { s.wv with waiting := .target t sealing }).hold s.cur.lanes
  { s1 with cur := { s1.cur with acted := true } }

/-! ### `resume`, `rfe` (R372) -/

def State.resumeCheck (s : State) (h : W64) : Option Stop :=
  firstStop [s.privCheck, s.handleCheck h, need (s.targetSt h == .halted || s.targetSt h == .sealedImg) .access h,
    inTurn (s.allReleased 3)]

def execResume (_h : Hdr) (a : BitVec 6) (s : State) : Out := .next <|
  let h := s.pre.sreg a
  waveLevel s (s.resumeCheck h) fun s => (s.engRelease 3).resumeBlock (s.namedBlock h)

/-- `rfe`: `resume`, then every live thread of the wave ends. -/
def execRfe (_h : Hdr) (a : BitVec 6) (s : State) : Out := .next <|
  let h := s.pre.sreg a
  waveLevel s (s.resumeCheck h) fun s =>
    let s1 := (s.engRelease 3).resumeBlock (s.namedBlock h)
    (s1.setW (s1.wv.endThreads s1.wv.live)).barrierTry s1.cur.uid

/-! ### `ctxrd`, `ctxwr` (R373) -/

/-- The size of the image that PART names, if the block has it. -/
def Block.partSize (b : Block) (part : Nat) : Option Nat :=
  if part = 0 then some (blockImageSize b.spmb)
  else (b.waves[part - 1]?).map (fun w => waveImageSize w.vregs w.accN)

/-- The faults of an image access. -/
def State.imageCheck (s : State) (h x : W64) (write : Bool) : Option Stop :=
  let b := s.block (s.namedBlock h)
  let off := field x 31 0
  let inPart := match b.partSize (field x 47 40) with
    | none => false
    | some n => off % 8 == 0 && decide (off + 8 ≤ n)
  firstStop [s.privCheck, s.handleCheck h, need (!(s.bk.level == .m && s.imageSealed b.pid b.ctxn)) .access h,
    need (field x 63 48 == 0 && field x 39 32 == 0 && inPart) .access x,
    need (b.state != .running && b.state != .swapped && !(write && b.state == .lost)) .access h]

/-- The word that `ctxrd` reads: of a LOST block, what memory held when its tile failed (R428; 0 where no page holds it), with its STATE and HELD;
of a block that is on no core, what memory holds of the fields that software may write. -/
def State.imageWordOf (s : State) (b : Block) (part off : Nat) : W64 :=
  if b.state = .lost ∧ ¬(part = 0 ∧ (off = 0 ∨ off = 0x10)) ∧ ¬(part = 1 ∧ b.delivered = true ∧ (off = 0x10 ∨ off = 0x20)) then
    ((s.getImageWord b part off).getD none).getD 0
  else if b.resident then b.partWord part off
  else (s.loadWord b part off).partWord part off

/-- Does a `ctxrd` meet an uncorrectable word (R367, R481)? -/
def State.imageBad (s : State) (h x : W64) : Option Stop :=
  let b := s.block (s.namedBlock h)
  let cached := match b.lineOf (field x 47 40) (field x 31 0) with
    | some r => s.lineCached b.uid (field x 47 40 - 1) r
    | none => false
  need (b.resident || cached || !s.imageWordBad b (field x 47 40) (field x 31 0)) .dataError
    (BitVec.ofNat 64 (b.partVa (field x 47 40) (field x 31 0)))

def execCtxrd (_h : Hdr) (d a b : BitVec 6) (s : State) : Out := .next <|
  let h := s.pre.sreg a
  let x := s.pre.sreg b
  waveLevel s (firstStop [s.imageCheck h x false, s.imageBad h x]) fun s =>
    s.setW (s.wv.setS d (s.imageWordOf (s.block (s.namedBlock h)) (field x 47 40) (field x 31 0)))

/-- Would a write of FEBITS take a lane from an atomic that is not yet performed? It then waits: the atomic is performed
exactly once (R142). -/
def Block.fillsAtomic (b : Block) (part off : Nat) (x : W64) : Bool :=
  match b.waves[part - 1]? with
  | none => false
  | some w =>
    part != 0 && decide (0x1680 ≤ off) && decide (off < w.v0At) && w.slots.any fun e =>
      e.2.kind == .atomic && e.2.covers ((off - 0x1680) / 8) &&
        e.2.reqs.any (fun q => q.val.isNone && !q.err && laneIn (w.empty.get ((off - 0x1680) / 8) 0) q.lane && x.getLsbD q.lane)

def execCtxwr (_h : Hdr) (d a b : BitVec 6) (s : State) : Out := .next <|
  let h := s.pre.sreg a
  let x := s.pre.sreg b
  let v := s.pre.sreg d
  let part := field x 47 40
  let off := field x 31 0
  waveLevel s
    (firstStop [s.imageCheck h x true, await (!(s.block (s.namedBlock h)).fillsAtomic part off v)]) fun s =>
    let b := s.block (s.namedBlock h)
    let r := b.putPart part off v
    let s0 := s.setBlock (s.namedBlock h) r.1
    let s1 := match r.1.lineOf part off with
      | some n => s0.saveLine (s.namedBlock h) (part - 1) n
      | none => s0.saveChanges b part
    if r.2 then s1.logIgnored 0 else s1

/-! ### `tlbinv` (R374, R389) -/

/-- `tlbinv`: a job of a SYS context. -/
def execTlbinv (_h : Hdr) (d a b : BitVec 6) (s : State) : Out := .next <|
  let va := s.pre.sreg a
  let x := s.pre.sreg b
  let kind := field x 41 40
  let c := field x 31 20
  let h := field x 15 0
  waveLevel s
    (firstStop [s.privCheck, need (field x 63 42 == 0 && field x 39 32 == 0 && field x 19 16 == 0 && decide (kind ≤ 2)) .access x,
      s.ctxCheck h .sys, need (s.ownCtx c && (s.ctxPid c).isSome) .access x,
      need (if kind = 0 then decide (va.toNat < 2 ^ 56) else va == 0) .access va]) fun s =>
    let s := s.engRelease 3
    if s.retries s.bk.pid s.bk.ctxn then s.setW (s.wv.setS d 0)
    else
      let s1 := s.accept h 3 (.tlbinv kind (va.toNat / 2 ^ 17 * 2 ^ 17) c)
      s1.setW (s1.wv.setS d (BitVec.ofNat 64 (s1.engAt s1.bk.ctxn h).issued))

/-! ### `psrd`, `pswr` (R369, R375) -/

def saSpace (x : W64) : Nat := field x 63 56
def saCtx (x : W64) : Nat := field x 43 32
def saIndex (x : W64) : Nat := field x 31 0

/-- Is an index in the range of its table? -/
def indexOk (space i : Nat) : Bool :=
  match space with
  | 0 => decide (i ≤ 3)
  | 1 => decide (1 ≤ i) && decide (i ≤ 63)
  | 2 => decide (i ≤ 255)
  | 3 => decide (i ≤ 1023)
  | 4 => decide (i ≤ 15)
  | 5 => decide (i ≤ 4)
  | _ => false

/-- The faults of a state address. -/
def State.addrCheck (s : State) (x : W64) : Option Stop :=
  need (indexOk (saSpace x) (saIndex x) && field x 55 44 == 0 && s.ownCtx (saCtx x)) .access x

/-- Bits of a word that are in no field. -/
def reservedMask (space i : Nat) (x : W64) : Nat :=
  match space, i with
  | 0, 0 => bits 63 19 + bits 15 12
  | 0, 1 => bits 63 56 + bits 11 0
  | 0, 3 => bits 63 48 + bits 16 1
  | 0, _ => 0
  | 1, _ => bits 59 56
  | 2, _ => bits 59 18
  | 3, _ => bits 59 20 + bits 5 0 + (if field x 62 60 = 2 then 0 else bits 19 6)
  | 4, _ => bits 63 13
  | _, 4 => bits 63 28 + bits 15 2
  | _, _ => bits 60 56

/-- What an entry of the semaphore table must name (R326); EXT needs its feature (R446). -/
def State.semEntryOk (s : State) (ctxn : Nat) (x : W64) : Bool :=
  match s.ctxPid ctxn with
  | none => false
  | some pid =>
    match s.dieOf pid (field x 17 12) with
    | none => false
    | some d => s.semPid d (field x 11 0) == some pid

/-- What an engine-context entry must name. -/
def State.engEntryOk (s : State) (ctxn : Nat) (x : W64) : Bool :=
  decide (field x 62 60 ≤ 4) &&
    (field x 62 60 != 2 || (s.feature 2 && ((s.ctxPid ctxn).bind (fun pid => (s.dieOf pid (field x 19 14)).bind
      (fun d => s.tileOfVcid d pid (field x 13 6)))).isSome))

/-- Has a context jobs in flight? -/
def State.jobsIn (s : State) (ctxn h : Nat) : Bool := s.jobs.any (fun j => j.ctxn == ctxn && j.handle == h)

/-- What a table refuses of a word besides its reserved bits. -/
def State.wordOk (s : State) (space ctxn i : Nat) (x : W64) : Bool :=
  let old := s.ctxWord space ctxn i
  match space with
  | 0 =>
    i != 0 || ((x.getLsbD 18 == old.getLsbD 18 || !old.getLsbD 17) &&
      (!x.getLsbD 18 || (match s.ctxPid ctxn with
        | none => false
        | some pid => !(s.keysOf pid).isEmpty)))
  | 2 => (!x.getLsbD 63 || s.semEntryOk ctxn x) && (!x.getLsbD 62 || s.feature 8)
  | 3 => (!x.getLsbD 63 || s.engEntryOk ctxn x) && !s.jobsIn ctxn i
  | 4 => decide (x.toNat ≤ 4096)
  | _ => true

/-- The word that `psrd` reads: SEALED of a descriptor tells whether the context is sealed (R367). -/
def State.tableWord (s : State) (space ctxn i : Nat) : W64 :=
  let w := s.ctxWord space ctxn i
  if space = 0 ∧ i = 0 then
    withField w 16 16 (match s.ctxPid ctxn with
      | none => 0
      | some pid => (s.imageSealed pid ctxn).toNat)
  else w

/-- A write of a descriptor's word 0: GEN and SEALED are RO; clearing ENABLED tears the context down, and until that is done a
write that sets it again has no effect and is logged (R387). -/
def State.putDescriptor (s : State) (ctxn : Nat) (x : W64) : State :=
  let old := s.ctxWord 0 ctxn 0
  if s.tearing.contains ctxn && x.getLsbD 17 then s.logIgnored 0
  else
    let new := withField (withField old 17 17 (field x 17 17)) 18 18 (field x 18 18)
    let s1 := s.setCtxWord 0 ctxn 0 new
    let s2 := if old.getLsbD 17 && !x.getLsbD 17 then { s1 with tearing := s1.tearing ++ [ctxn] } else s1
    if field x 11 0 ≠ 0 ∨ x.getLsbD 16 then s2.logIgnored 0 else s2

/-- A write of a table word that has passed its checks. -/
def State.putTable (s : State) (space ctxn i : Nat) (x : W64) : State :=
  if space = 0 ∧ i = 0 then s.putDescriptor ctxn x
  else
    let s1 := s.setCtxWord space ctxn i x
    if space = 3 ∧ x.getLsbD 63 = true ∧ (s.ctxWord 3 ctxn i).getLsbD 63 = false then s1.setEng ctxn i {} else s1

def execPsrd (_h : Hdr) (d a : BitVec 6) (s : State) : Out := .next <|
  let x := s.pre.sreg a
  waveLevel s (firstStop [s.privCheck, s.addrCheck x]) fun s =>
    s.setW (s.wv.setS d (s.tableWord (saSpace x) (saCtx x) (saIndex x)))

def execPswr (_h : Hdr) (a b : BitVec 6) (s : State) : Out := .next <|
  let x := s.pre.sreg a
  let v := s.pre.sreg b
  waveLevel s
    (firstStop [s.privCheck, s.addrCheck x,
      need (v &&& BitVec.ofNat 64 (reservedMask (saSpace x) (saIndex x) v) == 0 &&
        s.wordOk (saSpace x) (saCtx x) (saIndex x) v) .access x,
      inTurn (s.allReleased 2)]) fun s =>
    (s.engRelease 2).putTable (saSpace x) (saCtx x) (saIndex x) v

/-! ### `idle` (R377) -/

/-- Does an inbox of the executing context on the executing core hold a message? -/
def State.anyInbox (s : State) : Bool :=
  s.bk.die != 64 && (List.range 16).any (fun n => !(s.inbox (inboxKey s.bk.ctxn s.myDieid s.myVcid n)).isEmpty)

def execIdle (_h : Hdr) (a : BitVec 6) (s : State) : Out := .next <|
  let t := (s.pre.sreg a).toNat
  waveRaw s (match s.wv.waiting with | .none => s.privCheck | _ => none) fun s =>
    match s.wv.waiting with
    | .targetDone => s.waitOver
    | .idle _ => if s.anyInbox then s.waitOver else s.hold s.cur.lanes
    | _ =>
      if s.anyInbox ∨ t ≤ s.time then s.countLive
      else
        let s1 := (s.setW { s.wv with waiting := .idle t }).hold s.cur.lanes
        { s1 with cur := { s1.cur with acted := true } }

/-- IDLE_TIME_REACHED. -/
def execIdleTimeReached (uid wid : Nat) (s : State) : Out := .next <|
  let w := s.wave uid wid
  match w.waiting with
  | .idle t => if t ≤ s.time then s.setWave uid wid { w with waiting := .targetDone } else s
  | _ => s

/-! ### `rtwr` (R314, R378) -/

/-- The members of a route record, as (parent, `dieid`, `vcid`). -/
def routeMembers (bs : List Byte) (n : Nat) : List (Nat × Nat × Nat) :=
  (List.range n).map (fun m => let x := recW bs (0x30 + 8 * m); (field x 29 16, field x 13 8, field x 7 0))

/-- Does a member reach the root by its parents within `n` steps? -/
def reachesRoot (ms : List (Nat × Nat × Nat)) (root : Nat) : Nat → Nat → Bool
  | 0, m => m == root
  | n + 1, m => m == root || reachesRoot ms root n (ms.getD m (0, 0, 0)).1

/-- May the chanter accept a route record (R314)? -/
def State.routeOk (s : State) (pid : Nat) (bs : List Byte) : Bool :=
  let rt := recAt bs 0 2
  let n := recAt bs 2 2
  let root := recAt bs 4 2
  let ms := routeMembers bs n
  decide (rt ≤ 63) && decide (1 ≤ n) && decide (n ≤ 9216) && decide (root < n) && recZero bs 6 42 &&
    (List.range n).all (fun m => field (recW bs (0x30 + 8 * m)) 63 30 == 0 && field (recW bs (0x30 + 8 * m)) 15 14 == 0) &&
    (ms.map (·.2)).eraseDups.length == n &&
    ms.all (fun m => ((s.dieOf pid m.2.1).bind (fun d => s.tileOfVcid d pid m.2.2)).isSome) &&
    ms.zipIdx.all (fun e => if e.2 = root then e.1.1 == 0x3FFF else e.1.1 != 0x3FFF && decide (e.1.1 < n)) &&
    (List.range n).all (reachesRoot ms root n) &&
    ((s.route pid rt).state == .failed || !s.fab.any (fun o => o.pid == pid && o.route == rt))

/-- Has the image of the chanter passed its check (R474)? -/
def State.verified (s : State) : Bool := (s.reg 0x300A8).getLsbD 1

/-- Have the rim cores stopped on a failed image line (R479)? What needs the chanter then waits. -/
def State.chanterHalted (s : State) : Bool := (s.reg 0x300A8).getLsbD 2

/-- Is a partition in the quiesce protocol (R421)? -/
def State.quiescing (s : State) (pid : Nat) : Bool := decide (2 ≤ s.qstate pid)

def execRtwr (_h : Hdr) (d a : BitVec 6) (s : State) : Out := .next <|
  let at_ := opBuf (s.pre.sreg a)
  let n := recAt (s.bk.bufBytes at_.1 (at_.2 + 2) 2) 0 2
  waveLevel s
    (firstStop [s.privCheck, s.bk.recCheck at_.1 at_.2 48, s.bk.recCheck at_.1 at_.2 (48 + 8 * n), await (!s.chanterHalted)]) fun s =>
    let bs := s.bk.bufBytes at_.1 at_.2 (48 + 8 * n)
    if s.quiescing s.bk.pid then s.setW (s.wv.setS d 2)
    else if s.routeOk s.bk.pid bs then
      let r : Route := { state := .ready, root := recAt bs 4 2, members := routeMembers bs n }
      let s1 := s.setRoute s.bk.pid (recAt bs 0 2) (s.layPaths s.bk.pid r)
      s1.setW (s1.wv.setS d 0)
    else s.setW (s.wv.setS d 1)

/-! ### `halt`, `seal` (R376) -/

/-- `halt` on a block: it waits for the stop of a RUNNING block, turning a pre-emption, or the stop of a reset, into a halt. -/
def State.haltTarget (s : State) (t : Nat) : State :=
  let b := s.block t
  match b.state with
  | .running =>
    let st := match b.stopping with
      | .no => Stopping.halt
      | .preempt => Stopping.preemptHalt
      | .kill => Stopping.halt
      | x => x
    let b1 := if b.stopping = .no then { b with stopping := st, broadcast := false, causeWave := none } else { b with stopping := st }
    (s.setBlock t b1).waitTarget t false
  | .swapped => (s.setBlock t { b with state := .halted }).countLive
  | _ => s.countLive

def execHalt (_h : Hdr) (a : BitVec 6) (s : State) : Out := .next <|
  let h := s.pre.sreg a
  waveRaw s
    (s.onceCheck (firstStop [s.privCheck, s.handleCheck h, need (s.namedBlock h != s.cur.uid) .access h,
      need (s.targetSt h == .running || s.targetSt h == .swapped || s.targetSt h == .halted) .access h])) fun s =>
    match s.wv.waiting with
    | .targetDone => s.waitOver
    | .target _ _ => s.hold s.cur.lanes
    | _ => s.haltTarget (s.namedBlock h)

/-- `seal` on a block: a RUNNING one is stopped first, and the stop of a reset seals it too; a HALTED or SWAPPED one is written as it stands, once no suspended job holds
its buffers (R309). -/
def State.sealTarget (s : State) (t : Nat) : State :=
  let b := s.block t
  match b.state with
  | .running =>
    let b1 := if b.stopping = .no then { b with stopping := .sealing, broadcast := false, causeWave := none }
      else if b.stopping = .kill then { b with stopping := .sealing } else b
    (s.setBlock t b1).waitTarget t true
  | _ => if s.satHeld t then s.hold s.cur.lanes else (s.leaveCore t .sealedImg).countLive

def execSealBlock (_h : Hdr) (a : BitVec 6) (s : State) : Out := .next <|
  let h := s.pre.sreg a
  waveRaw s
    (s.onceCheck (firstStop [s.privCheck, s.handleCheck h,
      need (s.targetSt h == .running || s.targetSt h == .swapped || s.targetSt h == .halted) .access h])) fun s =>
    match s.wv.waiting with
    | .targetDone => s.waitOver
    | .target _ _ => s.hold s.cur.lanes
    | _ => s.sealTarget (s.namedBlock h)

/-! ### `wake` (R332, R379) -/

/-- The batch in the slot at a VA of the executing partition's area on the executing die. -/
def State.batchAt (s : State) (va : Nat) : Option Batch :=
  let base := field (s.preg s.bk.die s.bk.pid 0x20) 55 0
  if va % 1024 ≠ 0 ∨ va < base ∨ va ≥ base + 1024 * s.svcn s.bk.die s.bk.pid then none
  else s.batches.find? (fun b => b.pid == s.bk.pid && b.die == s.bk.die && b.slotN == (va - base) / 1024)

/-- The two reply words of a lane in a batch's slot; none where the data is uncorrectable. -/
def State.replyWords (s : State) (b : Batch) (va L : Nat) : Option (List W32) :=
  let a := va + 0x40 + 16 * L
  match (s.drone b.die b.pid).bind (fun d => s.dieXlat b.die d.1 b.pid a) with
  | none => some [Config.svcReply a, Config.svcReply (a + 4)]
  | some e =>
    let r := s.engBytes b.die (e.pa a) 8
    if r.2 then none else some [BitVec.ofNat 32 (recAt r.1 0 4), BitVec.ofNat 32 (recAt r.1 4 4)]

/-- The replies of a batch reach its caller, unless its context was torn down; the caller acquires at `die`. -/
def State.replyBatch (s : State) (b : Batch) (va : Nat) : State :=
  if s.ctxGen b.ctxn ≠ b.gen then s
  else
    let s1 := (lanesOf b.lanes).foldl (fun s L =>
      match s.replyWords b va L with
      | some xs => s.answer b.uid b.wid b.wslot L xs
      | none => s.setWave b.uid b.wid ((s.wave b.uid b.wid).replyBad b.wslot L (va + 0x40 + 16 * L))) s
    (s1.saveChanges (s.block b.uid) (b.wid + 1)).acquireFor b.uid b.wid b.lanes 2

def execWake (_h : Hdr) (a : BitVec 6) (s : State) : Out := .next <|
  let va := s.pre.sreg a
  waveLevel s (firstStop [s.privCheck, need (s.batchAt va.toNat).isSome .access va, inTurn (s.allReleased 2)]) fun s =>
    match s.batchAt va.toNat with
    | none => s
    | some b =>
      let s1 := (s.engRelease 2).replyBatch b va.toNat
      ({ s1 with batches := s1.batches.erase b }).putSvcStat b.pid b.die

end Sys2Proof.Machine
end

