-- ==== Sys2Proof/Machine/RegWrite.lean ====
section
/-! DEFINITION. What a write of a maintenance register does to its fields (00 R5, R6), and which fields only the maintenance
space writes (18 R396, R397, R405). -/

namespace Sys2Proof.Machine

/-- Does a write come through the maintenance space? -/
def viaMaint (v : Via) : Bool :=
  match v with
  | .vf _ => false
  | _ => true

/-- Does a write that comes so reach the maintenance space now: through LD 0 only once that is BOUND (R460, R462)? -/
def State.reaches (s : State) (v : Via) : Bool :=
  match v with
  | .vf _ => false
  | .ld0 => (s.reg (ldReg 0 0)).getLsbD 31
  | _ => true

/-- The fields of a register of a die whose meaning begins "M:". -/
def mFields (a : Nat) : Nat :=
  let o := a % 0x100000
  if a < 0x10000000 ∨ o < 0x10000 ∨ 0x24000 ≤ o then 0
  else if o < 0x20000 then (if o % 0x40 = 0 then 4 else 0)
  else
    match o % 0x100 with
    | 0x18 => bits 63 63 + bits 43 32 + bits 7 0
    | 0x20 => bits 55 0
    | 0x28 => bits 8 0
    | 0x48 => bits 55 0
    | _ => 0

/-- The mask of the bits that a write sets as RW. -/
def RegDesc.rwVia (d : RegDesc) (a : Nat) (via : Via) : W64 :=
  BitVec.ofNat 64 d.rw ||| (if viaMaint via then BitVec.ofNat 64 (mFields a) else 0)

/-- Does a write reach a register with every reserved field zero? Otherwise it has no effect and is logged (R5, R6). -/
def writeOk (a : Nat) (v : W64) : Bool :=
  match regDesc a with
  | none => false
  | some d => v &&& ~~~ d.known == 0

/-- The mask of the bits that a write acts on. -/
def RegDesc.actsVia (d : RegDesc) (a : Nat) (via : Via) : W64 :=
  d.rwVia a via ||| BitVec.ofNat 64 d.w1s ||| BitVec.ofNat 64 d.w1c ||| BitVec.ofNat 64 d.wo

/-- Does a write fall on what is RO here, which has no effect and is logged (R6): any write of a register that is RO whole, and a nonzero
value in an RO field of another (assumption 19)? -/
def writesRo (a : Nat) (via : Via) (v : W64) : Bool :=
  match regDesc a with
  | none => false
  | some d => d.actsVia a via == 0 || v &&& BitVec.ofNat 64 d.ro &&& ~~~ d.rwVia a via != 0

/-- The value of a register after a write: RW fields set, W1S bits set, W1C bits cleared, all else kept. -/
def State.written (s : State) (a : Nat) (via : Via) (v : W64) : W64 :=
  match regDesc a with
  | none => s.reg a
  | some d =>
    let m := d.rwVia a via
    (((s.reg a &&& ~~~ m) ||| (v &&& m)) ||| (v &&& BitVec.ofNat 64 d.w1s)) &&& ~~~ (v &&& BitVec.ofNat 64 d.w1c)

/-- Logs the part of a write that falls on RO fields. -/
def State.logRo (s : State) (a : Nat) (via : Via) (v : W64) : State := if writesRo a via v then s.logIgnored a else s

/-- A write with no effect beyond its fields. -/
def State.plainWrite (s : State) (via : Via) (a : Nat) (v : W64) : State :=
  if writeOk a v then (s.setReg a (s.written a via v)).logRo a via v else s.logIgnored a

/-- A write that has no effect and is logged when a condition fails, and otherwise acts. -/
def State.ruledWrite (s : State) (via : Via) (a : Nat) (v : W64) (ok : Bool) (act : State → State) : State :=
  if writeOk a v && ok then (act s).logRo a via v else s.logIgnored a

end Sys2Proof.Machine
end

