-- ==== Sys2Proof/Machine/Queues.lean ====
section
/-! DEFINITION. Launch queues (18 R397 to R400, 11 R281): the registers of a queue, `lnch`, the dispatcher's take, the completion of a
launch (02 R32). -/

namespace Sys2Proof.Machine

/-! ### A queue's registers (R397) -/

/-- A queue of a partition on a die: its die, slot and number. -/
structure QRef where
  die : Nat
  pslot : Nat
  q : Nat
  deriving DecidableEq, Repr

def QRef.reg (r : QRef) (off : Nat) : Nat := queueReg r.die r.pslot r.q off

def State.qctxn (s : State) (r : QRef) : Nat := s.fld (r.reg 0) 31 20
def State.qlog2n (s : State) (r : QRef) : Nat := s.fld (r.reg 0) 15 12
def State.qsupv (s : State) (r : QRef) : Bool := (s.reg (r.reg 0)).getLsbD 2
def State.qdev (s : State) (r : QRef) : Bool := (s.reg (r.reg 0)).getLsbD 1
def State.qen (s : State) (r : QRef) : Bool := (s.reg (r.reg 0)).getLsbD 0
def State.qhead (s : State) (r : QRef) : Nat := s.fld (r.reg 0x10) 31 0
def State.qtail (s : State) (r : QRef) : Nat := s.fld (r.reg 0x18) 31 0
def State.qstateOf (s : State) (r : QRef) : Nat := s.fld (r.reg 0x20) 1 0

/-- The level at which a queue's launches run and its slots are reached (R399, R400). -/
def State.qlevel (s : State) (r : QRef) : Level := if s.qsupv r then .s else .u

/-- STATE and CODE of a queue. -/
def State.setQstate (s : State) (r : QRef) (st code : Nat) : State :=
  (s.setFld (r.reg 0x20) 1 0 st).setFld (r.reg 0x20) 15 8 code

/-- The VA of the slot of record `n` (R398). -/
def State.slotVa (s : State) (r : QRef) (n : Nat) : Nat := s.fld (r.reg 8) 55 0 + 192 * (n % 2 ^ s.qlog2n r)

/-- The records that a queue holds. -/
def State.qcount (s : State) (r : QRef) : Nat := (s.qtail r + 2 ^ 32 - s.qhead r) % 2 ^ 32

/-! ### Taking a record (R400) -/

/-- Launches of a queue that have been taken and have not completed. -/
def State.takenOf (s : State) (pid : Nat) (r : QRef) : List Launch :=
  (s.launches.map (·.2)).filter (fun l => l.kind == .queue && l.die == r.die && l.pid == pid && l.queue == r.q)

/-- May the dispatcher take the record at HEAD? A partition in the quiesce protocol has none taken (R421). -/
def State.mayTake (s : State) (pid : Nat) (r : QRef) : Bool :=
  s.qstate pid == 1 && s.qstateOf r == 1 && s.qcount r != 0 && decide ((s.takenOf pid r).length < 16) &&
    (s.takenOf pid r).all (fun l => l.nextBid == l.rcd.grid)

/-- A record that cannot be taken stops its queue, and the event BAD_RECORD tells of it (R408). -/
def State.badRecord (s : State) (pid : Nat) (r : QRef) (code : Nat) : State :=
  (s.setQstate r 2 code).event pid r.die (4 + r.q % 16 * 2 ^ 8 + code % 256 * 2 ^ 12) (s.qhead r)

/-- The launch of a record that has passed its checks. -/
def State.takenLaunch (s : State) (pid : Nat) (r : QRef) (bs : List Byte) (bufs : List Buf) : Launch :=
  let rc := LRec.ofBytes bs
  { uid := s.nextUid, rcd := rc, bufs := bufs, die := r.die, pid := pid, ctxn := s.qctxn r, level := s.qlevel r, queue := r.q,
    s2 := BitVec.ofNat 64 rc.grid, readySince := s.clk }

/-- The record at HEAD is read, checked, and taken. -/
def State.takeRecord (s : State) (pid : Nat) (r : QRef) : State :=
  match s.ctxBytes r.die (s.qctxn r) pid (s.qlevel r) (s.slotVa r (s.qhead r)) 192 with
  | none => s.badRecord pid r 0x80
  | some bs =>
    let c := s.recCode r.die pid (s.qctxn r) (s.qlevel r) bs
    if c.1 ≠ 0 then s.badRecord pid r c.1
    else
      let l := s.takenLaunch pid r bs c.2
      (({ s with nextUid := s.nextUid + 1 }).setFld (r.reg 0x10) 31 0 (s.qhead r + 1)).setLaunch l.uid l

/-- LAUNCH_TAKE. -/
def execLaunchTake (die pslot q : Nat) (s : State) : Out := .next <|
  match s.pidOfSlot die pslot with
  | none => s
  | some pid => if s.mayTake pid ⟨die, pslot, q⟩ then s.takeRecord pid ⟨die, pslot, q⟩ else s

/-! ### Writes of QCTL and QTAIL (R397, R398) -/

/-- Is a context number one of the partition that holds a slot? -/
def State.slotOwnsCtx (s : State) (r : QRef) (ctxn : Nat) : Bool :=
  match s.pidOfSlot r.die r.pslot with
  | none => false
  | some pid => s.ctxPid ctxn == some pid

/-- May QCTL take a value? -/
def State.qctlOk (s : State) (r : QRef) (v : W64) : Bool :=
  (!s.qen r || (field v 31 20 == s.qctxn r && field v 15 12 == s.qlog2n r && v.getLsbD 1 == s.qdev r)) &&
    (!v.getLsbD 0 || (decide (2 ≤ field v 15 12) && decide (field v 15 12 ≤ 12) && s.fld (r.reg 8) 55 0 % 192 == 0 &&
      s.slotOwnsCtx r (field v 31 20)))

/-- SKIP and RETRY, which act in STOPPED. -/
def State.qctlActs (s : State) (r : QRef) (v : W64) : State :=
  let s1 :=
    if v.getLsbD 3 then
      (if s.qstateOf r = 2 then (s.setFld (r.reg 0x10) 31 0 (s.qhead r + 1)).setQstate r 1 0 else s.logIgnored (r.reg 0))
    else s
  if v.getLsbD 4 then
    (if s1.qstateOf r = 2 then s1.setQstate r 1 0 else s1.logIgnored (r.reg 0))
  else s1

/-- EN 0 to 1 empties the queue and starts it; 1 to 0 stops the taking of records. -/
def State.qctlEn (s : State) (r : QRef) (was : Bool) (v : W64) : State :=
  if !was && v.getLsbD 0 then ((s.setReg (r.reg 0x10) 0).setReg (r.reg 0x18) 0).setQstate r 1 0
  else if was && !v.getLsbD 0 then s.setQstate r 0 0
  else s

/-- After RETRY the record at HEAD is read and checked again at once, where one may be taken. -/
def State.retryTake (s : State) (r : QRef) (v : W64) (stopped : Bool) : State :=
  match s.pidOfSlot r.die r.pslot with
  | none => s
  | some pid => if stopped && v.getLsbD 4 && !v.getLsbD 3 && s.mayTake pid r then s.takeRecord pid r else s

/-- A write of QCTL. -/
def State.qctlWrite (s : State) (via : Via) (r : QRef) (v : W64) : State :=
  s.ruledWrite via (r.reg 0) v (s.qctlOk r v) fun s =>
    let was := s.qen r
    let stopped := s.qstateOf r == 2
    (((s.qctlActs r v).setReg (r.reg 0) (s.written (r.reg 0) via v)).qctlEn r was v).retryTake r v stopped

/-- A write of QBASE. -/
def State.qbaseWrite (s : State) (via : Via) (r : QRef) (v : W64) : State :=
  s.ruledWrite via (r.reg 8) v (!s.qen r || v == s.reg (r.reg 8)) (fun s => s.setReg (r.reg 8) v)

/-- A write of QTAIL (R398). -/
def State.qtailWrite (s : State) (via : Via) (r : QRef) (v : W64) : State :=
  let t := v.toNat
  let n := 2 ^ s.qlog2n r
  s.ruledWrite via (r.reg 0x18) v
    (!s.qdev r && decide ((t + 2 ^ 32 - s.qhead r) % 2 ^ 32 ≤ n) && decide ((t + 2 ^ 32 - s.qtail r) % 2 ^ 32 ≤ n))
    (fun s => s.setReg (r.reg 0x18) v)

/-- Does a write that comes so reach the registers of a slot: a VF those of its own partition alone (R396)? -/
def State.viaReaches (s : State) (via : Via) (die pslot : Nat) : Bool :=
  match via with
  | .vf pid => s.bound pid && s.pslot die pid == some pslot
  | v => s.reaches v

/-- A write that comes through the VF of a partition in reset has no effect and is logged (R440). -/
def State.vfShut (s : State) (via : Via) : Bool :=
  match via with
  | .vf pid => s.resetting.contains pid
  | _ => false

/-- A write of a slot's register. -/
def State.slotWrite (s : State) (via : Via) (die pslot a : Nat) (act : State → State) : State :=
  if !s.viaReaches via die pslot then s else if s.vfShut via then s.logIgnored a else act s

/-- QTAIL_WRITE. -/
def execQtailWrite (via : Via) (die pslot q : Nat) (value : W64) (s : State) : Out := .next <|
  s.slotWrite via die pslot (queueReg die pslot q 0x18) (fun s => s.qtailWrite via ⟨die, pslot, q⟩ value)

/-- A write of QCTL of one of the four kinds. -/
def State.qctlEvent (s : State) (via : Via) (r : QRef) (kind : Bool) (v : W64) : State :=
  if kind then s.slotWrite via r.die r.pslot (r.reg 0) (fun s => s.qctlWrite via r v) else s

/-- QUEUE_ENABLE: a write of QCTL that sets EN from 0 to 1. -/
def execQueueEnable (via : Via) (die pslot q : Nat) (value : W64) (s : State) : Out := .next <|
  s.qctlEvent via ⟨die, pslot, q⟩ (!s.qen ⟨die, pslot, q⟩ && value.getLsbD 0) value

/-- QUEUE_DISABLE: a write of QCTL that sets EN from 1 to 0. -/
def execQueueDisable (via : Via) (die pslot q : Nat) (value : W64) (s : State) : Out := .next <|
  s.qctlEvent via ⟨die, pslot, q⟩ (s.qen ⟨die, pslot, q⟩ && !value.getLsbD 0) value

/-- QUEUE_RETRY: a write of QCTL with RETRY. -/
def execQueueRetry (via : Via) (die pslot q : Nat) (value : W64) (s : State) : Out := .next <|
  s.qctlEvent via ⟨die, pslot, q⟩ (value.getLsbD 4) value

/-- QUEUE_SKIP: a write of QCTL with SKIP. -/
def execQueueSkip (via : Via) (die pslot q : Nat) (value : W64) (s : State) : Out := .next <|
  s.qctlEvent via ⟨die, pslot, q⟩ (value.getLsbD 3) value

/-! ### `lnch` (R281, R399) -/

/-- The queue that a control word names, if it is enabled for `lnch`. -/
def State.lnchQueue (s : State) (x : W64) : Option QRef :=
  match s.dieOf s.bk.pid (field x 37 32) with
  | none => none
  | some d =>
    match s.pslot d s.bk.pid with
    | none => none
    | some n =>
      let r : QRef := ⟨d, n, ctlCtx x⟩
      if ctlCtx x ≤ 15 ∧ s.qen r = true ∧ s.qdev r = true then some r else none

/-- Where 64 bytes of a slot go, if a store there passes R111 and R385. -/
def State.slotPart (s : State) (r : QRef) (va : Nat) : Option TlbE :=
  if va + 64 > 2 ^ 56 then none
  else
    match s.dieXlat r.die (s.qctxn r) s.bk.pid va with
    | none => none
    | some e =>
      let w : Who := ⟨r.die, 999, 4, s.qctxn r, s.bk.pid, s.qlevel r⟩
      if s.permits w .store e.leaf (e.pa va) && (fmtCheck .store e.leaf va).isNone then some e else none

/-- The three parts of slot TAIL, if all may be written. -/
def State.slotParts (s : State) (r : QRef) : Option (List (Nat × TlbE)) :=
  [0, 64, 128].mapM (fun i => (s.slotPart r (s.slotVa r (s.qtail r) + i)).map (fun e => (i, e)))

/-- The record is written to slot TAIL, performed at `pkg`; then TAIL advances. -/
def State.appendRecord (s : State) (r : QRef) (parts : List (Nat × TlbE)) (bs : List Byte) : State :=
  let s1 := parts.foldl (fun s p =>
    let va := s.slotVa r (s.qtail r) + p.1
    s.engWriteMem r.die s.bk.tile (s.qctxn r) 3 va s.bk.pid 0 (p.2.pa va) ((bs.drop p.1).take 64)) s
  s1.setFld (r.reg 0x18) 31 0 (s1.qtail r + 1)

/-- Is slot TAIL locked for migration (R392), or an atomic on its way there (R142)? -/
def State.slotLocked (s : State) (r : QRef) : Bool :=
  match s.slotParts r with
  | none => false
  | some ps => ps.any (fun p => s.engHeld (p.2.pa (s.slotVa r (s.qtail r) + p.1)) 64)

/-- The status of `lnch`, with the append where it is 0. -/
def State.lnchEffect (s : State) (r : QRef) (bs : List Byte) : State × Nat :=
  if s.retries s.bk.pid s.bk.ctxn then (s, 2)
  else if s.qcount r = 2 ^ s.qlog2n r then (s, 1)
  else
    match s.slotParts r with
    | none => (s, 3)
    | some ps => (s.appendRecord r ps bs, 0)

def execLnch (_h : Hdr) (d a b : BitVec 6) (s : State) : Out := .next <|
  let at_ := opBuf (s.pre.sreg a)
  let x := s.pre.sreg b
  let q := s.lnchQueue x
  let r := q.getD ⟨0, 0, 0⟩
  waveLevel s
    (firstStop [ctlCheck x (fun c => decide (c < 64)), need q.isSome .access x,
      s.bk.recCheck at_.1 at_.2 192, inTurn (s.allReleased (ctlScope x)), await (!s.slotLocked r)]) fun s =>
    let e := (s.engRelease (ctlScope x)).lnchEffect r (s.bk.bufBytes at_.1 at_.2 192)
    e.1.setW (e.1.wv.setS d (BitVec.ofNat 64 e.2))

/-! ### The completion of a launch (R32, R400) -/

/-- Have every store, reduction and atomic of a launch's blocks been performed at `pkg`? -/
def State.launchDrained (s : State) (id : Nat) : Bool :=
  let mine := s.uids.filter (fun u => (s.block u).launch == id)
  s.writes.all (fun w => !mine.contains w.uid || decide (w.level ≥ 4)) &&
    mine.all (fun u => (s.block u).waves.all (fun w => w.slots.all (fun e => e.2.kind != .atomic || !e.2.reqs.any Req.open_)))

/-- Does an ended block, or a LOST one that counts as ended (R428), leave nothing behind: no reply due, no handler still to run? -/
def State.forgotten (s : State) (u : Nat) : Bool :=
  let b := s.block u
  (s.launches.all (fun e => e.1 != b.launch)) &&
    ((b.state == .ended && !b.waves.any Wave.repliesDue) ||
      (b.state == .lost && b.delivered && !b.coreLostHeld && s.launches.all (fun e => e.2.forBlock != u || e.2.kind != .handler)))

/-- Blocks that leave nothing behind go. -/
def State.sweep (s : State) : State := (s.uids.filter s.forgotten).foldl (fun s u => { s with blocks := s.blocks.erase u }) s

/-- LAUNCH_COMPLETE: the completion timeline is increased, then DONE of the queue. -/
def execLaunchComplete (launch : Nat) (s : State) : Out := .next <|
  let l := s.launch launch
  if s.launches.all (fun e => e.1 != launch) || l.endedN != l.rcd.grid || !s.launchDrained launch then s
  else
    let s1 := if l.rcd.cpflg then s.setEng l.ctxn l.rcd.cpctx ((s.engAt l.ctxn l.rcd.cpctx).launchDone l.rcd.cpinc) else s
    let s2 :=
      match l.kind, s1.pslot l.die l.pid with
      | .queue, some n =>
        let a := queueReg l.die n l.queue 0x20
        s1.setFld a 63 32 (s1.fld a 63 32 + 1)
      | _, _ => s1
    ({ s2 with launches := s2.launches.erase launch }).sweep

end Sys2Proof.Machine
end

