-- ==== Sys2Proof/Machine/Place.lean ====
section
/-! DEFINITION. Placement (18 R401, R402, R406; 02 R34, R35) and the end of blocks (R32), drone blocks (R405, R406), the watchdog's
timers (R407). -/

namespace Sys2Proof.Machine

/-! ### What waits to be placed -/

/-- The SWAPPED blocks of a launch, in ascending `bid`. -/
def State.swappedOf (s : State) (id : Nat) : List Nat :=
  (s.uids.filter (fun u => (s.block u).launch == id && (s.block u).state == .swapped)).foldl
    (fun l u => insertDown (fun v => 2 ^ 32 - (s.block v).bid) u l) []

/-- Does a launch's start dependency hold (R32)? -/
def State.startOk (s : State) (l : Launch) : Bool :=
  !l.rcd.stflg || decide ((s.engAt l.ctxn l.rcd.stctx).timeline ≥ l.rcd.stval)

/-- Is a launch ready: its dependency holds, and a block waits to be placed? -/
def State.launchReady (s : State) (l : Launch) : Bool :=
  s.startOk l && (decide (l.nextBid < l.rcd.grid) || !(s.swappedOf l.uid).isEmpty)

/-- AGEQ of a partition on a die. -/
def State.ageq (s : State) (die pid : Nat) : Nat := field (s.preg die pid 0) 15 0

/-- w of R401. -/
def State.waited (s : State) (l : Launch) : Nat := s.clk - l.readySince

/-- The effective priority (R401). -/
def State.effPrio (s : State) (l : Launch) : Nat :=
  let q := s.ageq l.die l.pid
  if q = 0 then l.rcd.prio else min 3 (l.rcd.prio + s.waited l / (1024 * q))

/-- Is one launch taken before another: greater E, then greater w, then lower queue number? -/
def State.before (s : State) (a b : Launch) : Bool :=
  decide (s.effPrio a > s.effPrio b) ||
    (s.effPrio a == s.effPrio b && (decide (s.waited a > s.waited b) || (s.waited a == s.waited b && decide (a.queue < b.queue))))

/-- Puts a launch into its place in the order, behind those of equal rank. -/
def State.inOrder (s : State) (a : Launch) : List Launch → List Launch
  | [] => [a]
  | b :: r => if s.before a b then a :: b :: r else b :: s.inOrder a r

/-- The launches of a kind that a die holds for a partition. -/
def State.launchesOn (s : State) (die pid : Nat) (k : BlockKind) : List Launch :=
  (s.launches.map (·.2)).filter (fun l => l.die == die && l.pid == pid && l.kind == k)

/-- The ready queue launches that may place: those of the greatest E, in order; a launch of lower E waits behind them. -/
def State.placeable (s : State) (die pid : Nat) : List Launch :=
  let ls := ((s.launchesOn die pid .queue).filter s.launchReady).foldl (fun o l => s.inOrder l o) []
  match ls with
  | [] => []
  | l :: _ => ls.filter (fun m => s.effPrio m == s.effPrio l)

/-! ### Placing -/

/-- A SWAPPED block on a core again: its images loaded, but for the lines that still stand in the register cache of their quarter (R363), its waves
on their quarters, resumed, with the effect of `fence.full.pkg` (R154). -/
def State.replace (s : State) (uid tile : Nat) (qs : List Nat) : State :=
  let die := (s.launch (s.block uid).launch).die
  let away := s.rcache.filter (fun x => x.uid == uid && x.quarter != quarterKey die tile (qs.getD x.wid 0))
  let s := (away.foldl State.evict s).loadImages uid
  let b := s.block uid
  let put := fun (e : Wave × Nat) =>
    { e.1.resumed with quarter := qs.getD e.2 0 }.enter ((s.dealSlots die tile qs)[e.2]?.getD none) s.clk
  let b1 := { b with state := .running, stopping := .no, broadcast := false, resident := true, die := die, tile := tile,
                     waves := b.waves.zipIdx.map put }
  let l := s.launch b.launch
  (((s.setBlock uid b1).setLaunch b.launch { l with readySince := s.clk }).fenceBlock uid).bumpDie die 0x86 1

/-- The next unplaced block of a launch on a core, if its images find room (R364). -/
def State.placeNew (s : State) (id : Nat) (at_ : Nat × List Nat) : Option State :=
  let l := s.launch id
  (s.imageRoom l.ctxn l.rcd.imageBytes).map (fun img => (s.startBlock id at_.1 at_.2 img).bumpDie l.die 0x86 1)

/-- Several blocks of a launch at once (R35). -/
def State.placeGang (s : State) (id : Nat) : List (Nat × List Nat) → Option State
  | [] => some s
  | p :: r => (s.placeNew id p).bind (fun t => t.placeGang id r)

/-- Places what a launch has next, if it fits: a SWAPPED block first; a DET launch's blocks all at once. Tiles in `shut` hold nothing
new. -/
def State.placeOne (s : State) (l : Launch) (shut : List Nat) : Option State :=
  let o := s.occ l.die
  match s.swappedOf l.uid with
  | u :: _ => (s.bestCore o l.die l.pid shut l.rcd).map (fun p => s.replace u p.1 p.2)
  | [] =>
    if l.nextBid ≥ l.rcd.grid then none
    else if l.rcd.det then (s.gangOf o l.die l.pid shut l.rcd l.rcd.grid).bind (s.placeGang l.uid)
    else (s.bestCore o l.die l.pid shut l.rcd).bind (s.placeNew l.uid)

/-! ### Drone blocks (R406) -/

/-- The core of a partition's drone on a die. -/
def State.droneTile (s : State) (die pid : Nat) : Option Nat :=
  (s.drone die pid).bind (fun d => s.tileOfVcid die pid d.2)

/-- A SWAPPED drone block of a partition on a die. -/
def State.swappedDrone (s : State) (die pid : Nat) : Option Nat :=
  s.uids.find? (fun u =>
    let b := s.block u
    b.kind == .drone && b.pid == pid && b.state == .swapped && (s.launch b.launch).die == die)

/-- The cores on which nothing else of the partition is placed while its drone block waits. -/
def State.droneShut (s : State) (die pid : Nat) : List Nat :=
  if s.drones.contains (die, pid) || (s.swappedDrone die pid).isSome then (s.droneTile die pid).toList else []

/-- A SWAPPED drone block goes to its core, if that can hold it. -/
def State.placeSwappedDrone (s : State) (die pid : Nat) : Option State :=
  match s.swappedDrone die pid, s.droneTile die pid with
  | some u, some t => (s.fitOn (s.occ die) die t pid (s.launch (s.block u).launch).rcd).map (fun qs => s.replace u t qs)
  | _, _ => none

/-- The event DRONE_BAD; the record is not placed. No drone stands to receive it, so it is not queued (R406). -/
def State.droneBad (s : State) (die pid code : Nat) : State :=
  let s1 := { s with drones := s.drones.erase (die, pid) }
  match s1.pslot die pid with
  | none => s1.sendMsix pid 0
  | some n => (s1.countLost die n).tellEvent pid die n (9 + code % 256 * 2 ^ 12) 0

/-- The drone record that has passed its checks is placed on its core, or waits. -/
def State.placeDrone (s : State) (die pid ctxn : Nat) (r : LRec) (bufs : List Buf) : State :=
  match (s.droneTile die pid).bind (fun t => (s.fitOn (s.occ die) die t pid r).map (fun qs => (t, qs))) with
  | none => s
  | some p =>
    let l : Launch := { uid := s.nextUid, rcd := { r with prio := 3 }, bufs := bufs, die := die, pid := pid, ctxn := ctxn, level := .s,
                        kind := .drone, s2 := 1, readySince := s.clk }
    let s1 := ({ s with nextUid := s.nextUid + 1, drones := s.drones.erase (die, pid) }).setLaunch l.uid l
    (s1.placeNew l.uid p).getD s

/-- Does a drone block of a partition stand on a die? There is one at a time (R14): a drone written anew waits for the other's end. -/
def State.droneStands (s : State) (die pid : Nat) : Bool :=
  s.uids.any (fun u =>
    let b := s.block u
    b.kind == .drone && b.pid == pid && b.state != .ended && b.state != .lost && (s.launch b.launch).die == die)

/-- DRONE_PLACE: a drone that waits to be started has its record read at level S, checked, and placed. -/
def execDronePlace (die pid : Nat) (s : State) : Out := .next <|
  let st := s.qstate pid
  if !s.drones.contains (die, pid) || !(st == 1 || st == 2) || s.droneStands die pid then s
  else
    match s.drone die pid with
    | none => { s with drones := s.drones.erase (die, pid) }
    | some (ctxn, _) =>
      match s.ctxBytes die ctxn pid .s (field (s.preg die pid 0x48) 55 0) 192 with
      | none => s.droneBad die pid (Config.droneBadCode 0).toNat
      | some bs =>
        let r := LRec.ofBytes bs
        let c := s.recCode die pid ctxn .s bs
        if c.1 ≠ 0 then s.droneBad die pid c.1
        else if r.grid ≠ 1 ∨ r.stflg = true ∨ r.cpflg = true then s.droneBad die pid (Config.droneBadCode 1).toNat
        else s.placeDrone die pid ctxn r c.2

/-! ### BLOCK_PLACE (R401) -/

/-- Handlers that wait, in the order of their stops (launch uids rise with it). -/
def State.waitingHandlers (s : State) (die pid : Nat) : List Launch :=
  (s.launchesOn die pid .handler).filter s.launchReady

/-- BLOCK_PLACE: the drone block first, then handlers, then the queue launches in their order. -/
def execBlockPlace (die pid : Nat) (s : State) : Out := .next <|
  if s.qstate pid ≠ 1 then s
  else
    match s.placeSwappedDrone die pid with
    | some t => t
    | none =>
      let shut := s.droneShut die pid
      match s.waitingHandlers die pid with
      | h :: _ => (s.placeOne h shut).getD s
      | [] => ((s.placeable die pid).findSome? (fun l => s.placeOne l shut)).getD s

/-! ### The end of a block (R32) -/

/-- Have all threads exited, and has everything on its buffers completed? A block that a reset ended also awaits what a stop awaits, which a
suspended pair job is not (R359, R439); a LOST one has nothing left to await. -/
def State.blockOver (s : State) (uid : Nat) : Bool :=
  let b := s.block uid
  (b.state == .running || (b.killed && (b.state == .halted || b.state == .swapped || b.state == .sealedImg || b.state == .lost))) &&
    b.stopping == .no && (b.held.isEmpty || b.killed) && !b.waves.isEmpty && b.waves.all (·.ended) &&
    (b.state == .lost || b.bufs.all (fun e => e.2.state != .filling && e.2.outs == 0 && (e.2.heldN == 0 || b.killed))) &&
    (!b.killed || b.state == .lost || s.blockQuiet uid)

/-- The suspended pair jobs of a block that a reset ends are abandoned (R309; assumption 127), and MSI-X vector 2 tells that the reset is
complete (R438). -/
def State.killDone (s : State) (uid : Nat) : State :=
  if !(s.block uid).killed then s
  else
    ((s.jobs.filter (fun j => j.uid == uid && j.phase == .suspended)).foldl (fun s j =>
      match j.work with
      | .pair r _ => (s.dropSat j).pairEnd j r 9 0
      | _ => s) s).sendMsix (s.block uid).pid 2

/-- BLOCK_END: the block's resources are released; an ended drone block is started afresh (R406). -/
def execBlockEnd (uid : Nat) (s : State) : Out := .next <|
  let b := s.block uid
  if !s.blockOver uid then s
  else
    let s1 := (s.killDone uid).setBlock uid { b with state := .ended, resident := false, spm := [], present := [], bufs := [] }
    let l := s1.launch b.launch
    let counted := b.state == .lost && b.delivered
    let s2 := s1.setLaunch b.launch { l with endedN := l.endedN + (if counted then 0 else 1) }
    if b.kind = .drone ∧ (s2.drone l.die b.pid).isSome ∧ (l.die, b.pid) ∉ s2.drones then
      { s2 with drones := s2.drones ++ [(l.die, b.pid)] }
    else s2

/-! ### The drone's registers (R405) -/

/-- Are `n` bytes of a context's addresses memory of its partition? -/
def State.ownsVa (s : State) (die ctxn pid va n : Nat) : Bool :=
  decide (va + n ≤ 2 ^ 56) &&
    (n == 0 || (List.range ((va + n - 1) / 2 ^ 17 + 1 - va / 2 ^ 17)).all (fun i => (s.dieXlat die ctxn pid (max va ((va / 2 ^ 17 + i) * 2 ^ 17))).isSome))

/-- May a partition register of the chanter's take a value: no slot is busy, and the context, the core, and, once a drone context is
named, the memory that it names are of the partition (assumption 104)? -/
def State.droneRegOk (s : State) (die pslot off : Nat) (v : W64) : Bool :=
  match s.pidOfSlot die pslot with
  | none => v == 0
  | some pid =>
    let owns := fun (va n : Nat) => match s.drone die pid with
      | none => true
      | some (ctxn, _) => s.ownsVa die ctxn pid va n
    s.batches.all (fun b => !(b.pid == pid && b.die == die)) &&
      (match off with
        | 0x18 => !v.getLsbD 63 || (s.ctxPid (field v 43 32) == some pid && (s.tileOfVcid die pid (field v 7 0)).isSome)
        | 0x20 => owns (field v 55 0) (1024 * s.svcn die pid)
        | 0x28 => owns (field (s.preg die pid 0x20) 55 0) (1024 * field v 8 0)
        | _ => owns (field v 55 0) 192)

/-- A write of DRONE, SVCBASE, SVCCFG or DRONEREC: through a VF they are RO. -/
def State.droneRegWrite (s : State) (via : Via) (die pslot off : Nat) (v : W64) : State :=
  let a := partReg die pslot off
  if !viaMaint via then s.plainWrite via a v
  else
    s.ruledWrite via a v (s.droneRegOk die pslot off v) fun s =>
      let s1 := s.setReg a v
      let start := (off == 0x18 && v.getLsbD 63) || (off == 0x48 && (s1.reg (partReg die pslot 0x18)).getLsbD 63)
      match s1.pidOfSlot die pslot with
      | some pid => if start && !s1.drones.contains (die, pid) then { s1 with drones := s1.drones ++ [(die, pid)] } else s1
      | none => s1

/-- DRONE_WRITE. -/
def execDroneWrite (via : Via) (die pslot off : Nat) (value : W64) (s : State) : Out := .next <|
  if [0x18, 0x20, 0x28, 0x48].contains off then
    s.slotWrite via die pslot (partReg die pslot off) (fun s => s.droneRegWrite via die pslot off value)
  else s

/-! ### The watchdog (R407) -/

/-- Have `n` clk reached a limit in ticks of 10 ns? A clk is 40 / CUR ns (R467). -/
def State.overLimit (s : State) (n limit : Nat) : Bool := limit != 0 && decide (n * 4 ≥ limit * s.fld 0x10048 31 24)

/-- Does a live thread of a wave wait on an EXTERNAL semaphore? -/
def Wave.waitsOutside (w : Wave) : Bool :=
  match w.waiting with
  | .semaphore _ _ granted ext => ext && !granted
  | _ => false

/-- Does the stall timer of a block count: it runs or stops for pre-emption, and some live thread waits on other than an EXTERNAL
semaphore? -/
def Block.stallCounts (b : Block) : Bool :=
  b.die != 64 && b.state == .running && b.resident &&
    (match b.stopping with
      | .no => true | .preempt => true | .preemptHalt => true | _ => false) &&
    b.waves.any (fun w => !w.ended && !w.waitsOutside)

/-- WATCHDOG: once until the next retire. -/
def execWatchdog (uid : Nat) (s : State) : Out := .next <|
  let b := s.block uid
  if b.stallCounts && !b.wdFired && s.overLimit b.stall (field (s.preg b.die b.pid 8) 47 0) then
    (s.setBlock uid { b with wdFired := true }).event b.pid b.die (1 + b.ctxn % 4096 * 2 ^ 8 + b.gen % 4096 * 2 ^ 20) b.bid
  else s

/-- EXTERNAL_STALL: once per wait. -/
def execExternalStall (uid wid : Nat) (s : State) : Out := .next <|
  let b := s.block uid
  let w := s.wave uid wid
  match w.extSince with
  | none => s
  | some t =>
    if !w.extFired && s.overLimit (s.clk - t) (field (s.preg b.die b.pid 0x10) 47 0) then
      (s.setWave uid wid { w with extFired := true }).event b.pid b.die (2 + b.ctxn % 4096 * 2 ^ 8 + b.gen % 4096 * 2 ^ 20) b.bid
    else s

/-- REPEAT_TRAP: when the count reaches WDREP. -/
def execRepeatTrap (uid : Nat) (s : State) : Out := .next <|
  let b := s.block uid
  let n := field (s.preg b.die b.pid 0) 23 16
  if n != 0 && decide (b.repCount ≥ n) && !b.repFired then
    (s.setBlock uid { b with repFired := true }).event b.pid b.die (3 + b.ctxn % 4096 * 2 ^ 8 + b.gen % 4096 * 2 ^ 20) b.bid
  else s

end Sys2Proof.Machine
end

