-- ==== Sys2Proof/Machine/Swap.lean ====
section
/-! DEFINITION. The active and the pending set of a quarter (02 R36, R43) and the lines of its register cache (03 R78). -/

namespace Sys2Proof.Machine

/-! ### Swaps (R43) -/

/-- The waves that stand on a quarter and have not ended, by block and number. -/
def State.quarterWaves (s : State) (key : Nat) : List (Nat × Nat) :=
  s.uids.flatMap fun u =>
    let b := s.block u
    if !b.standing then []
    else ((List.range b.waves.length).filter (fun i =>
      let w := s.wave u i
      quarterKey b.die b.tile w.quarter == key && !w.ended)).map (fun i => (u, i))

/-- The least of a list of waves by a measure; the first of equals. -/
def leastBy (f : Nat × Nat → Nat) : List (Nat × Nat) → Option (Nat × Nat)
  | [] => none
  | x :: r =>
    match leastBy f r with
    | none => some x
    | some y => if f y < f x then some y else some x

/-- The place of a pending wave in the line for re-entry: the clk since which it has been ready; a wave that napped stands
behind those ready from the same clk (R44). -/
def Wave.inLine (w : Wave) : Nat := 2 * w.readySince.getD 0 + w.readyLast.toNat

/-- The ready pending waves of a quarter. -/
def State.pendingOf (s : State) (key : Nat) : List (Nat × Nat) :=
  (s.quarterWaves key).filter (fun e => !(s.wave e.1 e.2).active && (s.wave e.1 e.2).readySince.isSome)

/-- The pending wave of a quarter that has been ready longest. -/
def State.longestReady (s : State) (key : Nat) : Option (Nat × Nat) := leastBy (fun e => (s.wave e.1 e.2).inLine) (s.pendingOf key)

/-- A wave enters the active set, in a slot that is free. -/
def State.enterActive (s : State) (e : Nat × Nat) : State :=
  let b := s.block e.1
  let w := s.wave e.1 e.2
  s.setWave e.1 e.2 { w with active := true, aslot := (s.freeSlots b.die b.tile w.quarter).headD 0, heldSince := s.clk, readySince := none,
                             readyLast := false }

/-- The quarter of a wave. -/
def State.quarterOf (s : State) (u i : Nat) : Nat := quarterKey (s.block u).die (s.block u).tile (s.wave u i).quarter

/-- The active waves of a quarter. -/
def State.activeOf (s : State) (key : Nat) : List (Nat × Nat) := (s.quarterWaves key).filter (fun e => (s.wave e.1 e.2).active)

/-- A wave leaves the active set; `ready` is the clk from which it counts as ready. -/
def State.leaveActive (s : State) (e : Nat × Nat) (ready : Option Nat) : State :=
  s.setWave e.1 e.2 { s.wave e.1 e.2 with active := false, readySince := ready, readyLast := false }

/-- Pending waves that are ready take the free slots of a quarter, the one that has been ready longest first (R43). -/
def State.fillSlots (s : State) (key : Nat) : Nat → State
  | 0 => s
  | n + 1 =>
    if (s.activeOf key).length ≥ 8 then s
    else
      match s.longestReady key with
      | none => s
      | some e => (s.enterActive e).fillSlots key n

/-- WAVE_SWAP: an active wave with no ready thread (`step` asks for that) leaves where a pending wave is ready that no free slot awaits; the
pending wave that has been ready longest takes the slot on the next clk. -/
def execWaveSwap (uid wid : Nat) (s : State) : Out := .next <|
  let k := s.quarterOf uid wid
  let w := s.wave uid wid
  if !w.active || w.ended || decide ((s.pendingOf k).length ≤ 8 - (s.activeOf k).length) then s
  else s.leaveActive (uid, wid) none

/-- FORCED_SWAP of a quarter: a pending wave has been ready for 512 clk, no forced swap fell in the last 16 clk, and every active wave
has a ready thread (`step` asks for that): the active wave that has held its slot longest goes out, ready from now. -/
def execForcedSwap (quarter : Nat) (s : State) : Out := .next <|
  let since := s.forcedAt.get quarter 0
  match s.longestReady quarter, leastBy (fun e => (s.wave e.1 e.2).heldSince) (s.activeOf quarter) with
  | some i, some o =>
    let t := (s.wave i.1 i.2).readySince.getD s.clk
    if s.clk < t + 512 ∨ (since ≠ 0 ∧ s.clk + 1 < since + 16) ∨ (s.activeOf quarter).length < 8 then s
    else
      let b := s.block o.1
      ({ s.leaveActive o (some s.clk) with forcedAt := s.forcedAt.set quarter (s.clk + 1) 0 }).bumpCore b.die b.tile 0x0A
        (s.worldIn b.die b.tile b.pid) 1
  | _, _ => s

/-! ### The register cache (R78) -/

/-- A line is a victim of the first kind: of a pending wave, or of a block that has left its core (R363)? -/
def State.lineIdle (s : State) (x : RLine) : Bool :=
  let b := s.block x.uid
  !b.resident || !(s.wave x.uid x.wid).active

/-- The line of a list that was used least recently. -/
def oldestLine : List RLine → Option RLine
  | [] => none
  | x :: r =>
    match oldestLine r with
    | none => some x
    | some y => if y.usedAt < x.usedAt then some y else some x

/-- The victim among a quarter's lines (R78): of pending waves the least recently used, else one of an active wave not read for 64 clk (the
rule names no order among those: the least recently used; assumption 20), else the least recently used. -/
def State.victim (s : State) (ls : List RLine) : Option RLine :=
  match oldestLine (ls.filter s.lineIdle), oldestLine (ls.filter (fun x => decide (x.readAt + 64 ≤ s.clk))) with
  | some x, _ => some x
  | none, some x => some x
  | none, none => oldestLine ls

/-- A fetched line takes what memory holds of it; where that does not decrypt, a read of the register raises DATA_ERROR (R128, R232, R367). -/
def State.refillLine (s : State) (uid wid reg : Nat) : State :=
  let b := s.block uid
  let w := s.wave uid wid
  let offs := (List.range 24).map (fun i => w.v0At + 192 * reg + 8 * i)
  if !w.inImage.contains reg then s
  else if offs.any (s.imageWordBad b (wid + 1)) then s.setWave uid wid (w.markLine reg fullMask (b.partVa (wid + 1) (w.v0At + 192 * reg)))
  else s.setBlock uid (offs.foldl (fun b o => s.loadWord b (wid + 1) o) b)

/-- REG_LINE_FILL: a miss on a line of a resident wave brings it in from its image; a quarter holds 1,024. -/
def execRegLineFill (uid wid reg : Nat) (s : State) : Out := .next <|
  let b := s.block uid
  let k := s.quarterOf uid wid
  let mine := s.rcache.filter (fun y => y.quarter == k)
  let s0 := { s with lineWants := s.lineWants.erase (uid, wid, reg) }
  if !b.standing || reg ≥ (s.wave uid wid).vregs || wid ≥ b.waves.length || mine.any (fun y => y.uid == uid && y.wid == wid && y.reg == reg)
  then s0
  else
    let s1 := if mine.length < 1024 then s0
      else match s.victim mine with
        | some y => s0.evict y
        | none => s0
    let x : RLine := { quarter := k, uid := uid, wid := wid, reg := reg, readAt := s.clk, usedAt := s.clk }
    let s2 := s1.refillLine uid wid reg
    ({ s2 with rcache := s2.rcache ++ [x] }).bumpCore b.die b.tile 5
      (s.worldIn b.die b.tile b.pid) 1

end Sys2Proof.Machine
end

