-- ==== Sys2Proof/Machine/Partition.lean ====
section
/-! DEFINITION. Partitions (19): the naming and ownership registers and their checks, PSTATE and its commands, the quiesce
protocol and what RESUME moves. -/

namespace Sys2Proof.Machine

/-! ### Naming (R412 to R416) -/

/-- PID0 and PID1 of a tile (R403, R419). -/
def State.tagPids (s : State) (die t : Nat) : List Nat :=
  let c := s.reg (splitReg die t)
  [field c 39 32, field c 47 40]

/-- The partitions that a tile's SPLITCFG names (R403): a world 1 without quarters names none. -/
def State.pidsOn (s : State) (die t : Nat) : List Nat :=
  (s.tagPids die t).take (if field (s.reg (splitReg die t)) 23 20 = 0 then 1 else 2)

/-- Does a wave stand on a quarter of a tile? -/
def State.tileHolds (s : State) (die t : Nat) : Bool :=
  s.uids.any (fun u => let b := s.block u; b.standing && b.die == die && b.tile == t && !b.waves.isEmpty)

/-- The contents of a tile that leaves a partition are zeroed (R421): what its L1 and register cache hold is gone, and its scratchpad
stands in no block. -/
def State.zeroTile (s : State) (die tile : Nat) : State :=
  let core := die * 144 + tile
  { s with
    stale := s.stale.filter (fun e => e.1 / 2 ^ 48 != 100000 + core), ucopies := s.ucopies.filter (fun u => !(u.die == die && u.tile == tile)),
    rcache := s.rcache.filter (fun x => x.quarter / 4 != core), icache := s.icache.filter (fun c => !(c.die == die && c.tile == tile)) }

/-- A change of a tile's owners: the tile is zeroed where one has left it. -/
def State.reowned (s t : State) (die tile : Nat) : State :=
  if (s.pidsOn die tile).any (fun p => (s.worldIn die tile p).isSome && (t.worldIn die tile p).isNone) then t.zeroTile die tile else t

/-- A write of SPLITCFG (R403): every deficit becomes 0. -/
def State.splitcfgSet (s : State) (via : Via) (die t : Nat) (v : W64) : State :=
  let a := splitReg die t
  let graded := fun (h l : Nat) => (List.range 4).all (fun q => !(field v h l).testBit q || s.grade die t q != 0)
  let ok := field v 15 8 != 0 && field v 7 0 != 0 && v.getLsbD 16 && (field v 19 16 &&& field v 23 20) == 0 &&
    graded 19 16 && graded 23 20 && !s.tileHolds die t
  s.ruledWrite via a v ok (fun s => s.reowned (((s.setReg a (s.written a via v)).setReg (a + 8) 0).setReg (a + 16) 0) die t)

/-- SPLITCFG_WRITE: through the maintenance space only (R396). -/
def execSplitcfgWrite (via : Via) (die tile : Nat) (value : W64) (s : State) : Out := .next <|
  if s.reaches via then s.splitcfgSet via die tile value else s

/-- Does a valid handle-table entry of any context name a semaphore (R326)? -/
def State.semHandled (s : State) (die i : Nat) : Bool :=
  s.ctxWords.any fun e =>
    let ctxn := e.1 / 2 ^ 32 % 4096
    e.1 / 2 ^ 56 == 2 && e.2.getLsbD 63 && field e.2 11 0 == i &&
      (match s.ctxPid ctxn with
        | none => false
        | some pid => s.dieOf pid (field e.2 17 12) == some die)

/-- A write of SEMOWN (R416): setting V sets the semaphore's value to 0. -/
def State.semownSet (s : State) (via : Via) (die i : Nat) (v : W64) : State :=
  let a := semOwnReg die i
  let old := s.reg a
  let hurts := field v 7 0 != field old 7 0 || (old.getLsbD 63 && !v.getLsbD 63)
  s.ruledWrite via a v (!(hurts && s.semHandled die i)) fun s =>
    let s1 := s.setReg a v
    if v.getLsbD 63 then s1.setSem (die * 4096 + i) { s1.sem (die * 4096 + i) with value := 0 } else s1

/-- SEMOWN_WRITE. -/
def execSemownWrite (via : Via) (die index : Nat) (value : W64) (s : State) : Out := .next <|
  if s.reaches via then s.semownSet via die index value else s

/-- A write of CTXOWN (R416). -/
def State.ctxownWrite (s : State) (via : Via) (n : Nat) (v : W64) : State :=
  let a := ctxOwnReg n
  let old := s.reg a
  let hurts := field v 7 0 != field old 7 0 || (old.getLsbD 63 && !v.getLsbD 63)
  s.ruledWrite via a v (!(hurts && s.ctxEnabled n)) (fun s => s.setReg a v)

/-! ### Slots on a die (R396) -/

/-- The `dieid` values of a partition with their dies. -/
def State.diesOf (s : State) (pid : Nat) : List (Nat × Nat) :=
  (List.range 64).filterMap (fun k => (s.dieOf pid k).map (fun d => (k, d)))

/-- Is a maintenance address one of the registers that a slot of a die owns? -/
def inSlot (die n a : Nat) : Bool :=
  let o := a - dieBase die
  decide (dieBase die ≤ a) && ((decide (0x10000 + 0x400 * n ≤ o) && decide (o < 0x10400 + 0x400 * n)) ||
    (decide (0x20000 + 0x100 * n ≤ o) && decide (o < 0x20100 + 0x100 * n)))

/-- The registers of a slot return to their reset values. -/
def State.clearSlot (s : State) (die n : Nat) : State := { s with maint := s.maint.filter (fun e => !inSlot die n e.1) }

/-- The partition gives up its slot on a die. -/
def State.freeSlotOn (s : State) (die pid : Nat) : State :=
  match s.pslot die pid with
  | none => s
  | some n => { s.clearSlot die n with pslots := s.pslots.erase (die * 256 + pid) }

/-- The partition takes the lowest free slot of a die (assumption 22). -/
def State.takeSlotOn (s : State) (die pid : Nat) : State :=
  match s.pslot die pid with
  | some _ => s
  | none =>
    match (List.range 64).find? (fun n => (s.pidOfSlot die n).isNone) with
    | none => s
    | some n => { s.clearSlot die n with pslots := s.pslots.set (die * 256 + pid) (n + 1) 0 }

/-- The slots of a partition follow DIEMAP: none on a die it has left, one on each die it has. -/
def State.fixSlots (s : State) (pid : Nat) : State :=
  let ds := (s.diesOf pid).map (·.2)
  let s1 := ((List.range 64).filter (fun d => !ds.contains d)).foldl (fun s d => s.freeSlotOn d pid) s
  ds.foldl (fun s d => s.takeSlotOn d pid) s1

/-- A write of DIEMAP: in OFF and REMAP only (R415). -/
def State.diemapWrite (s : State) (via : Via) (pid n : Nat) (v : W64) : State :=
  let a := partCtl pid (8 + 8 * n)
  let st := s.qstate pid
  s.ruledWrite via a v (st == 0 || st == 6) fun s =>
    let s1 := s.setReg a v
    if st = 0 then s1.fixSlots pid else s1

/-! ### Consistency (R414) -/

/-- Are the virtual numbers of a partition on a die exactly 0 to n − 1? -/
def State.denseOn (s : State) (die pid : Nat) : Bool :=
  let vs := (s.tilesOf die pid).map (fun t => s.vcidAt die t pid)
  (List.range vs.length).all (fun i => vs.contains i)

/-- Is a partition's naming consistent? -/
def State.consistent (s : State) (pid : Nat) : Bool :=
  let ds := s.diesOf pid
  ds.all (fun e => s.denseOn e.2 pid) &&
    (List.range 64).all (fun d => (s.tilesOf d pid).isEmpty || ds.any (fun e => e.2 == d)) &&
    (List.range ds.length).all (fun k => ds.any (fun e => e.1 == k))

/-! ### Entering the states (R417, R421) -/

/-- QSTATE takes a state, with DONE. -/
def State.enterQ (s : State) (pid st : Nat) (done : Bool) : State :=
  (s.setFld (partCtl pid 0) 3 0 st).setFld (partCtl pid 0) 7 7 done.toNat

def State.quiesceDone (s : State) (pid : Nat) : Bool := (s.reg (partCtl pid 0)).getLsbD 7

/-- The blocks of a partition. -/
def State.blocksOf (s : State) (pid : Nat) : List Nat :=
  s.uids.filter (fun u => (s.block u).pid == pid && (s.block u).die != 64)

/-- STOP for one block: a RUNNING one begins to stop, a resident HALTED one is written out (R363). -/
def State.stopBlock (s : State) (u : Nat) : State :=
  match execPreempt u s with
  | .next t => t
  | _ => s

/-- Every suspended pair job of a partition is abandoned, its held cause withdrawn (R309). -/
def State.abandonPairs (s : State) (pid : Nat) : State :=
  (s.jobs.filter (fun j => j.pid == pid && j.phase == .suspended)).foldl (fun s j =>
    match j.work with
    | .pair r _ => (s.dropSat j).pairEnd j r 9 0
    | _ => s) s

/-- Entry to STOP. -/
def State.enterStop (s : State) (pid : Nat) : State :=
  let s1 := (s.abandonPairs pid).enterQ pid 3 false
  (s1.blocksOf pid).foldl State.stopBlock s1

/-- The cores of a partition, and its dies: (`dieid`, die, tile, `vcid`), a die without a core with tile 144. -/
def State.coresOf (s : State) (pid : Nat) : List (Nat × Nat × Nat × Nat) :=
  (s.diesOf pid).flatMap fun e =>
    (e.1, e.2, 144, 0) :: (s.tilesOf e.2 pid).map (fun t => (e.1, e.2, t, s.vcidAt e.2 t pid))

/-- Entry to REMAP: what names the cores had is kept for RESUME. -/
def State.enterRemap (s : State) (pid : Nat) : State :=
  { s.enterQ pid 6 true with coresWere := s.coresWere.set pid (s.coresOf pid) [] }

/-! ### RESUME (R421, R425) -/

/-- Does a virtual core exist? -/
def State.coreExists (s : State) (pid k vcid : Nat) : Bool :=
  match s.dieOf pid k with
  | none => false
  | some d => (s.tileOfVcid d pid vcid).isSome

/-- The new number of a core, none where it was removed: that of the tile on which it stands, or, where it has left that tile, its own if a
tile that bore no core has it now. -/
def State.renumber (s : State) (pid k vcid : Nat) : Option Nat :=
  let were := (s.coresWere.get pid []).filter (fun c => c.2.2.1 != 144)
  match were.find? (fun c => c.1 == k && c.2.2.2 == vcid) with
  | none => if s.coreExists pid k vcid then some vcid else none
  | some (_, die, tile, _) =>
    if s.dieOf pid k == some die && (s.worldIn die tile pid).isSome then some (s.vcidAt die tile pid)
    else
      match s.dieOf pid k with
      | none => none
      | some d =>
        match s.tileOfVcid d pid vcid with
        | some t => if were.any (fun c => c.2.1 == d && c.2.2.1 == t) then none else some vcid
        | none => none

/-- Where a core that has another number went. -/
def State.movedTo (s : State) (pid k vcid : Nat) : Option Nat := (s.renumber pid k vcid).filter (· != vcid)

/-- The number that takes what belonged to a core: its own new one, or, of a removed core, that of the core which took its number (R425). -/
def State.heir (s : State) (pid k vcid : Nat) : Option Nat :=
  (s.renumber pid k vcid).orElse (fun _ => if s.coreExists pid k vcid then some vcid else none)

/-- The inboxes of a partition's contexts follow their cores; a removed core's messages come after those of the core that takes its
number. -/
def State.moveInboxes (s : State) (pid : Nat) : State :=
  let mine := s.inboxes.filter (fun e => s.ctxPid (e.1 / 2 ^ 18) == some pid)
  let key := fun (k : Nat) (v : Nat) => inboxKey (k / 2 ^ 18) (k / 2 ^ 12 % 64) v (k % 16)
  let vc := fun (k : Nat) => k / 16 % 256
  let did := fun (k : Nat) => k / 2 ^ 12 % 64
  let moved := mine.filter (fun e => (s.renumber pid (did e.1) (vc e.1)).isSome)
  let rest := mine.filter (fun e => (s.renumber pid (did e.1) (vc e.1)).isNone)
  let base := { s with inboxes := s.inboxes.filter (fun e => s.ctxPid (e.1 / 2 ^ 18) != some pid) }
  (moved ++ rest).foldl (fun t e =>
    match s.heir pid (did e.1) (vc e.1) with
    | some v => t.setInbox (key e.1 v) (t.inbox (key e.1 v) ++ e.2)
    | none => t) base

/-- The work lists of a launch follow their cores. -/
def State.moveLists (s : State) (id : Nat) (k : Nat) : State :=
  let l := s.launch id
  let go := fun (v : Nat) => s.renumber l.pid k v
  let ls := l.lists.filter (fun e => (go e.1).isSome) ++ l.lists.filter (fun e => (go e.1).isNone)
  let gs := l.getters.map (fun g => { g with vcid := (s.heir l.pid k g.vcid).getD g.vcid })
  if l.lists.all (fun e => s.renumber l.pid k e.1 == some e.1) then s.setLaunch id { l with getters := gs }
  else
    ls.foldl (fun t e =>
      match s.heir l.pid k e.1 with
      | some v => e.2.foldl (fun t x => t.appendItem id v x) t
      | none => t) (s.setLaunch id { l with lists := [], heads := [], getters := gs })

/-- The drone designation of a slot follows its core. -/
def State.moveDrone (s : State) (pid k die : Nat) : State :=
  match s.pslot die pid, s.drone die pid with
  | some n, some (_, v) => s.setFld (partReg die n 0x18) 7 0 ((s.movedTo pid k v).getD v)
  | _, _ => s

/-- The binding of a PAIR context follows its core. -/
def State.movePair (s : State) (pid : Nat) : State :=
  { s with ctxWords := s.ctxWords.map fun e =>
      if e.1 / 2 ^ 56 = 3 ∧ s.ctxPid (e.1 / 2 ^ 32 % 4096) = some pid ∧ field e.2 62 60 = 2 then
        (e.1, withField e.2 13 6 ((s.movedTo pid (field e.2 19 14) (field e.2 13 6)).getD (field e.2 13 6)))
      else e }

/-- The die that a `dieid` named before the REMAP. -/
def State.dieWas (s : State) (pid k : Nat) : Option Nat :=
  ((s.coresWere.get pid []).find? (fun c => c.1 == k && c.2.2.1 == 144)).map (·.2.1)

/-- Where a die of a partition went: the new die of its `dieid`. -/
def State.dieNow (s : State) (pid die : Nat) : Nat :=
  match (s.coresWere.get pid []).find? (fun c => c.2.1 == die && c.2.2.1 == 144) with
  | none => die
  | some c => (s.dieOf pid c.1).getD die

/-- The registers of a slot, by offset from its die. -/
def State.slotRegs (s : State) (die n : Nat) : List (Nat × W64) :=
  (s.maint.filter (fun e => inSlot die n e.1)).map (fun e =>
    let o := e.1 - dieBase die
    (if o < 0x20000 then o - 0x400 * n else o - 0x100 * n, e.2))

/-- The queue and partition registers of a `dieid` move with it to its new die. -/
def State.moveSlots (s : State) (pid : Nat) : State :=
  let moves := (s.diesOf pid).filterMap fun e =>
    match s.dieWas pid e.1 with
    | some d => if d = e.2 then none else (s.pslot d pid).map (fun n => (e.2, s.slotRegs d n))
    | none => none
  let s1 := moves.foldl (fun s m => s.freeSlotOn m.1 pid) s
  let s2 := s1.fixSlots pid
  moves.foldl (fun s m =>
    match s.pslot m.1 pid with
    | none => s
    | some n => m.2.foldl (fun s r =>
        s.setReg (dieBase m.1 + r.1 + (if r.1 < 0x20000 then 0x400 * n else 0x100 * n)) r.2) s) s2

/-- Launches, blocks out of their cores, batches and waiting drones of a partition name the new dies. -/
def State.moveDies (s : State) (pid : Nat) : State :=
  let go := fun (d : Nat) => s.dieNow pid d
  { s with
    launches := s.launches.map (fun e => if e.2.pid = pid then (e.1, { e.2 with die := go e.2.die }) else e),
    blocks := s.blocks.map (fun e => if e.2.pid = pid ∧ e.2.die ≠ 64 then (e.1, { e.2 with die := go e.2.die }) else e),
    batches := s.batches.map (fun b => if b.pid = pid then { b with die := go b.die } else b),
    batchSeq := (s.batchSeq.map (fun e => if e.1 % 256 = pid then (go (e.1 / 256) * 256 + pid, e.2) else e)).foldl
      (fun t e => t.set e.1 e.2 0) [],
    drones := s.drones.map (fun e => if e.2 = pid then (go e.1, pid) else e) }

/-- The members of a route by the new numbers of their cores; their instance counts stay theirs (R425). -/
def State.renumberMembers (s : State) (pid : Nat) (x : Route) : Route :=
  { x with members := x.members.map (fun m => (m.1, m.2.1, (s.renumber pid m.2.1 m.2.2).getD m.2.2)) }

/-- A route with a member whose core no longer exists becomes UNSET; another READY one gets new paths (R422). -/
def State.dropRoutes (s : State) (pid : Nat) : State :=
  (List.range 64).foldl (fun s r =>
    let x := s.route pid r
    let y := s.renumberMembers pid x
    if x.state = .unset then s
    else if x.state = .failed then s.setRoute pid r y
    else if x.members.any (fun m => (s.renumber pid m.2.1 m.2.2).isNone) then s.setRoute pid r { x with state := .unset }
    else s.setRoute pid r (s.layPaths pid y)) s

/-- CORE_LOST is delivered for a LOST block, which then counts as ended (R428). -/
def State.deliverLost (s : State) (u : Nat) : State :=
  let b := s.block u
  let ec := ecauseWord .coreLost false 0
  let w := { s.wave u 0 with ecause := ec, ebad := BitVec.ofNat 64 b.lostVcid }
  let s1 := (s.setBlock u { b with coreLostHeld := false, delivered := true, causeWave := some 0 }).setWave u 0 w
  let s2 := s1.queueHandler u 15 ec 0
  let l := s2.launch b.launch
  s2.setLaunch b.launch { l with endedN := l.endedN + 1 }

/-- Held trap deliveries of a partition are made, in the order of the stops (R401); those of LOST blocks by RESUME alone (R428). -/
def State.deliverHeld (s : State) (pid : Nat) (resume : Bool) : State :=
  ((s.blocksOf pid).mergeSort (fun u v => decide ((s.block u).stopNo ≤ (s.block v).stopNo))).foldl (fun s u =>
    let b := s.block u
    if b.state = .halted ∧ b.delivered = false then s.deliverTrap u
    else if b.state = .lost ∧ b.coreLostHeld = true ∧ resume = true then s.deliverLost u
    else s) s

/-- A field of the host-control registers of a partition's VF (R436): 1 SHAPEREQ, 2 SHAPESTAT, 3 KILLH, 5 REPORTGEN. -/
def State.vfReg (s : State) (pid i : Nat) : W64 := s.vfr.get (pid * 8 + i) 0
def State.setVfReg (s : State) (pid i : Nat) (v : W64) : State := { s with vfr := s.vfr.set (pid * 8 + i) v 0 }

/-- STATUS of SHAPESTAT leaves PENDING, which MSI-X vector 1 tells (R436). -/
def State.shapeDone (s : State) (pid st : Nat) : State :=
  if field (s.vfReg pid 2) 7 0 = 1 then (s.setVfReg pid 2 (withField (s.vfReg pid 2) 7 0 st)).sendMsix pid 1 else s

/-- The bytes of a core's entry in a shape report. -/
def State.reportCore (s : State) (pid die t : Nat) : List Byte :=
  leBytes (t + s.fld (tileReg die t) 11 0 * 2 ^ 8 + (s.worldIn die t pid).getD 0 * 2 ^ 20) 4

/-- The bytes of a die's entry: the cores in ascending `vcid`. -/
def State.reportDie (s : State) (pid die : Nat) : List Byte :=
  let n := (s.tilesOf die pid).length
  [BitVec.ofNat 8 die, BitVec.ofNat 8 n] ++
    (List.range n).flatMap (fun v => match s.tileOfVcid die pid v with
      | some t => s.reportCore pid die t
      | none => [])

/-- The shape report of a partition (R453). -/
def State.shapeReport (s : State) (pid : Nat) : List Byte :=
  let regs := (List.range 192).map (fun n => partCtl pid (0x100 + 8 * n)) ++ (List.range 16).map (fun n => partCtl pid (0x800 + 8 * n))
  let flags := (s.sealed pid).toNat + 2 * s.fld (partCtl pid 0) 38 38 + 4 * s.fld (partCtl pid 0) 41 40
  let ds := s.diesOf pid
  leBytes (s.vfReg pid 5).toNat 8 ++ [BitVec.ofNat 8 pid, BitVec.ofNat 8 flags] ++ leBytes ds.length 2 ++ leBytes 0 4 ++
    sha384 (regs.flatMap (fun a => leBytes (s.reg a).toNat 8)) ++ ds.flatMap (fun e => s.reportDie pid e.2)

/-- The shape report that a reader gets: in the quiesce protocol that of the last entry to RUN (R453). -/
def State.reportNow (s : State) (pid : Nat) : List Byte := if s.quiescing pid then s.reports.get pid [] else s.shapeReport pid

/-- The device interface report of a TDI: the shape report, signed with the north rim's key (R437, R451; sent at LOCK: assumption 128). -/
def State.deviceReport (s : State) (pid : Nat) : List Byte :=
  s.reportNow pid ++ identitySign 64 (s.reportNow pid)

/-- The report is kept when a partition comes to run from OFF and at each RESUME, for readers during the quiesce protocol. -/
def State.keepReport (s : State) (pid : Nat) : State := { s with reports := s.reports.set pid (s.shapeReport pid) [] }

/-- RESUME. -/
def State.resumeAll (s : State) (pid : Nat) : State :=
  let s1 := ((s.moveSlots pid).moveDies pid).moveInboxes pid
  let ids := (s1.launches.filter (fun e => e.2.pid == pid)).map (·.1)
  let s2 := ids.foldl (fun s id => s.moveLists id ((s.dieidOf pid (s.launch id).die).getD 0)) s1
  let s3 := (s2.diesOf pid).foldl (fun s e => s.moveDrone pid e.1 e.2) s2
  let s4 := ((s3.movePair pid).dropRoutes pid).enterQ pid 1 false
  let s5 := (s4.setVfReg pid 5 (s4.vfReg pid 5 + 1)).keepReport pid
  let s6 := (s5.deliverHeld pid true).shapeDone pid 0
  { s6 with coresWere := s6.coresWere.erase pid, shaped := s6.shaped.erase pid,
            lost := s6.lost.filter (fun c => c.pid != pid) }

/-! ### Commands (R417) -/

/-- Is a command a transition of the table? None makes an inconsistent partition RUN, FREEZE's withdrawal among them (R414), and none runs on a
module whose identity check failed (R449). -/
def State.cmdOk (s : State) (pid cmd : Nat) : Bool :=
  match s.qstate pid, cmd with
  | 0, 1 => s.consistent pid && s.fld 0x100 1 0 != 2 && s.featWritten && (!s.sealed pid || !(s.keysOf pid).isEmpty)
  | 1, 2 => true
  | 2, 1 => s.consistent pid
  | 2, 3 => true
  | 3, 4 => s.quiesceDone pid
  | 4, 5 => s.quiesceDone pid
  | 5, 6 => s.quiesceDone pid
  | 6, 1 => s.consistent pid
  | _, _ => false

/-- A command that is accepted. -/
def State.command (s : State) (pid cmd : Nat) : State :=
  match cmd with
  | 1 =>
    if s.qstate pid = 6 then s.resumeAll pid
    else
      let s1 := (s.fixSlots pid).enterQ pid 1 false
      (if s.qstate pid = 0 then s1.keepReport pid else s1).deliverHeld pid false
  | 2 => s.enterQ pid 2 true
  | 3 => s.enterStop pid
  | 4 => s.enterQ pid 4 false
  | 5 => s.enterQ pid 5 false
  | _ => s.enterRemap pid

/-- A write of PSTATE (R415, R417): RCLASS and NOSHRINK, SEALED in OFF alone and where sealing is accepted (R446), and CMD, where 0 asks for nothing. -/
def State.pstateWrite (s : State) (via : Via) (pid : Nat) (v : W64) : State :=
  let a := partCtl pid 0
  let off := s.qstate pid == 0 && s.feature 1
  let keep := field (s.reg a) 39 39
  let cmd := field v 11 8
  s.ruledWrite via a v true fun s =>
    let s1 := s.setReg a (withField (s.written a via v) 39 39 (if off then field v 39 39 else keep))
    let s2 := if !off && field v 39 39 != keep then s1.logIgnored a else s1
    if cmd = 0 then s2 else if s2.cmdOk pid cmd then s2.command pid cmd else s2.logIgnored a

/-- A write of PSTATE that carries a command. -/
def State.cmdWrite (s : State) (via : Via) (pid cmd : Nat) (v : W64) : State :=
  if s.reaches via && field v 11 8 == cmd then s.pstateWrite via pid v else s

/-- PSTATE_CMD_RUN. -/
def execPstateCmdRun (via : Via) (pid : Nat) (value : W64) (s : State) : Out := .next (s.cmdWrite via pid 1 value)
/-- PSTATE_CMD_FREEZE. -/
def execPstateCmdFreeze (via : Via) (pid : Nat) (value : W64) (s : State) : Out := .next (s.cmdWrite via pid 2 value)
/-- PSTATE_CMD_STOP. -/
def execPstateCmdStop (via : Via) (pid : Nat) (value : W64) (s : State) : Out := .next (s.cmdWrite via pid 3 value)
/-- PSTATE_CMD_DRAIN. -/
def execPstateCmdDrain (via : Via) (pid : Nat) (value : W64) (s : State) : Out := .next (s.cmdWrite via pid 4 value)
/-- PSTATE_CMD_FLUSH. -/
def execPstateCmdFlush (via : Via) (pid : Nat) (value : W64) (s : State) : Out := .next (s.cmdWrite via pid 5 value)
/-- PSTATE_CMD_REMAP. -/
def execPstateCmdRemap (via : Via) (pid : Nat) (value : W64) (s : State) : Out := .next (s.cmdWrite via pid 6 value)

/-! ### The end of a state's work (R421) -/

/-- Is a block off its core, or does it wait to stop only for an incomplete fabric instance (R329)? -/
def State.outOrFabric (s : State) (u : Nat) : Bool :=
  let b := s.block u
  !b.standing ||
    (b.state == .running && b.stopping != .no && b.broadcast && b.waves.all (fun w => w.stopped || w.ended) &&
      s.mqueue.all (fun e => e.2.all (fun x => x.uid != u)) &&
      s.jobs.all (fun j => j.uid != u || !j.onBuffers || j.work == .fabric) &&
      s.writes.all (fun w => w.uid != u || decide (w.level ≥ 4)) && s.fab.any (fun o => o.uid == u))

/-- May an item on its way still reach its list? -/
def State.itemsMove (s : State) (pid : Nat) : Bool :=
  s.launches.any fun e => e.2.pid == pid &&
    e.2.inFlight.any (fun x => e.2.quiet || decide ((e.2.lists.get x.vcid []).length < 2 ^ s.listLog e.2))

/-- Has everything of a partition that DRAIN lets run completed, fabric instances apart? -/
def State.drained (s : State) (pid : Nat) : Bool :=
  s.jobs.all (fun j => j.pid != pid || j.work == .fabric) && s.ams.all (fun m => m.pid != pid) && !s.itemsMove pid

/-- The routes on which a partition has an incomplete instance fail, with ABORTED (R329). -/
def State.abortFabric (s : State) (pid : Nat) : State :=
  ((s.fab.filter (fun o => o.pid == pid)).map (·.route)).eraseDups.foldl (fun s r =>
    (s.abortRoute pid r 8).setRoute pid r { s.route pid r with state := .failed }) s

/-- Is an address in a granule of a partition's frame map? -/
def State.inMap (s : State) (pid pa : Nat) : Bool := isHbm pa && s.inFrames pid pa 1

/-- FLUSH: lines of the frame map leave the caches, partials are combined at the home. -/
def State.flushAll (s : State) (pid : Nat) : State :=
  let s1 := (s.rcache.filter (fun x => (s.block x.uid).pid == pid)).foldl State.evict s
  let us := s1.ucopies.filter (fun u => s1.inMap pid u.pa)
  let s2 := us.foldl State.combine ({ s1 with ucopies := s1.ucopies.filter (fun u => !us.contains u) })
  { s2 with stale := s2.stale.filter (fun e => !s2.inMap pid (e.1 % 2 ^ 48)) }

end Sys2Proof.Machine
end

