-- ==== Sys2Proof/Machine/Tiles.lean ====
section
/-! DEFINITION. Failed tiles (19 R427 to R430) and dropped flits (13 R313, 19 R419, R420). -/

namespace Sys2Proof.Machine

/-! ### What a failed tile takes with it (R427, R428) -/

/-- The cores of the worlds of a tile. -/
def State.coresAt (s : State) (die t : Nat) : List LostCore :=
  ((s.pidsOn die t).filter (fun p => (s.worldIn die t p).isSome)).eraseDups.map
    (fun p => { die := die, tile := t, pid := p, dieid := (s.dieidOf p die).getD 0, vcid := s.vcidAt die t p,
                drone := s.droneTile die p == some t })

/-- A block that was resident becomes LOST. -/
def State.loseBlock (s : State) (u : Nat) : State :=
  let v := s.vcidAt (s.block u).die (s.block u).tile (s.block u).pid
  let s1 := (s.wakeTargets u .no).detachBlock u
  let b := s1.block u
  let b1 : Block := { b with
                     state := .lost, stopNo := s1.nextUid, resident := false, stopping := .no, broadcast := false, coreLostHeld := true, delivered := false,
                     held := [], lostVcid := v, waves := b.waves.map (fun (w : Wave) => { w with slots := [], waiting := .none, parked := [] }) }
  let s2 : State := { s1.setBlock u b1 with nextUid := s1.nextUid + 1 }
  { s2 with launches := s2.launches.map (fun e => (e.1, { e.2 with workers := e.2.workers.filter (fun w => w.1 != u) })) }

/-- The blocks that stand on a tile. -/
def State.blocksAt (s : State) (die t : Nat) : List Nat :=
  s.uids.filter (fun u => (s.block u).standing && (s.block u).die == die && (s.block u).tile == t)

/-- The READY routes (64 pid + route) whose paths cross a tile's router. -/
def State.crossing (s : State) (die t : Nat) : List Nat :=
  (s.routes.filter (fun e => e.2.state == .ready && e.2.paths.contains (die, t))).map (·.1)

/-- A route fails, and every die of the partition with a member of it is told (R430). -/
def State.routeFailed (s : State) (die t k : Nat) : State :=
  let pid := k / 64
  let r := k % 64
  let ds := ((s.route pid r).members.filterMap (fun m => s.dieOf pid m.2.1)).eraseDups
  ds.foldl (fun s d => s.event pid d (7 + r * 2 ^ 8) (tileTag die t)) (s.failRoute pid r)

/-- The physical lines of the images of a block, where its die translates them. -/
def State.imagePaLines (s : State) (b : Block) : List Nat :=
  (List.range (b.waves.length + 1)).flatMap fun part =>
    (List.range ((b.partBytes part + 191) / 192)).filterMap fun i =>
      (s.dieXlat b.die b.ctxn b.pid (b.partVa part (192 * i))).map (fun e => e.pa (b.partVa part (192 * i)) / 192)

/-- The tile of a die whose L2 slice holds a line: for a line of the image of a block that stands there, the block's own, while its slice
has room (R79); else that which the die's hash gives (assumption 21). -/
def State.sliceTile (s : State) (die line : Nat) : Nat :=
  match s.uids.find? (fun u =>
      let b := s.block u
      b.standing && b.die == die && Config.sliceRoom die b.tile line && (s.imagePaLines b).contains line) with
  | some u => (s.block u).tile
  | none => Config.sliceOf die line % 144

/-- Does a line of a write performed at the die lie in the L2 slice of a tile? -/
def sliceHolds (slice : Nat → Nat) (die t : Nat) (w : PWrite) : Bool :=
  w.die == die && w.level == 3 && w.target == 4 && !w.held && slice (w.pa / 192) == t

/-- The contents of the tile go (steps 5 to 7): its stores not performed at `die` are lost, but not what its performed atomics wrote, and lines
held only in its slice are marked at their homes. `slice` says where the die's lines lay. -/
def State.loseContents (s : State) (slice : Nat → Nat) (die t : Nat) : State :=
  let core := die * 144 + t
  let marked := (s.writes.filter (sliceHolds slice die t)).flatMap (fun w => (List.range w.bytes.length).map (fun i => (w.pa + i) / 8))
  { s with
    writes := s.writes.filter (fun w => !(w.die == die && w.tile == t && decide (w.level < 3) && !w.rmw) && !sliceHolds slice die t w),
    marks := (s.marks ++ marked).eraseDups,
    ucopies := s.ucopies.filter (fun u => !(u.die == die && u.tile == t)),
    stale := s.stale.filter (fun e => e.1 / 2 ^ 48 != 100000 + core &&
      !(e.1 / 2 ^ 48 == 300000 + die && slice (e.1 % 2 ^ 48 / 192) == t)),
    rcache := s.rcache.filter (fun x => x.quarter / 4 != core), icache := s.icache.filter (fun c => !(c.die == die && c.tile == t)),
    tlb := s.tlb.filter (fun e => !(e.die == die && (e.quarter.map (·.1)) == some t)) }

/-- A job ends with an error, and what it holds of its block's buffers is let go (R125). -/
def State.failJob (s : State) (j : Job) (status : Nat) : State :=
  match j.work with
  | .copy d => (s.copyEnd j d status).retireJob j status 0
  | .chain x => s.chainEnd j x.copy status 0
  | .pair r _ => (s.dropSat j).pairEnd j r status 0
  | .fabric =>
    match s.fab.find? (fun o => o.ctxn == j.ctxn && o.handle == j.handle && o.num == j.num && o.kind != .crecv) with
    | some o => s.endInstance o.pid o.route o.inst status
    | none => s.retireJob j status 0
  | _ => s.retireJob j status 0

/-- Jobs of the tile's engines, and of the blocks that are lost with it, retire with ABORTED (step 8). -/
def State.abortAt (s : State) (die t : Nat) (us : List Nat) : State :=
  (s.jobs.filter (fun j => (j.die == die && j.tile == t) || us.contains j.uid)).foldl (fun s j => s.failJob j 8) s

/-! ### Detours (R418) -/

/-- The values below `n` among numbers of `w` bits, as aligned blocks: each a match and a mask. -/
def blocksBelow (n w : Nat) : List (Nat × Nat) :=
  (List.range w).filterMap (fun i => if n.testBit i then some (n / 2 ^ i * 2 ^ i - 2 ^ i, 2 ^ w - 2 ^ i) else none)

/-- The values from `n` up. -/
def blocksFrom (n w : Nat) : List (Nat × Nat) :=
  (blocksBelow (2 ^ w - n) w).map (fun e => ((2 ^ w - 1 - e.1) &&& e.2, e.2))

/-- Matches and masks on DST: the destinations of lower y than a row of the global grid, and those of higher. -/
def rowsBelow (y : Nat) : List (Nat × Nat) :=
  (blocksBelow (y / 12) 3).map (fun e => (e.1 * 2 ^ 8, e.2 * 2 ^ 8)) ++
    (blocksBelow (12 * (y % 12)) 8).map (fun e => (y / 12 * 2 ^ 8 + e.1, 7 * 2 ^ 8 + e.2))
def rowsAbove (y : Nat) : List (Nat × Nat) :=
  (blocksFrom (y / 12 + 1) 3).map (fun e => (e.1 * 2 ^ 8, e.2 * 2 ^ 8)) ++
    (blocksFrom (12 * (y % 12 + 1)) 8).map (fun e => (y / 12 * 2 ^ 8 + e.1, 7 * 2 ^ 8 + e.2))

/-- The detours around a dead router, each a place and its entries (direction, match, mask). Beside it packets leave its row, toward their
own; before and behind it in its column they go round by the next column (which detours is assumption 126). -/
def ring (x y : Nat) : List ((Int × Int) × List (Nat × Nat × Nat)) :=
  let sx : Int := if x < 95 then x + 1 else x - 1
  let sd := if x < 95 then 1 else 3
  let go := fun (d : Nat) (l : List (Nat × Nat)) => l.map (fun e => (d, e.1, e.2))
  let side := go 0 (rowsBelow y) ++ [(if y < 95 then 2 else 0, 0, 0)]
  [(((x : Int) - 1, (y : Int)), side), ((x + 1, y), side), ((x, y - 1), go sd (rowsAbove y)), ((sx, y - 1), go 2 (rowsAbove y)),
    ((x, y + 1), go sd (rowsBelow y)), ((sx, y + 1), go 0 (rowsBelow y))]

/-- Entries go to the free places of a live router's table. -/
def State.putDetours (s : State) (p : Int × Int) (es : List (Nat × Nat × Nat)) : State :=
  let q := tileAt (p.1.toNat, p.2.toNat)
  let a := fun (k : Nat) => dieBase q.1 + 0x81000 + 0x80 * q.2 + 8 * k
  if p.1 < 0 ∨ p.2 < 0 ∨ p.1 > 95 ∨ p.2 > 95 ∨ s.tileKind q.1 q.2 = 4 then s
  else
    es.foldl (fun s e =>
      match (List.range 16).find? (fun k => !(s.reg (a k)).getLsbD 63) with
      | some k => s.setReg (a k) (BitVec.ofNat 64 (2 ^ 63 + e.1 * 2 ^ 58 + e.2.1 * 2 ^ 32 + e.2.2))
      | none => s) s

/-- The chanter, where it runs, writes the detours around a tile. -/
def State.detourAround (s : State) (die t : Nat) : State :=
  let p := placeAt die t
  if s.verified && !s.chanterHalted then (ring p.1 p.2).foldl (fun s e => s.putDetours e.1 e.2) s else s

/-- One failed tile. -/
def State.failTile (s : State) (die t : Nat) : State :=
  let us := s.blocksAt die t
  let rs := s.crossing die t
  let s1 := us.foldl State.loseBlock s
  let s2 := s1.setFld (tileReg die t) 59 56 4
  (((rs.foldl (fun s k => s.routeFailed die t k) s2).detourAround die t).loseContents (s.sliceTile die) die t).abortAt die t us

/-! ### Spares (R429) -/

/-- Is one lost core served before another: higher RCLASS, a core that hosted a drone, lower PID, lower tile? -/
def State.servedBefore (s : State) (a b : LostCore) : Bool :=
  let cls := fun (c : LostCore) => s.fld (partCtl c.pid 0) 41 40
  let key := fun (c : LostCore) => (cls c * 2 + c.drone.toNat) * 65536 + (255 - c.pid % 256) * 256 + (255 - c.tile % 256)
  decide (key a > key b)

/-- The spares of a die that no lost core has been given. -/
def State.spares (s : State) (die : Nat) : List Nat :=
  (List.range 144).filter (fun t => s.tileKind die t == 2 && !s.lost.any (fun c => c.die == die && c.spare == some t))

/-- The spare that a lost core of one interval is given: of those of its die, in its turn. -/
def State.spareFor (s : State) (lost : List LostCore) (failed : List (Nat × Nat)) (c : LostCore) : Option Nat :=
  ((s.spares c.die).filter (fun t => !failed.contains (c.die, t)))[(lost.filter (fun x => x.die == c.die && s.servedBefore x c)).length]?

/-- Tiles fail. The lost numbers of a partition await its next REMAP, and TILE_FAILED tells it of each; a tile without work of this kind only
fails. -/
def State.failTiles (s : State) (fs : List (Nat × Nat)) : State :=
  let cores := fs.flatMap (fun e => s.coresAt e.1 e.2)
  let lost := cores.map (fun c => { c with spare := s.spareFor cores fs c })
  let s1 := fs.foldl (fun s e => s.failTile e.1 e.2) s
  let s2 := lost.foldl (fun s c => s.event c.pid c.die (6 + c.vcid % 256 * 2 ^ 8 + (if c.spare.isSome then 2 ^ 16 else 0)) (c.dieid % 64)) s1
  { s2 with lost := s2.lost ++ lost }

/-- TILE_PROBE: the tiles that failed in one detection interval, whose core or router is silent or reports an unrecoverable error. While the
chanter is stopped nothing probes (R479). -/
def execTileProbe (silent erring : List (Nat × Nat)) (s : State) : Out := .next <|
  if s.chanterHalted then s
  else
    s.failTiles (((silent ++ erring).filter (fun e =>
      decide (e.1 < 64) && decide (e.2 < 144) && s.tileKind e.1 e.2 != 3 && s.tileKind e.1 e.2 != 4)).eraseDups)

/-- A write of TILEMAP (R412): FAILED is accepted from any KIND but HOLE, and the tile fails with all that stood on it. -/
def State.tilemapWrite (s : State) (via : Via) (die t : Nat) (v : W64) : State :=
  let a := tileReg die t
  let old := s.tileKind die t
  let new := field v 59 56
  let changes := s.written a via v != s.reg a
  let ok := !(changes && (old == 3 || old == 4)) && new != 3 && decide (new < 5) &&
    (new == 4 || !(changes && old == 1 && (s.pidsOn die t).any (fun p => s.qstate p != 0 && s.qstate p != 6)))
  s.ruledWrite via a v ok (fun s =>
    let s1 := if new = 4 ∧ old ≠ 4 then s.failTiles [(die, t)] else s
    s.reowned (s1.setReg a (s.written a via v)) die t)

/-! ### Dropped flits (R313, R419) -/

/-- A field of a flit header. -/
def hdrField (x : BitVec 128) (h l : Nat) : Nat := x.toNat / 2 ^ l % 2 ^ (h + 1 - l)

/-- The die and tile of DST or SRC. -/
def tagDie (n : Nat) : Nat := n / 2 ^ 11 % 8 + 8 * (n / 2 ^ 8 % 8)
def tagTile (n : Nat) : Nat := n % 256

/-- Does a granule of PID, or a window granted to it, hold an address (R419)? -/
def State.inReach (s : State) (pid pa : Nat) : Bool := s.inFrames pid pa 1

/-- Does a flit bear out the reason of its drop (R419, R420)? A flit to a core has no address; one to a memory agent goes to `pa`. MGMT
goes by WB alone (R313). -/
def State.dropStands (s : State) (x : BitVec 128) (pa : Option Nat) (reason : Nat) : Bool :=
  let dst := hdrField x 31 18
  let pid := hdrField x 7 0
  let mgmt := hdrField x 10 9 == 3
  let wb := hdrField x 8 8 == 1
  let owned := s.tileKind (tagDie dst) (tagTile dst) == 1
  match reason, pa with
  | 1, none => owned && !(s.tagPids (tagDie dst) (tagTile dst)).contains pid && !mgmt && !wb
  | 2, some a => !s.inReach pid a && !mgmt && !wb
  | 3, _ => mgmt != wb
  | 4, none => !owned && !mgmt && !wb
  | _, _ => false

/-- Does a flit reach the router that checks its tag, that of DST, from SRC by the detours (R418, R419)? -/
def State.flitArrives (s : State) (x : BitVec 128) : Bool :=
  let src := hdrField x 45 32
  let dst := hdrField x 31 18
  let q := placeAt (tagDie dst) (tagTile dst)
  decide (tagTile src < 144) && decide (tagTile dst < 144) && s.routed dst q 9216 (placeAt (tagDie src) (tagTile src))

/-- The dropped load, store or atomic of a thread is performed no more. -/
def State.dropAccess (s : State) (uid wid lane va : Nat) : State :=
  let w := s.wave uid wid
  let gone := fun (q : Req) => q.lane == lane && q.va == va && q.open_
  let s1 := s.setWave uid wid { w with slots := w.slots.map (fun e => (e.1, { e.2 with reqs := e.2.reqs.filter (fun q => !gone q) }.tidy)) }
  { s1 with writes := s1.writes.filter (fun x => !(x.uid == uid && x.wid == wid && x.lane == lane && x.va == va && decide (x.level < x.target))) }

/-- The answer on RSP to a packet that expects a reply. -/
def State.answerDrop (s : State) (ans : DropAnswer) : State :=
  match ans with
  | .none => s
  | .access uid wid lane va =>
    let b := s.block uid
    if b.waves = [] ∨ b.state = .ended ∨ b.state = .lost then s
    else (s.dropAccess uid wid lane va).setBlock uid
      { (s.dropAccess uid wid lane va).block uid with held := b.held ++ [⟨.access, wid, BitVec.ofNat 64 va⟩] }
  | .job ctxn handle num =>
    match s.job ctxn handle num with
    | none => s
    | some j => s.failJob j 2

/-- FLIT_DROP, at the router of DST. -/
def execFlitDrop (die : Nat) (flit : Flit) (reason : Nat) (ans : DropAnswer) (s : State) : Out := .next <|
  if s.dropStands flit.header flit.pa reason && s.flitArrives flit.header && tagDie (hdrField flit.header 31 18) == die then
    ((s.logDrop die (flit.header.toNat % 2 ^ 46) reason).bumpDie die 0x85 1).answerDrop ans
  else s

end Sys2Proof.Machine
end

