-- ==== Sys2Proof/Machine/Reach.lean ====
section
/-! DEFINITION. What a thread's access meets on its way: the tag check of the memory agent (19 R419, 13 R313), and the lines of images that the
register cache holds (16 R364). -/

namespace Sys2Proof.Machine

/-! ### The tag check (R419) -/

/-- Is an address outside the frame map and the windows of the partition of a context? Rim cores, which have neither, have no context (R462).
An access is tested where it is performed (assumption 135). -/
def State.outside (s : State) (ctxn pa : Nat) : Bool :=
  match s.ctxPid ctxn with
  | some pid => !s.inReach pid pa
  | none => false

/-- The memory agent of a die drops the access of a thread: it is logged with the header of its request, reason FRAME, and answered with
ACCESS (R313, R420). -/
def State.dropMem (s : State) (uid wid lane va pa : Nat) : State :=
  let b := s.block uid
  let hdr := b.pid + 2 ^ 11 + tileTag b.die (s.sliceTile b.die (pa / 192)) * 2 ^ 18 + tileTag b.die b.tile * 2 ^ 32
  ((s.logDrop b.die hdr 2).bumpDie b.die 0x85 1).answerDrop (.access uid wid lane va)

/-- The open request of a lane in a slot that its memory agent drops. -/
def State.dropReq (s : State) (uid wid i L : Nat) : Option Req :=
  let x := (s.wave uid wid).slot i
  (x.reqs.find? (fun q => q.lane == L && q.open_)).filter fun q =>
    (x.kind == .load || x.kind == .atomic) && s.outside (s.block uid).ctxn q.pa

/-! ### Resident lines of images (R364) -/

/-- The vector line in a register cache whose place in its image holds a location: block, wave, register, byte in the line. -/
def State.imageLineAt (s : State) (pa : Nat) : Option (Nat × Nat × Nat × Nat) :=
  s.rcache.findSome? fun x =>
    let b := s.block x.uid
    let w := s.wave x.uid x.wid
    let va := b.partVa (x.wid + 1) (w.v0At + 192 * x.reg)
    if b.wimg = 0 ∨ b.standing = false then none
    else
      match s.dieXlat b.die b.ctxn b.pid va with
      | none => none
      | some e => if e.pa va ≤ pa ∧ pa < e.pa va + 192 then some (x.uid, x.wid, x.reg, pa - e.pa va) else none

/-- Before a read of image memory, the resident lines there are written through, so that it returns their current values. -/
def State.throughLines (s : State) (pa n : Nat) : State :=
  [pa, pa + n - 1].foldl (fun s a => match s.imageLineAt a with
    | some (u, w, r, _) => s.putLine u w r
    | none => s) s

/-- A byte stored to image memory changes the resident line that stands there. -/
def State.storeLineByte (s : State) (line : Option (Nat × Nat × Nat × Nat)) (b : Byte) : State :=
  match line with
  | some (u, w, r, k) =>
    let x := s.wave u w
    let old := leBytes (x.vreg r (k / 4)).toNat 4
    s.setWave u w (x.setV r (k / 4) (BitVec.ofNat 32 (leNat (old.set (k % 4) b))))
  | none => s

/-- A write of bytes at their home, which made `t` of the machine, changes the resident lines that stand there. -/
def State.storeLines (s : State) (pa : Nat) (bs : List Byte) (t : State) : State :=
  bs.zipIdx.foldl (fun t e => t.storeLineByte (s.imageLineAt (pa + e.2)) e.1) t

end Sys2Proof.Machine
end

