-- ==== Sys2Proof/Machine/Shape.lean ====
section
/-! DEFINITION. The shape of a partition (19 R424 to R426, 20 R436): how cores come, go and move in REMAP, and the requests of hosts for it.
Which tiles a change takes is the chanter's own choice (assumption 105). -/

namespace Sys2Proof.Machine

/-! ### The registers of a VF (R435, R436) -/

/-- The LD and number of the VF of a partition, of those that their LDs offer (R434). -/
def State.vfOf (s : State) (pid : Nat) : Option (Nat × Nat) :=
  ((List.range 16).flatMap (fun l => (List.range 16).map (fun v => (l, v)))).find? fun e => s.vfPid e.1 e.2 == some pid

/-- A write through BAR0 to a register that has no maintenance address is logged with detail 0 (R463). -/
def State.vfIgnored (s : State) : State := s.logIgnored 0

/-- Does a write to a host-control register of a partition's VF act: it is bound, and not in reset (R440)? In reset the write is
logged. -/
def State.vfWrite (s : State) (pid : Nat) (act : State → State) : State :=
  if (s.vfOf pid).isNone then s else if s.resetting.contains pid then s.vfIgnored else act s

/-! ### Cores come and go (R413, R424) -/

/-- The quarters of a tile that have a grade, as a mask. -/
def State.gradedMask (s : State) (die t : Nat) : Nat :=
  ((List.range 4).filter (fun q => s.grade die t q != 0)).foldl (fun m q => m + 2 ^ q) 0

/-- A tile becomes a core of a partition, as its world 0. -/
def State.placeCore (s : State) (die t pid vcid : Nat) : State :=
  let s1 := ((s.setFld (tileReg die t) 39 32 vcid).setFld (tileReg die t) 59 56 1).setFld (splitReg die t) 39 32 pid
  (s1.setFld (splitReg die t) 19 16 (s.gradedMask die t)).setFld (splitReg die t) 23 20 0

/-- A core leaves its partition: the tile is zeroed (R421), and one whose other world has no quarter becomes FREE. -/
def State.dropCore (s : State) (die t pid : Nat) : State :=
  let c := s.reg (splitReg die t)
  let s := s.zeroTile die t
  match s.worldIn die t pid with
  | some 0 => if field c 23 20 = 0 then s.setFld (tileReg die t) 59 56 0 else s.setFld (splitReg die t) 19 16 0
  | some _ => if field c 19 16 = 0 then s.setFld (tileReg die t) 59 56 0 else s.setFld (splitReg die t) 23 20 0
  | none => s

/-- A core takes another number. -/
def State.setVcid (s : State) (die t pid vcid : Nat) : State :=
  if s.worldIn die t pid = some 0 then s.setFld (tileReg die t) 39 32 vcid else s.setFld (tileReg die t) 47 40 vcid

/-- The numbers of a partition's cores on a die. -/
def State.vcidsOn (s : State) (die pid : Nat) : List Nat := (s.tilesOf die pid).map (fun t => s.vcidAt die t pid)

/-- While a vacancy lies below the highest number, the highest takes the lowest vacant one (R425). -/
def State.makeDense (s : State) (die pid : Nat) : Nat → State
  | 0 => s
  | n + 1 =>
    let vs := s.vcidsOn die pid
    let top := vs.foldl max 0
    match (List.range top).find? (fun v => !vs.contains v), s.tileOfVcid die pid top with
    | some v, some t => (s.setVcid die t pid v).makeDense die pid n
    | _, _ => s

/-- The FREE tiles of a die, ascending. -/
def State.freeOn (s : State) (die : Nat) : List Nat := (List.range 144).filter (fun t => s.tileKind die t == 0)

/-- The drone goes to the core that takes the lost number, or else to the lowest-numbered of the die (R428). -/
def State.relaunchDrone (s : State) (c : LostCore) : State :=
  match s.pslot c.die c.pid with
  | some n =>
    if !c.drone then s
    else
      let s1 := s.setFld (partReg c.die n 0x18) 7 0 (if (s.tileOfVcid c.die c.pid c.vcid).isSome then c.vcid else 0)
      if s1.drones.contains (c.die, c.pid) then s1 else { s1 with drones := s1.drones ++ [(c.die, c.pid)] }
  | none => s

/-! ### The changes of REMAP (R424) -/

/-- The new cores take the next numbers, in ascending tile: first those that no core has though they are ABSENT or below the highest (R429;
assumption 134). -/
def State.grow (s : State) (pid die n : Nat) : State :=
  let vs := s.vcidsOn die pid
  let top := ((s.lost.filter (fun c => c.pid == pid && c.die == die)).map (·.vcid) ++ vs).foldl (fun m v => max m (v + 1)) 0
  let nums := ((List.range top).filter (fun v => !vs.contains v)) ++ (List.range n).map (top + ·)
  (((s.freeOn die).take n).zip nums).foldl (fun s e =>
    let s1 := s.placeCore die e.1 pid e.2
    let back := s1.lost.filter (fun c => c.pid == pid && c.die == die && c.vcid == e.2)
    back.foldl State.relaunchDrone { s1 with lost := s1.lost.filter (fun c => !back.contains c) }) s

/-- The highest numbers go; a die left without a core leaves DIEMAP where its `dieid` is the highest. -/
def State.shrink (s : State) (pid k die n : Nat) : State :=
  let left := (s.tilesOf die pid).length - n
  let s1 := ((s.tilesOf die pid).filter (fun t => decide (left ≤ s.vcidAt die t pid))).foldl (fun s t => s.dropCore die t pid) s
  if left = 0 ∧ (s.diesOf pid).length = k + 1 then s1.setFld (partCtl pid (8 + 8 * (k / 8))) (8 * (k % 8) + 7) (8 * (k % 8)) 0 else s1

/-- A core moves to a tile and keeps its number; what it was before the REMAP is there now (R425). -/
def State.moveCore (s : State) (pid die t die' t' : Nat) : State :=
  let s1 := (s.dropCore die t pid).placeCore die' t' pid (s.vcidAt die t pid)
  let go := fun (c : Nat × Nat × Nat × Nat) => if c.2.1 = die ∧ c.2.2.1 = t then (c.1, die', t', c.2.2.2) else c
  { s1 with coresWere := s1.coresWere.map (fun e => if e.1 = pid then (e.1, e.2.map go) else e) }

/-- Cores of the highest tiles move to FREE tiles of their die, keeping their numbers. -/
def State.compact (s : State) (pid die n : Nat) : State :=
  (((s.tilesOf die pid).reverse.take n).zip (s.freeOn die)).foldl (fun s e => s.moveCore pid die e.1 die e.2) s

/-- The semaphores of a partition on a die go to ones allotted on its new die, and the handle tables name those. -/
def State.moveSems (s : State) (pid k die die' : Nat) : State :=
  let held := (List.range 4096).filter (fun i => s.semPid die i == some pid)
  let moves := held.zip ((List.range 4096).filter (fun j => !(s.reg (semOwnReg die' j)).getLsbD 63))
  let s1 := moves.foldl (fun t m =>
    ((t.setReg (semOwnReg die' m.2) (s.reg (semOwnReg die m.1))).setReg (semOwnReg die m.1) 0).setSem (die' * 4096 + m.2)
      (s.sem (die * 4096 + m.1))) s
  { s1 with ctxWords := s1.ctxWords.map fun e =>
      if e.1 / 2 ^ 56 = 2 ∧ s.ctxPid (e.1 / 2 ^ 32 % 4096) = some pid ∧ e.2.getLsbD 63 = true ∧ field e.2 17 12 = k then
        match moves.find? (fun m => m.1 == field e.2 11 0) with
        | some m => (e.1, withField e.2 11 0 m.2)
        | none => e
      else e }

/-- The whole set of a die moves to another: numbers and `dieid` stay, DIEMAP is rewritten, the semaphores are copied (R424, R425). -/
def State.migrateDie (s : State) (pid k die die' : Nat) : State :=
  let s1 := ((s.tilesOf die pid).zip (s.freeOn die')).foldl (fun s e => s.moveCore pid die e.1 die' e.2) s
  let s2 := s1.setFld (partCtl pid (8 + 8 * (k / 8))) (8 * (k % 8) + 7) (8 * (k % 8)) (128 + die')
  s2.moveSems pid k die die'

/-! ### Shape requests (R424, R426, R436) -/

/-- Fields of SHAPEREQ. -/
def shapeKind (v : W64) : Nat := field v 3 0
def shapeCount (v : W64) : Nat := field v 47 40
def shapeDieid (v : W64) : Nat := field v 37 32

/-- The die to which a request moves cores: TODIE of a migration, else its own. -/
def shapeNext (v : W64) (die : Nat) : Nat := if shapeKind v = 4 then field v 29 24 else die

/-- The change that a request asks for on a die of its partition. A migration within a die moves cores to FREE tiles as a compaction does. -/
def State.applyShape (s : State) (pid die : Nat) (v : W64) : State :=
  match shapeKind v with
  | 1 => s.grow pid die (shapeCount v)
  | 2 => s.shrink pid (shapeDieid v) die (shapeCount v)
  | 3 => s.compact pid die (shapeCount v)
  | _ => if shapeNext v die = die then s.compact pid die (shapeCount v) else s.migrateDie pid (shapeDieid v) die (shapeNext v die)

/-- Does a request lack FREE tiles? -/
def State.tilesLack (s : State) (die : Nat) (v : W64) : Bool :=
  shapeKind v != 2 && decide ((s.freeOn (shapeNext v die)).length < shapeCount v)

/-- The pending request of a partition is carried out; it ends with NO_TILES where the tiles have gone since. -/
def State.makeShape (s : State) (pid : Nat) : State :=
  let v := s.vfReg pid 1
  match s.dieOf pid (shapeDieid v) with
  | none => s.shapeDone pid 6
  | some die => if s.tilesLack die v then s.shapeDone pid 3 else s.applyShape pid die v

/-- Would a change leave a taken DET launch unable to be resident whole (R35)? -/
def State.detUnfit (s : State) (pid die : Nat) (v : W64) : Bool :=
  let t := s.applyShape pid die v
  s.launches.any fun e => e.2.pid == pid && e.2.die == die && e.2.kind == .queue && e.2.rcd.det &&
    (t.gangOf {} (shapeNext v die) pid [] e.2.rcd e.2.rcd.grid).isNone

/-- Does a partition hold semaphores on a die? -/
def State.holdsSems (s : State) (pid die : Nat) : Bool := (List.range 4096).any (fun i => s.semPid die i == some pid)

/-- The status that refuses a request, or 1 while the chanter runs it. A `dieid` names one die, and keeps it, so a migration to another die
moves all its cores to one of which the partition has none; one within the die may move any (assumption 105). -/
def State.shapeStatus (s : State) (pid : Nat) (v : W64) : Nat :=
  let k := shapeKind v
  let n := shapeCount v
  match s.dieOf pid (shapeDieid v) with
  | none => 6
  | some die =>
    let cores := (s.tilesOf die pid).length
    let next := shapeNext v die
    if n = 0 ∨ n > 144 ∨ (k ≠ 1 ∧ n > cores) ∨
        (k = 4 ∧ (s.feature 7 = false ∨ (next ≠ die ∧ (n ≠ cores ∨ (s.dieidOf pid next).isSome = true)))) then 6
    else if s.qstate pid ≠ 1 then 2
    else if s.tilesLack die v then 3
    else if k = 2 ∧ n = cores ∧ s.holdsSems pid die = true then 4
    else if s.detUnfit pid die v then 5
    else 1

/-- A SHAPEREQ write that starts a request. -/
def State.shapeRequest (s : State) (pid kind : Nat) (v : W64) : State :=
  let ok := v &&& BitVec.ofNat 64 (bits 63 48 + bits 39 38 + bits 31 30 + bits 23 4) == 0 && field (s.vfReg pid 2) 7 0 != 1
  if shapeKind v ≠ kind then s
  else
    s.vfWrite pid fun s =>
      if !ok then s.vfIgnored
      else
        let n := (field (s.vfReg pid 2) 63 32 + 1) % 2 ^ 32
        let s1 := (s.setVfReg pid 1 v).setVfReg pid 2 (BitVec.ofNat 64 (n * 2 ^ 32 + 1))
        let st := s1.shapeStatus pid v
        if st = 1 || s1.chanterHalted then s1 else s1.shapeDone pid st

/-- SHAPEREQ_GROW. -/
def execShapereqGrow (pid : Nat) (value : W64) (s : State) : Out := .next (s.shapeRequest pid 1 value)
/-- SHAPEREQ_SHRINK. -/
def execShapereqShrink (pid : Nat) (value : W64) (s : State) : Out := .next (s.shapeRequest pid 2 value)
/-- SHAPEREQ_COMPACT. -/
def execShapereqCompact (pid : Nat) (value : W64) (s : State) : Out := .next (s.shapeRequest pid 3 value)
/-- SHAPEREQ_MIGRATE. -/
def execShapereqMigrate (pid : Nat) (value : W64) (s : State) : Out := .next (s.shapeRequest pid 4 value)

end Sys2Proof.Machine
end

