-- ==== Sys2Proof/Machine/HostIf.lean ====
section
/-! DEFINITION. What hosts do to the module (20 R433 to R441): the registers of a VF, resets, trusted interfaces, MSI-X, inbound
requests. -/

namespace Sys2Proof.Machine

/-! ### Doorbells (R327, R436) -/

/-- Is a semaphore EXTERNAL in some valid handle-table entry of a partition's contexts (R326)? -/
def State.semExternal (s : State) (pid dieid i : Nat) : Bool :=
  s.ctxWords.any fun e =>
    e.1 / 2 ^ 56 == 2 && s.ctxPid (e.1 / 2 ^ 32 % 4096) == some pid && e.2.getLsbD 63 && e.2.getLsbD 62 &&
      field e.2 17 12 == dieid && field e.2 11 0 == i

/-- The semaphore that a doorbell value names, if it may be signalled from outside. -/
def State.bellTarget (s : State) (pid : Nat) (v : W64) : Option Nat :=
  match s.dieOf pid (field v 17 12) with
  | none => none
  | some d =>
    if field v 31 18 = 0 ∧ s.semPid d (field v 11 0) = some pid ∧ s.semExternal pid (field v 17 12) (field v 11 0) = true then
      some (d * 4096 + field v 11 0)
    else none

/-- A doorbell is performed. -/
def State.ring (s : State) (pid : Nat) (value : W64) : State :=
  match s.bellTarget pid value with
  | some k => s.semAdd k (field value 63 32) pid
  | none => s.vfIgnored

/-- The posted writes of the host of a partition's VF that are not performed. -/
def State.postedWrites (s : State) (pid : Nat) : List Inbound :=
  s.inbound.filter (fun r => r.host && r.op == 1 && ((s.vfOf pid).map (·.1)) == some r.unit)

/-- A write of DOORBELL: a count is added to an EXTERNAL semaphore as `sem.sig` does (R243), after every earlier posted write of the host. -/
def State.doorbellWrite (s : State) (pid : Nat) (value : W64) : State :=
  if s.postedWrites pid = [] then s.ring pid value else { s with bells := s.bells ++ [(pid, value, s.postedWrites pid)] }

/-- Doorbells whose earlier writes are performed ring. -/
def State.ringBells (s : State) : State :=
  let due := fun (b : Nat × W64 × List Inbound) => b.2.2.all (fun r => !s.inbound.contains r)
  (s.bells.filter due).foldl (fun s b => s.ring b.1 b.2.1) { s with bells := s.bells.filter (fun b => !due b) }

/-- DOORBELL. -/
def execDoorbell (pid : Nat) (value : W64) (s : State) : Out := .next <| s.vfWrite pid (fun s => s.doorbellWrite pid value)

/-- UALINK_SEMAPHORE_DOORBELL: a peer module's signal, laid out as DOORBELL. -/
def execUalinkSemaphoreDoorbell (pid : Nat) (value : W64) (s : State) : Out := .next <|
  let linked := (List.range 24).any (fun g => s.fld (edgeReg g 0) 23 20 == 1 && s.fld (edgeReg g 0) 19 16 == 2)
  match s.bellTarget pid value with
  | some k => if linked then s.semAdd k (field value 63 32) pid else s
  | none => if linked then s.vfIgnored else s

/-! ### Resets of a wave or a block (R439) -/

/-- A kill of a block that does not run acts on it as it stands; a RUNNING one is first halted. -/
def State.killIn (s : State) (pid u k : Nat) : State :=
  let b := s.block u
  let b1 := { b with killWaves := b.killWaves ++ [k], killer := some pid }
  if b.state = .running then
    s.setBlock u (if b.stopping = .no then { b1 with stopping := .kill, broadcast := false, causeWave := none } else b1)
  else (s.setBlock u b1).applyKill u

/-- A KILLW write. -/
def State.killWrite (s : State) (pid : Nat) (v : W64) : State :=
  s.vfWrite pid fun s =>
    if field v 62 6 ≠ 0 then s.vfIgnored
    else if v.getLsbD 63 = false then s
    else
      match s.named (s.vfReg pid 3) with
      | none => s.vfIgnored
      | some u =>
        let k := field v 5 0
        if (s.block u).pid = pid ∧ (k = 0x3F ∨ k < (s.block u).waves.length) then s.killIn pid u k else s.vfIgnored

/-- KILL_WAVE. -/
def execKillWave (pid : Nat) (value : W64) (s : State) : Out := .next <|
  if field value 5 0 = 0x3F then s else s.killWrite pid value

/-- KILL_BLOCK. -/
def execKillBlock (pid : Nat) (value : W64) (s : State) : Out := .next <|
  if field value 5 0 = 0x3F then s.killWrite pid value else s

/-! ### Partition resets (R440) -/

/-- The start of a partition reset: no record is taken, no block placed; every block stops; pair jobs retire (R309); a pending
shape request ends with BUSY. A reset in progress absorbs it. -/
def State.resetStart (s : State) (pid : Nat) : State :=
  if s.resetting.contains pid then s
  else
    let s1 := { s with resetting := s.resetting ++ [pid], coresWere := s.coresWere.erase pid, shaped := s.shaped.erase pid }
    let s2 := (s1.jobs.filter (fun j => j.pid == pid)).foldl (fun s j =>
      match j.work with
      | .pair r _ => (s.dropSat j).pairEnd j r 8 0
      | _ => s) (s1.shapeDone pid 2)
    (s2.blocksOf pid).foldl State.stopBlock ({ s2 with bells := s2.bells.filter (fun b => b.1 != pid) }.enterQ pid 3 false)

/-- The contexts of a partition. -/
def State.ctxsOf (s : State) (pid : Nat) : List Nat := (List.range 4096).filter (fun n => s.ctxPid n == some pid)

/-- The bytes that a test names are scrubbed (R394): zero, clear, without marks, no copy anywhere. -/
def State.scrub (s : State) (mine : Nat → Bool) : State :=
  { s with
    mem := s.mem.filter (fun c => !mine c.1), ptag := s.ptag.filter (fun e => !mine e.1),
    marks := s.marks.filter (fun g => !mine (8 * g)), writes := s.writes.filter (fun w => !mine w.pa),
    ucopies := s.ucopies.filter (fun u => !mine u.pa), stale := s.stale.filter (fun e => !mine (e.1 % 2 ^ 48)) }

/-- The scratchpad, register cache and L1 of every owned tile, and the L2 ways of the partition (step 4): no copy of its lines stays, those of
host and peer memory among them. -/
def State.scrubTiles (s : State) (pid : Nat) : State :=
  let cores := (s.coresOf pid).filter (fun c => c.2.2.1 != 144)
  let s1 := cores.foldl (fun s c => s.zeroTile c.2.1 c.2.2.1) s
  { s1 with stale := s1.stale.filter (fun e => !s1.inFrames pid (e.1 % 2 ^ 48) 1) }

/-- The queues of a partition are disabled, its routes UNSET, its semaphores 0 (step 3). -/
def State.clearPartition (s : State) (pid : Nat) : State :=
  let s1 := (s.diesOf pid).foldl (fun s e =>
    match s.pslot e.2 pid with
    | none => s
    | some n => (List.range 16).foldl (fun s q => (s.setFld (queueReg e.2 n q 0) 0 0 0).setFld (queueReg e.2 n q 0x20) 1 0 0) s) s
  { s1 with
    routes := s1.routes.filter (fun e => e.1 / 64 != pid),
    sems := s1.sems.filter (fun e => s1.semPid (e.1 / 4096) (e.1 % 4096) != some pid),
    batches := s1.batches.filter (fun b => b.pid != pid), drones := s1.drones.filter (fun e => e.2 != pid),
    ams := s1.ams.filter (fun m => m.pid != pid) }

/-- SVCSTAT of a partition on each of its dies. -/
def State.svcStats (s : State) (pid : Nat) : State := (s.diesOf pid).foldl (fun s e => s.putSvcStat pid e.2) s

/-- May a reset end: every block stopped, every atomic of its contexts performed (R142)? -/
def State.resetReady (s : State) (pid : Nat) : Bool :=
  (s.blocksOf pid).all s.outOrFabric && !(s.ctxsOf pid).any s.atomicsOpen

/-- PARTITION_RESET. -/
def execPartitionReset (pid : Nat) (s : State) : Out := .next (s.resetStart pid)

/-- PARTITION_RESET_COMPLETE: steps 2 to 6. -/
def execPartitionResetComplete (pid : Nat) (s : State) : Out := .next <|
  if !s.resetting.contains pid || !s.resetReady pid then s
  else
    let ctxs := s.ctxsOf pid
    let s1 := s.abortJobs (fun c => ctxs.contains c)
    let s2 := (ctxs.foldl State.tearCtx s1).clearPartition pid
    let s3 := ((s2.svcStats pid).scrub (s2.inMap pid)).scrubTiles pid
    let s4 := { s3 with keys := s3.keys.filter (fun e => e.2.map KeyRec.pid != some pid), tdi := s3.tdi.erase pid,
                        resetting := s3.resetting.erase pid }
    s4.enterQ pid 0 false

/-- The partitions bound to an LD. -/
def State.ldPids (s : State) (l : Nat) : List Nat := (List.range 16).filterMap (fun v => s.vfPid l v)

/-- LD_RESET: each partition bound to the LD is reset, and the host's enumeration of it, with its decoders, is gone. -/
def execLdReset (ld : Nat) (s : State) : Out := .next ((s.ldPids ld).foldl State.resetStart (s.setFld (ldReg ld 0) 31 31 0))

/-! ### Trusted interfaces (R437) -/

/-- Does a VF of a partition offer a TDI? -/
def State.hasTdi (s : State) (pid : Nat) : Bool := (s.vfOf pid).isSome && s.feature 4 && !s.chanterHalted

/-- STOP_INTERFACE: a partition reset, after which the TDI is CONFIG_UNLOCKED. -/
def execStopInterface (pid : Nat) (s : State) : Out := .next <| if s.hasTdi pid then s.resetStart pid else s

/-- TDISP_LOCK_INTERFACE: CONFIG_UNLOCKED to CONFIG_LOCKED. The host that locks a TDI reads its device interface report then (assumption
128). -/
def execTdispLockInterface (pid : Nat) (s : State) : Out := .next <|
  if s.hasTdi pid && s.tdi.get pid 0 == 0 && !s.resetting.contains pid then
    { s with tdi := s.tdi.set pid 1 0, reply := s.deviceReport pid } else s

/-- TDISP_START_INTERFACE: CONFIG_LOCKED to RUN. -/
def execTdispStartInterface (pid : Nat) (s : State) : Out := .next <|
  if s.hasTdi pid && s.tdi.get pid 0 == 1 && !s.resetting.contains pid then { s with tdi := s.tdi.set pid 2 0 } else s

/-- A change of a frame map, a window or a covering HDMGRAN moves a locked or running TDI to ERROR, which MSI-X vector 3 tells. -/
def State.tdiChanged (s : State) (pid : Nat) : State :=
  if s.tdi.get pid 0 = 1 ∨ s.tdi.get pid 0 = 2 then ({ s with tdi := s.tdi.set pid 3 0 }).sendMsix pid 3 else s

/-! ### MSI-X (R438) -/

/-- A write of a word of a VF's MSI-X table: none, and logged, with a reserved bit set (R5); unmasking a vector whose pending bit is set sends one message. -/
def State.msixWrite (s : State) (pid word : Nat) (v : W64) : State :=
  let s1 := s.setMsixWord (64 * pid + word) v
  let n := word / 2
  let pba := s1.msixWord (64 * pid + 32)
  if word % 2 = 1 ∧ field v 63 33 ≠ 0 then s.vfIgnored
  else if word % 2 = 1 ∧ v.getLsbD 32 = false ∧ pba.getLsbD n = true then
    { s1.setMsixWord (64 * pid + 32) (pba &&& ~~~ BitVec.ofNat 64 (2 ^ n)) with irqs := s1.irqs ++ [(pid, n)] }
  else s1

/-- MSIX_UNMASK. -/
def execMsixUnmask (pid vector : Nat) (s : State) : Out := .next <|
  let n := vector % 16
  s.vfWrite pid fun s => s.msixWrite pid (2 * n + 1) (s.msixWord (64 * pid + 2 * n + 1) &&& 0xFFFFFFFF)

/-! ### Registers of partitions, LDs and windows that hosts and the chanter write (R415, R433, R434, R441) -/

/-- Is every job of a partition that pinned a page in a granule retired? -/
def State.granUnpinned (s : State) (pid g : Nat) : Bool :=
  !s.jobs.any (fun j => j.pid == pid && j.pins.any (fun e =>
    decide (leafPa e.leaf < (g + 1) * 2 ^ 27) && decide (g * 2 ^ 27 < leafPa e.leaf + e.size)))

/-- May a granule enter the frame map of a partition: it is in no other map, and each partition that it left is OFF, or has had
its KIND 2 invalidation since and no job with a pin in it (R394; assumption 101)? -/
def State.granFree (s : State) (pid g : Nat) : Bool :=
  (s.granOwner g).isNone && s.leaving.all fun l =>
    l.gran != g || l.pid == pid || s.qstate l.pid == 0 || (l.inv && s.granUnpinned l.pid g)

/-- A granule enters a frame map: one that comes from another partition is scrubbed first (R394). -/
def State.granEnters (s : State) (pid g : Nat) : State :=
  let s1 := if s.leaving.any (fun l => l.gran == g && l.pid != pid) then s.scrub (fun a => a / 2 ^ 27 == g) else s
  { s1 with leaving := s1.leaving.filter (fun l => l.gran != g) }

/-- A write of a frame-map word (R393, R394). -/
def State.frameWrite (s : State) (via : Via) (pid n : Nat) (v : W64) : State :=
  let a := partCtl pid (0x100 + 8 * n)
  let old := s.reg a
  let put := (List.range 64).filter (fun i => v.getLsbD i && !old.getLsbD i)
  let out := (List.range 64).filter (fun i => old.getLsbD i && !v.getLsbD i)
  s.ruledWrite via a v (put.all (fun i => s.granFree pid (64 * n + i))) fun s =>
    let s1 := put.foldl (fun s i => s.granEnters pid (64 * n + i)) s
    let s2 := { s1 with leaving := s1.leaving ++ out.map (fun i => ⟨64 * n + i, pid, false⟩) }
    if v = old then s2 else (s2.setReg a v).tdiChanged pid

/-- Is a window sound: in the range of its KIND, apart from the partition's other windows? -/
def State.windowOk (s : State) (pid k : Nat) (c : W64) : Bool :=
  let lo := fun (i : Nat) => s.fld (partCtl pid (0x800 + 16 * i)) 47 27 * 2 ^ 27
  let hi := fun (i : Nat) (w : W64) => lo i + field w 20 0 * 2 ^ 27
  let inRange := field c 20 0 != 0 && if field c 62 61 = 1 then decide (2 ^ 46 ≤ lo k) && decide (hi k c ≤ 2 ^ 47)
    else field c 62 61 == 2 && decide (2 ^ 47 ≤ lo k) && decide (hi k c ≤ 3 * 2 ^ 46)
  inRange && (List.range 8).all (fun i =>
    let w := s.reg (partCtl pid (0x808 + 16 * i))
    i == k || !w.getLsbD 63 || decide (hi i w ≤ lo k) || decide (hi k c ≤ lo i))

/-- V of a window that breaks a rule reads 0. -/
def State.settleWindow (s : State) (pid k : Nat) : State :=
  let a := partCtl pid (0x808 + 16 * k)
  if (s.reg a).getLsbD 63 && !s.windowOk pid k (s.reg a) then s.setFld a 63 63 0 else s

/-- A write of a window register: the chanter's, in OFF or REMAP only (R433). -/
def State.windowWrite (s : State) (via : Via) (pid o : Nat) (v : W64) : State :=
  let a := partCtl pid o
  let st := s.qstate pid
  s.ruledWrite via a v (via == .rim && (st == 0 || st == 6)) fun s =>
    let s1 := (s.setReg a (s.written a via v)).settleWindow pid ((o - 0x800) / 16)
    if s1.maint = s.maint then s1 else s1.tdiChanged pid

/-- A write of QOSFAB or QOSHA (R441). -/
def State.qosWrite (s : State) (via : Via) (pid o : Nat) (v : W64) : State :=
  let a := partCtl pid o
  let others := (List.range 256).foldl (fun n p => if p = pid then n else n + s.fld (partCtl p 0x908) 7 0) 0
  let ok := if o = 0x900 then field v 23 16 != 0 && field v 15 8 != 0 && field v 7 0 != 0
    else field v 15 8 != 0 && decide (field v 7 0 ≤ 64) && decide (others + field v 7 0 ≤ 192)
  s.ruledWrite via a v ok (fun s => s.setReg a v)

/-- May the VFs that a change of an LD touches take it: the LD is not BOUND, or each is in reset? -/
def State.ldOpen (s : State) (l : Nat) (pids : List Nat) : Bool :=
  !(s.reg (ldReg l 0)).getLsbD 31 || (pids != [] && pids.all s.resetting.contains)

/-- Is a granule of a partition in a range that a valid HDMGRAN of the LD maps, and bound by no other VF of it? -/
def State.hdmNeeds (s : State) (l pid : Nat) : Bool :=
  (List.range 4).any fun h =>
    let x := s.reg (ldReg l (0x88 + 8 * h))
    x.getLsbD 63 && (List.range (field x 13 0)).any (fun i =>
      let g := field x 45 32 + i
      (s.reg (partCtl pid (0x100 + 8 * (g / 64)))).getLsbD (g % 64))

/-- A write of LDCFG: VFs offered are at most 16, and none is withdrawn that a valid HDMGRAN needs, or while it may not change (R434). -/
def State.ldcfgWrite (s : State) (via : Via) (l : Nat) (v : W64) : State :=
  let a := ldReg l 0
  let n := field v 20 16
  let gone := (List.range 16).filterMap (fun k => if n ≤ k then s.vfPid l k else none)
  s.ruledWrite via a v (decide (n ≤ 16) && !gone.any (s.hdmNeeds l) && (gone == [] || s.ldOpen l gone)) (fun s =>
    s.setReg a (s.written a via v))

/-- A write of QOSEDGE: a weight of 1 to 255 (R434). -/
def State.qosEdgeWrite (s : State) (via : Via) (l : Nat) (v : W64) : State :=
  s.ruledWrite via (ldReg l 0xA8) v (field v 7 0 != 0) (fun s => s.setReg (ldReg l 0xA8) v)

/-- A write of VFMAP (R434). -/
def State.vfmapWrite (s : State) (via : Via) (l v : Nat) (x : W64) : State :=
  let a := ldReg l (8 + 8 * v)
  let old := s.reg a
  let twice := x.getLsbD 63 && (match s.vfOf (field x 7 0) with
    | none => false
    | some e => e != (l, v))
  let touched := (if old.getLsbD 63 then [field old 7 0] else []) ++ (if x.getLsbD 63 then [field x 7 0] else [])
  let leaves := old.getLsbD 63 && !(x.getLsbD 63 && field x 7 0 == field old 7 0)
  s.ruledWrite via a x (!twice && !(leaves && s.hdmNeeds l (field old 7 0)) && (x == old || s.ldOpen l touched)) (fun s => s.setReg a x)

/-- The partitions whose frame maps hold all granules of an HDMGRAN value. -/
def State.hdmPids (s : State) (l : Nat) (x : W64) : List Nat :=
  (s.ldPids l).filter (fun p => (List.range (field x 13 0)).all (fun i =>
    let g := field x 45 32 + i
    decide (g < 12288) && (s.reg (partCtl p (0x100 + 8 * (g / 64)))).getLsbD (g % 64)))

/-- A write of HDMGRAN (R434, R437). -/
def State.hdmWrite (s : State) (via : Via) (l h : Nat) (x : W64) : State :=
  let a := ldReg l (0x88 + 8 * h)
  let old := s.reg a
  let was := if old.getLsbD 63 then s.hdmPids l old else []
  let now := if x.getLsbD 63 then s.hdmPids l x else []
  let ok := !x.getLsbD 63 || (!now.isEmpty && field x 13 0 != 0)
  s.ruledWrite via a x (ok && (x == old || s.ldOpen l (was ++ now))) fun s =>
    let s1 := s.setReg a x
    if x = old then s1 else ((was ++ now).eraseDups).foldl State.tdiChanged s1

/-! ### Requests from hosts and peers (R394, R437, R445, R481) -/

/-- Does an edge group bring a request of this source: a host's over CXL or as the DMA of the LD's Ultra Ethernet function, a peer's over UALink
(R431)? -/
def State.arrives (s : State) (r : Inbound) : Bool :=
  (List.range 24).any fun g =>
    s.fld (edgeReg g 0) 23 20 == 1 &&
      (if r.host then (s.fld (edgeReg g 0) 19 16 == 1 || s.fld (edgeReg g 0) 19 16 == 3) && decide (r.unit < 16) && (s.reg (ldReg r.unit 0)).getLsbD (32 + g)
       else s.fld (edgeReg g 0) 19 16 == 2 && s.fld (edgeReg g 0) 3 0 == r.unit)

/-- May a host reach a range: the LD is BOUND, and one of its HDM ranges holds it (R434)? A request with the IDE T bit to the
memory of a partition whose TDI is not in RUN is refused (R437). -/
def State.hostMay (s : State) (r : Inbound) : Bool :=
  let g0 := r.pa / 2 ^ 27
  let g1 := (r.pa + r.len - 1) / 2 ^ 27
  let ranged := (List.range 4).any (fun h =>
    let w := s.reg (ldReg r.unit (0x88 + 8 * h))
    w.getLsbD 63 && decide (field w 45 32 ≤ g0) && decide (g1 < field w 45 32 + field w 13 0))
  let trusted := (List.range (g1 + 1 - g0)).all (fun i => match s.granOwner (g0 + i) with
    | none => true
    | some pid => !(r.tbit && s.bound pid && s.feature 4 && s.tdi.get pid 0 != 2))
  (s.reg (ldReg r.unit 0)).getLsbD 31 && ranged && trusted

/-- The performance of a request at the home: `op` 0 reads, 1 writes, 2 + k is the atomic of minor k (R233). The reply is a status
byte, 0 for success, and the bytes read. Register lines that stand there are read and written (R364). -/
def State.performAt (s : State) (r : Inbound) : State × List Byte :=
  let s1 := (s.throughLines r.pa r.len).recall r.pa r.len
  match r.op with
  | 0 => (s1, if s1.badRange r.pa r.len then [1] else 0 :: s1.homeBytes r.pa r.len)
  | 1 => if s.stackOn (r.pa / 2 ^ 27 / 384) then (s.storeLines r.pa (r.data.take r.len) (s1.putHome r.pa (r.data.take r.len)), [0]) else (s, [1])
  | n + 2 =>
    let w := atomWidth n
    if n > 15 ∨ r.pa % w ≠ 0 ∨ s1.badRange r.pa w = true then (s1, [1])
    else
      let old := leNat (s1.homeBytes r.pa w)
      let new := atomNew n old (leNat (r.data.take w)) (leNat ((r.data.drop w).take w))
      (s.storeLines r.pa (leBytes new w) (s1.putHome r.pa (leBytes new w)), 0 :: leBytes old w)

/-- The source of a request, as a number. -/
def inboundSource (r : Inbound) : Nat := (if r.host then 0 else 256) + r.unit

/-- INBOUND_MEMORY_REQUEST: performed once; a request found in the replay window gets the reply that was kept. One that writes waits at the
home while an atomic performed nearer is on its way there (R142), or its frame is locked (R155). Operation 18 is the source's acknowledgement of a
reply, which is kept no longer (R445). -/
def execInboundMemoryRequest (req : Inbound) (s : State) : Out := .next <|
  if !s.arrives req then s
  else if req.op = 18 then { s with replay := s.replay.filter (fun e => !(e.1 == inboundSource req && e.2.1 == req.seq)) }
  else
    match s.replay.find? (fun e => e.1 == (inboundSource req) && e.2.1 == req.seq) with
    | some e => { s with reply := e.2.2 }
    | none =>
      let s := { s with inbound := s.inbound.erase req }
      let may := req.len != 0 && isHbm (req.pa + req.len - 1) && (!req.host || s.hostMay req)
      let r : State × List Byte := if may then s.performAt req else (s, [1])
      if may && req.op != 0 && s.engHeld req.pa req.len then { s with inbound := s.inbound ++ [req] }
      else { r.1 with reply := r.2, replay := r.1.replay ++ [((inboundSource req), req.seq, r.2)] }.ringBells

end Sys2Proof.Machine
end

