-- ==== Sys2Proof/Machine/Chanter.lean ====
section
/-! DEFINITION. What the chanter does of itself (19 R421 to R429): it steps the quiesce protocol for a shape request or a failed tile, and makes
the changes of REMAP. Which tiles a change takes is its own choice (assumption 105). -/

namespace Sys2Proof.Machine

/-! ### Lost cores (R428, R429) -/

/-- NOSHRINK of a partition. -/
def State.noShrink (s : State) (pid : Nat) : Bool := (s.reg (partCtl pid 0)).getLsbD 38

/-- The spare that a lost core gets: the one that it was given, or, where the partition waits for one, the first of its die. -/
def State.spareOf (s : State) (c : LostCore) : Option Nat :=
  (c.spare.filter (fun t => s.tileKind c.die t == 2)).orElse (fun _ => if s.noShrink c.pid then (s.spares c.die).head? else none)

/-- A lost number is taken by a spare, or removed; where the partition may not shrink, it waits. -/
def State.mendCore (s : State) (c : LostCore) : State :=
  let done := { s with lost := s.lost.erase c }
  match s.spareOf c with
  | some t => (done.placeCore c.die t c.pid c.vcid).relaunchDrone c
  | none => if s.noShrink c.pid then s else (done.makeDense c.die c.pid 256).relaunchDrone c

/-- Has a partition a request that is not answered? -/
def State.shapePending (s : State) (pid : Nat) : Bool := field (s.vfReg pid 2) 7 0 == 1

/-- The lost numbers of a partition, those with spares before the numbers are made dense. -/
def State.mendAll (s : State) (pid : Nat) : State :=
  let mine := s.lost.filter (fun c => c.pid == pid)
  (mine.filter (fun c => (s.spareOf c).isSome) ++ mine.filter (fun c => (s.spareOf c).isNone)).foldl State.mendCore s

/-- The work of REMAP: lost numbers first, then the request, once. -/
def State.remapWork (s : State) (pid : Nat) : State :=
  let s1 := s.mendAll pid
  let s2 := if s1.shapePending pid && !s1.shaped.contains pid then s1.makeShape pid else s1
  if s2.shaped.contains pid then s2 else { s2 with shaped := s2.shaped ++ [pid] }

/-! ### The chanter's commands (R421) -/

/-- Does the chanter run the quiesce protocol for a partition: for a request, for a failed tile, for a machine check (R481), or to its end? While it is stopped nothing that
needs it goes on (R479); a reset ends the protocol (R423). -/
def State.chanterRuns (s : State) (pid : Nat) : Bool :=
  !s.chanterHalted && !s.resetting.contains pid && (s.shapePending pid || s.lost.any (fun c => c.pid == pid) || s.shaped.contains pid)

/-- The command that the chanter writes next. -/
def State.chanterCmd (s : State) (pid : Nat) : Option Nat :=
  let done := s.quiesceDone pid
  match s.qstate pid with
  | 1 => some 2
  | 2 => some 3
  | 3 => if done then some 4 else none
  | 4 => if done then some 5 else none
  | 5 => if done then some 6 else none
  | 6 => if s.shaped.contains pid && !s.lost.any (fun c => c.pid == pid) && s.consistent pid then some 1 else none
  | _ => none

/-- A write of CMD that keeps the other fields of PSTATE. -/
def State.cmdStep (s : State) (pid cmd : Nat) : Instr :=
  let v := (s.reg (partCtl pid 0) &&& BitVec.ofNat 64 (bits 41 38)) + BitVec.ofNat 64 (cmd * 2 ^ 8)
  match cmd with
  | 1 => .pstateCmdRun .rim pid v
  | 2 => .pstateCmdFreeze .rim pid v
  | 3 => .pstateCmdStop .rim pid v
  | 4 => .pstateCmdDrain .rim pid v
  | 5 => .pstateCmdFlush .rim pid v
  | _ => .pstateCmdRemap .rim pid v

/-- The commands that the chanter may write now. -/
def State.chanterSteps (s : State) : List Instr :=
  ((List.range 256).filter s.chanterRuns).filterMap (fun p => (s.chanterCmd p).map (s.cmdStep p))

/-! ### The end of a state's work (R421) -/

/-- QUIESCE_STATE_DONE: the work of STOP, DRAIN or FLUSH is complete; at the end of DRAIN incomplete instances are aborted first. In REMAP,
whose DONE is 1 at once, the chanter makes what it has to make, and for an OFF partition it replaces lost cores at once. -/
def execQuiesceStateDone (pid : Nat) (s : State) : Out := .next <|
  if s.qstate pid = 6 then (if s.chanterRuns pid then s.remapWork pid else s)
  else if s.qstate pid = 0 then (if s.chanterRuns pid then s.mendAll pid else s)
  else if s.quiesceDone pid then s
  else
    match s.qstate pid with
    | 3 => if (s.blocksOf pid).all s.outOrFabric then s.enterQ pid 3 true else s
    | 4 =>
      if !s.drained pid then s
      else if s.fab.any (fun o => o.pid == pid) then s.abortFabric pid
      else if (s.blocksOf pid).all (fun u => !(s.block u).standing) then s.enterQ pid 4 true
      else s
    | 5 =>
      if s.writes.any (fun w => s.inMap pid w.pa) then s
      else
        let s1 := s.flushAll pid
        if s1.writes.any (fun w => s1.inMap pid w.pa) then s1 else s1.enterQ pid 5 true
    | _ => s

end Sys2Proof.Machine
end

