-- ==== Sys2Proof/Machine/Vector.lean ====
section
/-! DEFINITION. Majors 6 to 9 and 13 (09): integer and floating arithmetic on vector registers, conversions, random
numbers. -/

namespace Sys2Proof.Machine

/-! ### Forms -/

/-- The register that a vector field names, in a lane. -/
def Wave.src (w : Wave) (f : BitVec 6) (L : Nat) : W32 := w.vreg (w.vnum f) L

/-- `op vD, vA, vB` (R205). -/
def binOp (h : Hdr) (d a b : BitVec 6) (x y : Bool) (f : W32 → W32 → W32) (s : State) : State :=
  vecOp h s (s.pre.op d 1) [s.pre.op a 1 x, s.pre.op b 1 y] (fun L => [f (s.pre.src a L) (s.pre.src b L)])

/-- `op vD, vA` (R205). -/
def unOp (h : Hdr) (d a : BitVec 6) (x : Bool) (f : W32 → W32) (s : State) : State :=
  vecOp h s (s.pre.op d 1) [s.pre.op a 1 x] (fun L => [f (s.pre.src a L)])

/-- `op pD, vA, vB` (R205). -/
def cmpOp (h : Hdr) (d : BitVec 3) (a b : BitVec 6) (x y : Bool) (f : W32 → W32 → Bool) (s : State) : State :=
  vecCmp h s d [s.pre.op a 1 x, s.pre.op b 1 y] (fun L => f (s.pre.src a L) (s.pre.src b L))

/-! ### Major 6 (R205) -/

def i32Mulh (a b : W32) : W32 := BitVec.ofInt 32 (a.toInt * b.toInt / 2 ^ 32)
def i32Mulhn (a b : W32) : W32 := BitVec.ofNat 32 (a.toNat * b.toNat / 2 ^ 32)
def i32Min (a b : W32) : W32 := if a.toInt ≤ b.toInt then a else b
def i32Max (a b : W32) : W32 := if a.toInt ≤ b.toInt then b else a
def i32Minn (a b : W32) : W32 := if a.toNat ≤ b.toNat then a else b
def i32Maxn (a b : W32) : W32 := if a.toNat ≤ b.toNat then b else a
def i32Abs (a : W32) : W32 := BitVec.ofNat 32 a.toInt.natAbs
def i32Shl (a b : W32) : W32 := a <<< min b.toNat 32
def i32Shr (a b : W32) : W32 := a >>> min b.toNat 32
def i32Sra (a b : W32) : W32 := a.sshiftRight (min b.toNat 32)
def i32Adds (a b : W32) : W32 := BitVec.ofInt 32 (clampInt (-(2 ^ 31)) (2 ^ 31 - 1) (a.toInt + b.toInt))
def i32Subs (a b : W32) : W32 := BitVec.ofInt 32 (clampInt (-(2 ^ 31)) (2 ^ 31 - 1) (a.toInt - b.toInt))
def i32Addsn (a b : W32) : W32 := BitVec.ofNat 32 (min (a.toNat + b.toNat) (2 ^ 32 - 1))
def i32Subsn (a b : W32) : W32 := BitVec.ofNat 32 (a.toNat - b.toNat)
def i32Clmul (a b : W32) : W32 := BitVec.ofNat 32 (clmulN 32 a.toNat b.toNat)
def i32Clmulh (a b : W32) : W32 := BitVec.ofNat 32 (clmulN 32 a.toNat b.toNat / 2 ^ 32)

def execAddI32 (h : Hdr) (d a b : BitVec 6) (x y : Bool) (s : State) : Out :=
  .next (binOp h d a b x y (· + ·) s)
def execSubI32 (h : Hdr) (d a b : BitVec 6) (x y : Bool) (s : State) : Out :=
  .next (binOp h d a b x y (· - ·) s)
def execMulI32 (h : Hdr) (d a b : BitVec 6) (x y : Bool) (s : State) : Out :=
  .next (binOp h d a b x y (· * ·) s)
def execMulhI32 (h : Hdr) (d a b : BitVec 6) (x y : Bool) (s : State) : Out :=
  .next (binOp h d a b x y i32Mulh s)
def execMulhnI32 (h : Hdr) (d a b : BitVec 6) (x y : Bool) (s : State) : Out :=
  .next (binOp h d a b x y i32Mulhn s)
def execMinI32 (h : Hdr) (d a b : BitVec 6) (x y : Bool) (s : State) : Out :=
  .next (binOp h d a b x y i32Min s)
def execMaxI32 (h : Hdr) (d a b : BitVec 6) (x y : Bool) (s : State) : Out :=
  .next (binOp h d a b x y i32Max s)
def execMinnI32 (h : Hdr) (d a b : BitVec 6) (x y : Bool) (s : State) : Out :=
  .next (binOp h d a b x y i32Minn s)
def execMaxnI32 (h : Hdr) (d a b : BitVec 6) (x y : Bool) (s : State) : Out :=
  .next (binOp h d a b x y i32Maxn s)
def execAbsI32 (h : Hdr) (d a : BitVec 6) (x : Bool) (s : State) : Out := .next (unOp h d a x i32Abs s)
def execNegI32 (h : Hdr) (d a : BitVec 6) (x : Bool) (s : State) : Out := .next (unOp h d a x (fun a => -a) s)
def execAndI32 (h : Hdr) (d a b : BitVec 6) (x y : Bool) (s : State) : Out :=
  .next (binOp h d a b x y (· &&& ·) s)
def execOrI32 (h : Hdr) (d a b : BitVec 6) (x y : Bool) (s : State) : Out :=
  .next (binOp h d a b x y (· ||| ·) s)
def execXorI32 (h : Hdr) (d a b : BitVec 6) (x y : Bool) (s : State) : Out :=
  .next (binOp h d a b x y (· ^^^ ·) s)
def execAndnI32 (h : Hdr) (d a b : BitVec 6) (x y : Bool) (s : State) : Out :=
  .next (binOp h d a b x y (fun a b => a &&& ~~~b) s)
def execNotI32 (h : Hdr) (d a : BitVec 6) (x : Bool) (s : State) : Out := .next (unOp h d a x (fun a => ~~~a) s)
def execShlI32 (h : Hdr) (d a b : BitVec 6) (x y : Bool) (s : State) : Out :=
  .next (binOp h d a b x y i32Shl s)
def execShrI32 (h : Hdr) (d a b : BitVec 6) (x y : Bool) (s : State) : Out :=
  .next (binOp h d a b x y i32Shr s)
def execSraI32 (h : Hdr) (d a b : BitVec 6) (x y : Bool) (s : State) : Out :=
  .next (binOp h d a b x y i32Sra s)
def execClzI32 (h : Hdr) (d a : BitVec 6) (x : Bool) (s : State) : Out := .next (unOp h d a x (fun a => BitVec.ofNat 32 (clzN 32 a.toNat)) s)
def execPopcI32 (h : Hdr) (d a : BitVec 6) (x : Bool) (s : State) : Out := .next (unOp h d a x (fun a => BitVec.ofNat 32 (popN 32 a.toNat)) s)
def execBrevI32 (h : Hdr) (d a : BitVec 6) (x : Bool) (s : State) : Out := .next (unOp h d a x (fun a => BitVec.ofNat 32 (revN 32 a.toNat)) s)
def execAddsI32 (h : Hdr) (d a b : BitVec 6) (x y : Bool) (s : State) : Out :=
  .next (binOp h d a b x y i32Adds s)
def execSubsI32 (h : Hdr) (d a b : BitVec 6) (x y : Bool) (s : State) : Out :=
  .next (binOp h d a b x y i32Subs s)
def execAddsnI32 (h : Hdr) (d a b : BitVec 6) (x y : Bool) (s : State) : Out :=
  .next (binOp h d a b x y i32Addsn s)
def execSubsnI32 (h : Hdr) (d a b : BitVec 6) (x y : Bool) (s : State) : Out :=
  .next (binOp h d a b x y i32Subsn s)
def execCmpeqI32 (h : Hdr) (d : BitVec 3) (a b : BitVec 6) (x y : Bool) (s : State) : Out :=
  .next (cmpOp h d a b x y (fun a b => a == b) s)
def execCmpneI32 (h : Hdr) (d : BitVec 3) (a b : BitVec 6) (x y : Bool) (s : State) : Out :=
  .next (cmpOp h d a b x y (fun a b => a != b) s)
def execCmpltI32 (h : Hdr) (d : BitVec 3) (a b : BitVec 6) (x y : Bool) (s : State) : Out :=
  .next (cmpOp h d a b x y (fun a b => decide (a.toInt < b.toInt)) s)
def execCmpleI32 (h : Hdr) (d : BitVec 3) (a b : BitVec 6) (x y : Bool) (s : State) : Out :=
  .next (cmpOp h d a b x y (fun a b => decide (a.toInt ≤ b.toInt)) s)
def execCmpltnI32 (h : Hdr) (d : BitVec 3) (a b : BitVec 6) (x y : Bool) (s : State) : Out :=
  .next (cmpOp h d a b x y (fun a b => decide (a.toNat < b.toNat)) s)
def execCmplenI32 (h : Hdr) (d : BitVec 3) (a b : BitVec 6) (x y : Bool) (s : State) : Out :=
  .next (cmpOp h d a b x y (fun a b => decide (a.toNat ≤ b.toNat)) s)
def execMovI32 (h : Hdr) (d a : BitVec 6) (x : Bool) (s : State) : Out := .next (unOp h d a x (fun a => a) s)
def execVclmul (h : Hdr) (d a b : BitVec 6) (x y : Bool) (s : State) : Out :=
  .next (binOp h d a b x y i32Clmul s)
def execVclmulh (h : Hdr) (d a b : BitVec 6) (x y : Bool) (s : State) : Out :=
  .next (binOp h d a b x y i32Clmulh s)

/-- `sel.i32` (R205): its third source is the predicate that field c names. -/
def execSelI32 (h : Hdr) (d a b : BitVec 6) (x y : Bool) (s : State) : Out :=
  let p : BitVec 3 := h.fieldC.setWidth 3
  let D := s.pre.op d 1
  let srcs := [s.pre.op a 1 x, s.pre.op b 1 y]
  .next <| perThread h s
    (fun L => firstStop [boundsCheck s.pre (D :: srcs), predCheck s.pre L [p], opCheck s.pre L [D] srcs])
    (fun m s => s.setW ((lanesOf m).foldl
      (fun w L => w.put L D [if laneIn (s.pre.pred p) L then s.pre.src a L else s.pre.src b L]) s.wv))

/-- `movs.i32` (R205). -/
def execMovsI32 (h : Hdr) (d a : BitVec 6) (s : State) : Out :=
  .next (vecOp h s (s.pre.op d 1) [] (fun _ => [(s.pre.sreg a).setWidth 32]))

/-- `mad.i32` (R205). -/
def execMadI32 (h : Hdr) (d a b : BitVec 6) (x y : Bool) (s : State) : Out :=
  .next (vecOp h s (s.pre.op d 1) [s.pre.op a 1 x, s.pre.op b 1 y, s.pre.op h.fieldC 1 h.bitEc]
    (fun L => [s.pre.src a L * s.pre.src b L + s.pre.src h.fieldC L]))

/-! ### Major 7 (R206) -/

/-- The immediate, taken modulo 2^32. -/
def imm32 (h : Hdr) (i : BitVec 11) : W32 := BitVec.ofInt 32 (immI h i)

/-- `op vD, vA, imm`. -/
def immOp (h : Hdr) (d a : BitVec 6) (i : BitVec 11) (f : W32 → W32 → W32) (s : State) : State :=
  vecOp h s (s.pre.op d 1) [s.pre.op a 1] (fun L => [f (s.pre.src a L) (imm32 h i)])

def execAddiI32 (h : Hdr) (d a : BitVec 6) (i : BitVec 11) (s : State) : Out := .next (immOp h d a i (· + ·) s)
def execAndiI32 (h : Hdr) (d a : BitVec 6) (i : BitVec 11) (s : State) : Out := .next (immOp h d a i (· &&& ·) s)
def execOriI32 (h : Hdr) (d a : BitVec 6) (i : BitVec 11) (s : State) : Out := .next (immOp h d a i (· ||| ·) s)
def execXoriI32 (h : Hdr) (d a : BitVec 6) (i : BitVec 11) (s : State) : Out := .next (immOp h d a i (· ^^^ ·) s)
def execShliI32 (h : Hdr) (d a : BitVec 6) (i : BitVec 11) (s : State) : Out := .next (immOp h d a i i32Shl s)
def execShriI32 (h : Hdr) (d a : BitVec 6) (i : BitVec 11) (s : State) : Out := .next (immOp h d a i i32Shr s)
def execSraiI32 (h : Hdr) (d a : BitVec 6) (i : BitVec 11) (s : State) : Out := .next (immOp h d a i i32Sra s)
def execLiiI32 (h : Hdr) (d : BitVec 6) (i : BitVec 11) (s : State) : Out :=
  .next (vecOp h s (s.pre.op d 1) [] (fun _ => [imm32 h i]))

/-! ### Rounding (R90, R96 to R98, R100) -/

/-- Does an instruction round under RS? -/
def stochastic (h : Hdr) (w : Wave) : Bool := h.modeCode w == 4

/-- The mode of the `i`-th result of a lane, `k` random bits under RS: the top bits of output word `i` of stream 0. -/
def State.mode (s : State) (h : Hdr) (L i k : Nat) : RMode :=
  match h.modeCode s.pre with
  | 0 => .rne
  | 1 => .rz
  | 2 => .ru
  | 3 => .rd
  | _ =>
    let g := s.gIndex L
    let r := philox s.pre.seed (s.pre.sdiOf L) (BitVec.ofNat 32 g) (BitVec.ofNat 32 (g / 2 ^ 32)) 0
    .rs ((philoxWord r i).toNat / 2 ^ (32 - k)) k

/-- `sdi` of the lanes of a mask increases by 1. -/
def Wave.bumpSdi (w : Wave) (m : Lanes) : Wave := (lanesOf m).foldl (fun w L => w.setSdi L (w.sdiOf L + 1)) w

/-- A rounding instruction: `f` gives a lane's result registers. -/
def roundOp (h : Hdr) (s : State) (d : VOp) (srcs : List VOp) (f : Nat → List W32) : State :=
  perThread h s (fun L => opCheck s.pre L [d] srcs) fun m s =>
    let w1 := (lanesOf m).foldl (fun w L => w.put L d (f L)) s.wv
    s.setW (if stochastic h s.pre then w1.bumpSdi m else w1)

/-! ### Major 8 (R207, R208) -/

/-- A rounding FP32 operation on two sources. -/
def roundBin (h : Hdr) (d a b : BitVec 6) (x y : Bool) (f : RMode → Nat → Nat → Nat) (s : State) : State :=
  roundOp h s (s.pre.op d 1) [s.pre.op a 1 x, s.pre.op b 1 y] fun L =>
    [BitVec.ofNat 32 (f (s.mode h L 0 24) (s.pre.src a L).toNat (s.pre.src b L).toNat)]

/-- `fma.f32` and `fms.f32`. -/
def fusedOp (h : Hdr) (d a b : BitVec 6) (x y sub : Bool) (s : State) : State :=
  roundOp h s (s.pre.op d 1) [s.pre.op a 1 x, s.pre.op b 1 y, s.pre.op h.fieldC 1 h.bitEc] fun L =>
    [BitVec.ofNat 32 (fp32.fmaC (s.mode h L 0 24) h.sat s.pre.ftz sub (s.pre.src a L).toNat (s.pre.src b L).toNat
      (s.pre.src h.fieldC L).toNat)]

/-- An FP32 code as compares, `min` and `max` read it: a subnormal is zero when FTZ is 1. -/
def readF (ftz : Bool) (a : W32) : Nat := fp32.flush ftz a.toNat

def execAddF32 (h : Hdr) (d a b : BitVec 6) (x y : Bool) (s : State) : Out :=
  .next (roundBin h d a b x y (fun m => fp32.addC m h.sat s.pre.ftz) s)
def execSubF32 (h : Hdr) (d a b : BitVec 6) (x y : Bool) (s : State) : Out :=
  .next (roundBin h d a b x y (fun m => fp32.subC m h.sat s.pre.ftz) s)
def execMulF32 (h : Hdr) (d a b : BitVec 6) (x y : Bool) (s : State) : Out :=
  .next (roundBin h d a b x y (fun m => fp32.mulC m h.sat s.pre.ftz) s)
def execFmaF32 (h : Hdr) (d a b : BitVec 6) (x y : Bool) (s : State) : Out := .next (fusedOp h d a b x y false s)
def execFmsF32 (h : Hdr) (d a b : BitVec 6) (x y : Bool) (s : State) : Out := .next (fusedOp h d a b x y true s)

/-- `min` and `max` of a format on the codes of an element, under FTZ (R94). -/
def FFmt.minmaxF (f : FFmt) (ftz isMax : Bool) (a b : Nat) : Nat := f.minmax isMax (f.flush ftz a) (f.flush ftz b)

def execMinF32 (h : Hdr) (d a b : BitVec 6) (x y : Bool) (s : State) : Out :=
  .next (binOp h d a b x y (fun p q => BitVec.ofNat 32 (fp32.minmaxF s.pre.ftz false p.toNat q.toNat)) s)
def execMaxF32 (h : Hdr) (d a b : BitVec 6) (x y : Bool) (s : State) : Out :=
  .next (binOp h d a b x y (fun p q => BitVec.ofNat 32 (fp32.minmaxF s.pre.ftz true p.toNat q.toNat)) s)
def execAbsF32 (h : Hdr) (d a : BitVec 6) (x : Bool) (s : State) : Out :=
  .next (unOp h d a x (· &&& 0x7FFFFFFF) s)
def execNegF32 (h : Hdr) (d a : BitVec 6) (x : Bool) (s : State) : Out :=
  .next (unOp h d a x (· ^^^ 0x80000000) s)

/-- A compare of two FP32 values. -/
def cmpF (h : Hdr) (d : BitVec 3) (a b : BitVec 6) (x y : Bool) (f : FVal → FVal → Bool) (s : State) : State :=
  cmpOp h d a b x y (fun p q => f (fp32.value (readF s.pre.ftz p)) (fp32.value (readF s.pre.ftz q))) s

def execCmpeqF32 (h : Hdr) (d : BitVec 3) (a b : BitVec 6) (x y : Bool) (s : State) : Out :=
  .next (cmpF h d a b x y FVal.eqv s)
def execCmpltF32 (h : Hdr) (d : BitVec 3) (a b : BitVec 6) (x y : Bool) (s : State) : Out :=
  .next (cmpF h d a b x y FVal.lt s)
def execCmpleF32 (h : Hdr) (d : BitVec 3) (a b : BitVec 6) (x y : Bool) (s : State) : Out :=
  .next (cmpF h d a b x y (fun p q => p.lt q || p.eqv q) s)
def execCmpunF32 (h : Hdr) (d : BitVec 3) (a b : BitVec 6) (x y : Bool) (s : State) : Out :=
  .next (cmpF h d a b x y (fun p q => p.isNan || q.isNan) s)
def execCopysignF32 (h : Hdr) (d a b : BitVec 6) (x y : Bool) (s : State) : Out :=
  .next (binOp h d a b x y (fun p q => (p &&& 0x7FFFFFFF) ||| (q &&& 0x80000000)) s)

/-- The packed element `i` of a register, and two elements packed (R80). -/
def half (x : W32) (i : Nat) : Nat := x.toNat / 2 ^ (16 * i) % 2 ^ 16
def pack2 (f : Nat → Nat) : W32 := BitVec.ofNat 32 (f 0 + f 1 * 2 ^ 16)

/-- A rounding packed operation on two sources (R208): element i under output word i. -/
def packBin (h : Hdr) (d a b : BitVec 6) (x y : Bool) (f : RMode → Nat → Nat → Nat) (s : State) : State :=
  roundOp h s (s.pre.op d 1) [s.pre.op a 1 x, s.pre.op b 1 y] fun L =>
    [pack2 fun i => f (s.mode h L i 16) (half (s.pre.src a L) i) (half (s.pre.src b L) i)]

/-- The packed `fma`. -/
def packFma (f : FFmt) (h : Hdr) (d a b : BitVec 6) (x y : Bool) (s : State) : State :=
  roundOp h s (s.pre.op d 1) [s.pre.op a 1 x, s.pre.op b 1 y, s.pre.op h.fieldC 1 h.bitEc] fun L =>
    [pack2 fun i => f.fmaC (s.mode h L i 16) h.sat s.pre.ftz false (half (s.pre.src a L) i) (half (s.pre.src b L) i)
      (half (s.pre.src h.fieldC L) i)]

/-- The packed `min` and `max`. -/
def packMinmax (f : FFmt) (isMax : Bool) (h : Hdr) (d a b : BitVec 6) (x y : Bool) (s : State) : State :=
  binOp h d a b x y (fun p q => pack2 fun i => f.minmaxF s.pre.ftz isMax (half p i) (half q i)) s

def execAddH2 (h : Hdr) (d a b : BitVec 6) (x y : Bool) (s : State) : Out :=
  .next (packBin h d a b x y (fun m => fp16.addC m h.sat s.pre.ftz) s)
def execSubH2 (h : Hdr) (d a b : BitVec 6) (x y : Bool) (s : State) : Out :=
  .next (packBin h d a b x y (fun m => fp16.subC m h.sat s.pre.ftz) s)
def execMulH2 (h : Hdr) (d a b : BitVec 6) (x y : Bool) (s : State) : Out :=
  .next (packBin h d a b x y (fun m => fp16.mulC m h.sat s.pre.ftz) s)
def execFmaH2 (h : Hdr) (d a b : BitVec 6) (x y : Bool) (s : State) : Out := .next (packFma fp16 h d a b x y s)
def execMinH2 (h : Hdr) (d a b : BitVec 6) (x y : Bool) (s : State) : Out :=
  .next (packMinmax fp16 false h d a b x y s)
def execMaxH2 (h : Hdr) (d a b : BitVec 6) (x y : Bool) (s : State) : Out :=
  .next (packMinmax fp16 true h d a b x y s)
def execAbsH2 (h : Hdr) (d a : BitVec 6) (x : Bool) (s : State) : Out := .next (unOp h d a x (· &&& 0x7FFF7FFF) s)
def execAddBf2 (h : Hdr) (d a b : BitVec 6) (x y : Bool) (s : State) : Out :=
  .next (packBin h d a b x y (fun m => bf16.addC m h.sat s.pre.ftz) s)
def execSubBf2 (h : Hdr) (d a b : BitVec 6) (x y : Bool) (s : State) : Out :=
  .next (packBin h d a b x y (fun m => bf16.subC m h.sat s.pre.ftz) s)
def execMulBf2 (h : Hdr) (d a b : BitVec 6) (x y : Bool) (s : State) : Out :=
  .next (packBin h d a b x y (fun m => bf16.mulC m h.sat s.pre.ftz) s)
def execFmaBf2 (h : Hdr) (d a b : BitVec 6) (x y : Bool) (s : State) : Out := .next (packFma bf16 h d a b x y s)
def execMinBf2 (h : Hdr) (d a b : BitVec 6) (x y : Bool) (s : State) : Out :=
  .next (packMinmax bf16 false h d a b x y s)
def execMaxBf2 (h : Hdr) (d a b : BitVec 6) (x y : Bool) (s : State) : Out :=
  .next (packMinmax bf16 true h d a b x y s)
def execAbsBf2 (h : Hdr) (d a : BitVec 6) (x : Bool) (s : State) : Out := .next (unOp h d a x (· &&& 0x7FFF7FFF) s)

/-! ### Major 9 (R209 to R211) -/

/-- An FP32 source read exactly, under FTZ (R93). -/
def inF (ftz : Bool) (a : W32) : FVal := fp32.value (fp32.flush ftz a.toNat)

/-- A rounding conversion of one register to one. -/
def convert (h : Hdr) (d a : BitVec 6) (x : Bool) (k : Nat) (f : RMode → W32 → W32) (s : State) : State :=
  roundOp h s (s.pre.op d 1) [s.pre.op a 1 x] (fun L => [f (s.mode h L 0 k) (s.pre.src a L)])

def execCvtF32I32 (h : Hdr) (d a : BitVec 6) (x : Bool) (s : State) : Out :=
  .next (convert h d a x 24 (fun m v => BitVec.ofNat 32 (fp32.round m h.sat s.pre.ftz (.ofInt v.toInt))) s)
def execCvtI32F32 (h : Hdr) (d a : BitVec 6) (x : Bool) (s : State) : Out :=
  .next (convert h d a x 16 (fun m v => BitVec.ofInt 32 (toIntClamped m (-(2 ^ 31)) (2 ^ 31 - 1) (inF s.pre.ftz v))) s)
def execCvtF32N32 (h : Hdr) (d a : BitVec 6) (x : Bool) (s : State) : Out :=
  .next (convert h d a x 24 (fun m v => BitVec.ofNat 32 (fp32.round m h.sat s.pre.ftz (.ofInt v.toNat))) s)
def execCvtN32F32 (h : Hdr) (d a : BitVec 6) (x : Bool) (s : State) : Out :=
  .next (convert h d a x 16 (fun m v => BitVec.ofInt 32 (toIntClamped m 0 (2 ^ 32 - 1) (inF s.pre.ftz v))) s)

/-- A narrowing conversion: `n` registers to the elements of one, `w` bits each. -/
def narrow (f : FFmt) (n w k : Nat) (h : Hdr) (d a : BitVec 6) (x : Bool) (s : State) : State :=
  let A := s.pre.op a n x
  roundOp h s (s.pre.op d 1) [A] fun L =>
    [BitVec.ofNat 32 ((List.range n).foldl (fun r i =>
      r + f.round (s.mode h L i k) h.sat s.pre.ftz (inF s.pre.ftz (s.pre.vreg (A.reg + i) L)) * 2 ^ (w * i)) 0)]

/-- A widening conversion: the elements of one register to `n` registers. -/
def widen (f : FFmt) (n w : Nat) (h : Hdr) (d a : BitVec 6) (x : Bool) (s : State) : State :=
  vecOp h s (s.pre.op d n) [s.pre.op a 1 x] fun L =>
    (List.range n).map fun i =>
      let e := (s.pre.src a L).toNat / 2 ^ (w * i) % 2 ^ w
      BitVec.ofNat 32 (fp32.round .rne false s.pre.ftz (f.value (f.flush s.pre.ftz e)))

def execCvtBf2F32 (h : Hdr) (d a : BitVec 6) (x : Bool) (s : State) : Out := .next (narrow bf16 2 16 16 h d a x s)
def execCvtF32Bf (h : Hdr) (d a : BitVec 6) (x : Bool) (s : State) : Out := .next (widen bf16 2 16 h d a x s)
def execCvtH2F32 (h : Hdr) (d a : BitVec 6) (x : Bool) (s : State) : Out := .next (narrow fp16 2 16 16 h d a x s)
def execCvtF32H (h : Hdr) (d a : BitVec 6) (x : Bool) (s : State) : Out := .next (widen fp16 2 16 h d a x s)
def execCvtE4x4F32 (h : Hdr) (d a : BitVec 6) (x : Bool) (s : State) : Out := .next (narrow e4m3 4 8 12 h d a x s)
def execCvtF32E4 (h : Hdr) (d a : BitVec 6) (x : Bool) (s : State) : Out := .next (widen e4m3 4 8 h d a x s)
def execCvtE5x4F32 (h : Hdr) (d a : BitVec 6) (x : Bool) (s : State) : Out := .next (narrow e5m2 4 8 12 h d a x s)
def execCvtF32E5 (h : Hdr) (d a : BitVec 6) (x : Bool) (s : State) : Out := .next (widen e5m2 4 8 h d a x s)

/-- The scale bytes of a Q4 conversion (R210): row in bits [7:0], column in bits [15:8]. -/
def q4row (b : W32) : Nat := b.toNat % 256
def q4col (b : W32) : Nat := b.toNat / 256 % 256

/-- `cvt.q4.f32` (R210). -/
def execCvtQ4F32 (h : Hdr) (d a b : BitVec 6) (x y : Bool) (s : State) : Out :=
  let A := s.pre.op a 4 x
  .next <| roundOp h s (s.pre.op d 1) [A, s.pre.op b 1 y] fun L =>
    let sc := s.pre.src b L
    [BitVec.ofNat 32 ((List.range 4).foldl (fun r i =>
      r + q4encode (s.mode h L i 8) (q4row sc) (q4col sc) (inF s.pre.ftz (s.pre.vreg (A.reg + i) L)) * 2 ^ (4 * i)) 0)]

/-- `cvt.f32.q4` (R210). -/
def execCvtF32Q4 (h : Hdr) (d a b : BitVec 6) (x y : Bool) (s : State) : Out :=
  .next <| vecOp h s (s.pre.op d 4) [s.pre.op a 1 x, s.pre.op b 1 y] fun L =>
    let sc := s.pre.src b L
    (List.range 4).map fun i =>
      BitVec.ofNat 32 (fp32.round .rne false s.pre.ftz
        (q4value (q4row sc) (q4col sc) ((s.pre.src a L).toNat / 2 ^ (4 * i) % 16)))

/-- An FP32 value rounded to an integral one (R211). -/
def rintVal (m : RMode) (x : FVal) : FVal :=
  match x with
  | .fin neg n e => .fin neg (roundQuanta m neg n e 0) 0
  | x => x

/-- `rint.f32` (R211). -/
def execRintF32 (h : Hdr) (d a : BitVec 6) (x : Bool) (s : State) : Out :=
  .next (convert h d a x 16 (fun m v => BitVec.ofNat 32 (fp32.round .rne false false (rintVal m (inF s.pre.ftz v)))) s)

/-! ### Major 13 (R219 to R221) -/

/-- `draw` (R219). -/
def execDraw (h : Hdr) (d b : BitVec 6) (s : State) : Out :=
  let D := s.pre.op d b.toNat
  .next <| perThread h s (fun L => opCheck s.pre L [D] []) fun m s =>
    let words := fun L =>
      let g := s.gIndex L
      let r := philox s.pre.seed (s.pre.sdiOf L) (BitVec.ofNat 32 g) (BitVec.ofNat 32 (g / 2 ^ 32)) 1
      (List.range b.toNat).map (philoxWord r)
    s.setW (((lanesOf m).foldl (fun w L => w.put L D (words L)) s.wv).bumpSdi m)

/-- `rhash` (R220). -/
def execRhash (h : Hdr) (d a b : BitVec 6) (x y : Bool) (s : State) : Out :=
  .next <| vecOp h s (s.pre.op d 1) [s.pre.op a 1 x, s.pre.op b 1 y, s.pre.op h.fieldC 1 h.bitEc] fun L =>
    [philoxWord (philox s.pre.seed (s.pre.src a L) (s.pre.src b L) (s.pre.src h.fieldC L) 2) 0]

/-- `sdiset` (R221). -/
def execSdiset (h : Hdr) (a : BitVec 6) (x : Bool) (s : State) : Out :=
  .next <| perThread h s (fun L => opCheck s.pre L [] [s.pre.op a 1 x]) fun m s =>
    s.setW ((lanesOf m).foldl (fun w L => w.setSdi L (s.pre.src a L)) s.wv)

/-- `sdiget` (R221). -/
def execSdiget (h : Hdr) (d : BitVec 6) (s : State) : Out :=
  .next (vecOp h s (s.pre.op d 1) [] (fun L => [s.pre.sdiOf L]))

end Sys2Proof.Machine
end

