-- ==== Sys2Proof/Machine/Cross.lean ====
section
/-! DEFINITION. Majors 11 and 12 (09 R213 to R218): cross-lane instructions and mask operations. -/

namespace Sys2Proof.Machine

/-! ### Cross-lane forms -/

/-- DATA_ERROR of sources over several lanes: the first register in operand order, and its lowest marked lane (R232). -/
def marksOver (w : Wave) (ls : List Nat) (srcs : List VOp) : Option Stop :=
  firstStop (srcs.flatMap fun o => o.regs.flatMap fun r => ls.map fun L =>
    (w.marked r L).map (fun a => .fault .dataError (BitVec.ofNat 64 a)))

/-- The tests of the sources of the effective members: a fault of any comes before a wait; REG_EMPTY names the first empty register of
the lowest lane (R213). Where one member has an empty source and another a marked one, the fault of the lowest is raised (assumption 133). -/
def memberTest (w : Wave) (ls : List Nat) (srcs : List VOp) : Option Stop :=
  match faultFirst (ls.map (fun L => srcsTest w L srcs)) with
  | some (.fault .dataError b) => (marksOver w ls srcs).or (some (.fault .dataError b))
  | x => x

/-- The checks of a cross-lane instruction over its effective members (R213). -/
def crossCheck (w : Wave) (m : Lanes) (dsts srcs : List VOp) : Option Stop :=
  let ls := lanesOf m
  firstStop [boundsCheck w (dsts ++ srcs), memberTest w ls srcs, await (!ls.any (fun L => dsts.any (dstWaits w L)))]

/-- A cross-lane instruction: `f` gives the registers of each effective member. -/
def crossOp (h : Hdr) (s : State) (d : VOp) (srcs : List VOp) (f : Lanes → Nat → List W32) : State :=
  memberMasked h s (crossCheck s.pre (h.members s.pre) [d] srcs)
    (fun m s => s.setW ((lanesOf m).foldl (fun w L => w.put L d (f m L)) s.wv))

/-! ### Movement (R214) -/

/-- Member L receives vA of lane `src L` if that is an effective member, else its own. -/
def moveOp (h : Hdr) (d a : BitVec 6) (x : Bool) (more : List VOp) (src : Nat → Nat) (s : State) : State :=
  crossOp h s (s.pre.op d 1) (s.pre.op a 1 x :: more)
    (fun m L => [s.pre.src a (if src L < 48 ∧ laneIn m (src L) = true then src L else L)])

def execShfl (h : Hdr) (d a b : BitVec 6) (x y : Bool) (s : State) : Out :=
  .next (moveOp h d a x [s.pre.op b 1 y] (fun L => (s.pre.src b L).toNat) s)
def execShfli (h : Hdr) (d a n : BitVec 6) (x : Bool) (s : State) : Out :=
  .next (moveOp h d a x [] (fun L => (L + n.toNat) % 48) s)
def execBfly (h : Hdr) (d a n : BitVec 6) (x : Bool) (s : State) : Out :=
  .next (moveOp h d a x [] (fun L => L ^^^ n.toNat) s)
def execBcast (h : Hdr) (d a b : BitVec 6) (x : Bool) (s : State) : Out :=
  .next (moveOp h d a x [] (fun _ => (s.pre.sreg b).toNat) s)

/-! ### Reductions and scans (R105 to R107, R215) -/

/-- A node of the tree: an absent child leaves the other unchanged (R106). -/
def treeNode (f : W32 → W32 → W32) (a b : Option W32) : Option W32 :=
  match a, b with
  | some p, some q => some (f p q)
  | some p, none => some p
  | none, q => q

/-- One level of the tree: neighbours combined in pairs. -/
def treeLevel (f : W32 → W32 → W32) : List (Option W32) → List (Option W32)
  | a :: b :: r => treeNode f a b :: treeLevel f r
  | r => r

/-- The leaves: absent where a lane is not an effective member. -/
def treeLeaves (m : Lanes) (v : Nat → W32) : List (Option W32) :=
  allLanes.map (fun L => if laneIn m L then some (v L) else none)

/-- Levels 0 to 4. -/
def treeLevels (f : W32 → W32 → W32) (leaves : List (Option W32)) : Nat → List (Option W32)
  | 0 => leaves
  | n + 1 => treeLevel f (treeLevels f leaves n)

/-- The root (R105): the three nodes of level 4, from the left. -/
def treeRoot (f : W32 → W32 → W32) (m : Lanes) (v : Nat → W32) : W32 :=
  ((treeLevels f (treeLeaves m v) 4).foldl (treeNode f) none).getD 0

/-- The nodes of a prefix below level 4 (R107): for each set bit of e from bit `k` − 1 down, the next node, from lane `lo`. -/
def scanParts (f : W32 → W32 → W32) (leaves : List (Option W32)) (e : Nat) : Nat → Nat → List (Option W32)
  | 0, _ => []
  | k + 1, lo =>
    if e.testBit k then (treeLevels f leaves k).getD (lo / 2 ^ k) none :: scanParts f leaves e k (lo + 2 ^ k)
    else scanParts f leaves e k lo

/-- The inclusive prefix of lane L (R107). -/
def scanAt (f : W32 → W32 → W32) (m : Lanes) (v : Nat → W32) (L : Nat) : W32 :=
  let leaves := treeLeaves m v
  let q := (L + 1) / 16
  let parts := (treeLevels f leaves 4).take q ++ scanParts f leaves ((L + 1) % 16) 4 (16 * q)
  (parts.foldl (treeNode f) none).getD 0

def xredOp (h : Hdr) (d a : BitVec 6) (x : Bool) (f : W32 → W32 → W32) (s : State) : State :=
  crossOp h s (s.pre.op d 1) [s.pre.op a 1 x] (fun m _ => [treeRoot f m (s.pre.src a)])
def scanOp (h : Hdr) (d a : BitVec 6) (x : Bool) (f : W32 → W32 → W32) (s : State) : State :=
  crossOp h s (s.pre.op d 1) [s.pre.op a 1 x] (fun m L => [scanAt f m (s.pre.src a) L])

/-- Floating ⊕, rounded RNE, under FTZ. -/
def crossAddf (ftz : Bool) (a b : W32) : W32 := BitVec.ofNat 32 (fp32.addC .rne false ftz a.toNat b.toNat)
def crossMinmax (ftz isMax : Bool) (a b : W32) : W32 := BitVec.ofNat 32 (fp32.minmaxF ftz isMax a.toNat b.toNat)

def execXredAdd (h : Hdr) (d a : BitVec 6) (x : Bool) (s : State) : Out := .next (xredOp h d a x (· + ·) s)
def execXredAddf (h : Hdr) (d a : BitVec 6) (x : Bool) (s : State) : Out :=
  .next (xredOp h d a x (crossAddf s.pre.ftz) s)
def execXredMin (h : Hdr) (d a : BitVec 6) (x : Bool) (s : State) : Out := .next (xredOp h d a x i32Min s)
def execXredMax (h : Hdr) (d a : BitVec 6) (x : Bool) (s : State) : Out := .next (xredOp h d a x i32Max s)
def execXredMinf (h : Hdr) (d a : BitVec 6) (x : Bool) (s : State) : Out :=
  .next (xredOp h d a x (crossMinmax s.pre.ftz false) s)
def execXredMaxf (h : Hdr) (d a : BitVec 6) (x : Bool) (s : State) : Out :=
  .next (xredOp h d a x (crossMinmax s.pre.ftz true) s)
def execXredAnd (h : Hdr) (d a : BitVec 6) (x : Bool) (s : State) : Out := .next (xredOp h d a x (· &&& ·) s)
def execXredOr (h : Hdr) (d a : BitVec 6) (x : Bool) (s : State) : Out := .next (xredOp h d a x (· ||| ·) s)
def execXredXor (h : Hdr) (d a : BitVec 6) (x : Bool) (s : State) : Out := .next (xredOp h d a x (· ^^^ ·) s)
def execScanAdd (h : Hdr) (d a : BitVec 6) (x : Bool) (s : State) : Out := .next (scanOp h d a x (· + ·) s)

/-- A NaN result is canonical (R215). -/
def canonNan (v : W32) : W32 := if (fp32.value v.toNat).isNan then BitVec.ofNat 32 fp32.nanCode else v

/-- `scan.addf`: a lone part that is NaN is canonical too, as R215 excepts only a reduction over a single member. -/
def execScanAddf (h : Hdr) (d a : BitVec 6) (x : Bool) (s : State) : Out :=
  .next (crossOp h s (s.pre.op d 1) [s.pre.op a 1 x] (fun m L => [canonNan (scanAt (crossAddf s.pre.ftz) m (s.pre.src a) L)]))
def execScanXor (h : Hdr) (d a : BitVec 6) (x : Bool) (s : State) : Out := .next (scanOp h d a x (· ^^^ ·) s)
def execScanMax (h : Hdr) (d a : BitVec 6) (x : Bool) (s : State) : Out := .next (scanOp h d a x i32Max s)

/-! ### Matches, votes (R216, R217) -/

/-- `match` and `matchf`: the lowest effective member that matches, and the count of those that do. -/
def matchOp (h : Hdr) (d a : BitVec 6) (x : Bool) (eq : W32 → W32 → Bool) (s : State) : State :=
  crossOp h s (s.pre.op d 2) [s.pre.op a 1 x] fun m L =>
    let hits := (lanesOf m).filter (fun j => eq (s.pre.src a j) (s.pre.src a L))
    [BitVec.ofNat 32 (hits.headD 0), BitVec.ofNat 32 hits.length]

/-- The equality of `matchf`: −0 matches +0, and every NaN matches every NaN; FTZ does not apply. -/
def matchF (p q : W32) : Bool :=
  let u := fp32.value p.toNat
  let v := fp32.value q.toNat
  (u.isNan && v.isNan) || u.eqv v

def execMatchB (h : Hdr) (d a : BitVec 6) (x : Bool) (s : State) : Out := .next (matchOp h d a x (· == ·) s)
def execMatchf (h : Hdr) (d a : BitVec 6) (x : Bool) (s : State) : Out := .next (matchOp h d a x matchF s)

/-- What a predicate minor waits for: the predicates it names, in its effective members (R249). -/
def predsReady (w : Wave) (m : Lanes) (ps : List (BitVec 3)) : Option Stop :=
  firstStop ((lanesOf m).map (fun L => predCheck w L ps))

/-- `ballot` (R217): KZ is unchanged. -/
def execBallot (h : Hdr) (d a : BitVec 3) (s : State) : Out :=
  .next <| memberMasked h s (predsReady s.pre (h.members s.pre) [a]) fun m s =>
    s.setW (s.wv.setMask d (s.pre.pred a &&& m))

/-- `vote.any` and `vote.all`. -/
def voteOp (h : Hdr) (d a : BitVec 3) (f : Lanes → Lanes → Bool) (s : State) : State :=
  memberMasked h s (predsReady s.pre (h.members s.pre) [d, a]) fun m s =>
    s.setW (s.wv.setPred d m (if f (s.pre.pred a &&& m) m then fullMask else 0))

def execVoteAny (h : Hdr) (d a : BitVec 3) (s : State) : Out := .next (voteOp h d a (fun p _ => p != 0) s)
def execVoteAll (h : Hdr) (d a : BitVec 3) (s : State) : Out := .next (voteOp h d a (fun p m => p == m) s)

/-! ### Mask operations (major 12, R218) -/

/-- An operation that writes a mask, and KZ with it (R62). -/
def maskOp (s : State) (d : BitVec 3) (v : Lanes) : State := waveLevel s none (fun s => s.setW (s.wv.setMaskZ d v))

/-- The lowest set bit of a mask, 48 if none. -/
def firstBit (m : Lanes) : Nat := (lanesOf m).headD 48

def execKand (_h : Hdr) (d a b : BitVec 3) (s : State) : Out := .next (maskOp s d (s.pre.kmask a &&& s.pre.kmask b))
def execKor (_h : Hdr) (d a b : BitVec 3) (s : State) : Out := .next (maskOp s d (s.pre.kmask a ||| s.pre.kmask b))
def execKxor (_h : Hdr) (d a b : BitVec 3) (s : State) : Out := .next (maskOp s d (s.pre.kmask a ^^^ s.pre.kmask b))
def execKnot (_h : Hdr) (d a : BitVec 3) (s : State) : Out := .next (maskOp s d (~~~ s.pre.kmask a))
def execKmov (_h : Hdr) (d a : BitVec 3) (s : State) : Out := .next (maskOp s d (s.pre.kmask a))

/-- `kfromp`: the live lanes of a predicate. -/
def execKfromp (_h : Hdr) (d a : BitVec 3) (s : State) : Out :=
  .next <| waveLevel s (predsReady s.pre s.pre.live [a])
    (fun s => s.setW (s.wv.setMaskZ d (s.pre.pred a &&& s.pre.live)))

/-- `ktop`: a mask into a predicate, in live lanes. -/
def execKtop (_h : Hdr) (d a : BitVec 3) (s : State) : Out :=
  .next <| waveLevel s (predsReady s.pre s.pre.live [d])
    (fun s => s.setW (s.wv.setPred d s.pre.live (s.pre.kmask a)))

def execKpop (_h : Hdr) (d : BitVec 6) (a : BitVec 3) (s : State) : Out :=
  .next (scalarOp s d (BitVec.ofNat 64 (countLanes (s.pre.kmask a))))
def execKfirst (_h : Hdr) (d : BitVec 6) (a : BitVec 3) (s : State) : Out :=
  .next (scalarOp s d (BitVec.ofNat 64 (firstBit (s.pre.kmask a))))
def execKfs (_h : Hdr) (d a : BitVec 3) (s : State) : Out :=
  .next (maskOp s d (BitVec.ofNat 48 (if s.pre.kmask a = 0 then 0 else 2 ^ firstBit (s.pre.kmask a))))
def execKsk (_h : Hdr) (d : BitVec 3) (a : BitVec 6) (s : State) : Out :=
  .next (maskOp s d ((s.pre.sreg a).setWidth 48))

end Sys2Proof.Machine
end

