-- ==== Sys2Proof/Machine/Edge.lean ====
section
/-! DEFINITION. Edge groups (20 R443 to R445, 22 R473): requests of a personality and the states that a switch runs through. -/

namespace Sys2Proof.Machine

/-! ### Fields -/

def State.egState (s : State) (g : Nat) : Nat := s.fld (edgeReg g 0) 23 20
def State.egPers (s : State) (g : Nat) : Nat := s.fld (edgeReg g 0) 19 16
def State.egPeer (s : State) (g : Nat) : Nat := s.fld (edgeReg g 0) 3 0
def State.setEgState (s : State) (g st : Nat) : State := s.setFld (edgeReg g 0) 23 20 st
def State.setEgErr (s : State) (g e : Nat) : State := s.setFld (edgeReg g 8) 31 24 e

/-- LANES and RATE of a group. -/
def State.setLink (s : State) (g rate lanes : Nat) : State := (s.setFld (edgeReg g 8) 23 16 rate).setFld (edgeReg g 8) 15 0 lanes

/-- Does a group carry an LD (R434)? -/
def State.carries (s : State) (g l : Nat) : Bool := (s.reg (ldReg l 0)).getLsbD (32 + g)

/-- The groups in ACTIVE of a personality. -/
def State.activeGroups (s : State) (pers : Nat) : List Nat :=
  (List.range 24).filter (fun g => s.egState g == 1 && s.egPers g == pers)

/-! ### Requests (R443 to R445) -/

/-- Is a group the last ACTIVE CXL group of an LD that has a VF whose partition is not OFF? -/
def State.lastOfLd (s : State) (g : Nat) : Bool :=
  s.egState g == 1 && s.egPers g == 1 && (List.range 16).any fun l =>
    s.carries g l && ((s.activeGroups 1).filter (fun h => s.carries h l)) == [g] && (s.ldPids l).any (fun p => s.qstate p != 0)

/-- Does a valid window of KIND 2 of any partition name a peer? -/
def State.peerUsed (s : State) (peer : Nat) : Bool :=
  (List.range 256).any fun p => (List.range 8).any fun k =>
    let c := s.reg (partCtl p (0x808 + 16 * k))
    c.getLsbD 63 && field c 62 61 == 2 && field c 51 48 == peer

/-- Is a group the last ACTIVE UALink group to a peer that a window names? -/
def State.lastToPeer (s : State) (g : Nat) : Bool :=
  s.egState g == 1 && s.egPers g == 2 && ((s.activeGroups 2).filter (fun h => s.egPeer h == s.egPeer g)) == [g] && s.peerUsed (s.egPeer g)

/-- Does a reset in progress touch a group? -/
def State.resetTouches (s : State) (g : Nat) : Bool :=
  (List.range 16).any fun l => s.carries g l && (s.ldPids l).any s.resetting.contains

/-- Is a request refused with BUSY (R445)? -/
def State.egBusy (s : State) (g : Nat) : Bool := s.lastOfLd g || s.lastToPeer g || s.resetTouches g

/-- May REQ start a switch: the state allows one, and EGTP and the features do (R446, R473)? -/
def State.egMay (s : State) (g req : Nat) : Bool :=
  (s.egState g == 0 || s.egState g == 1 || s.egState g == 6) && decide (req ≤ 3) &&
    (req == 0 || s.fld (edgeReg g 0x10) 7 0 != 0) && (req != 2 || s.feature 5) && (req != 3 || s.feature 6)

/-- The loads and atomics that are in flight through a group complete though it drains (R444). -/
def State.markSent (s : State) (g : Nat) : State :=
  let sent := fun (q : Req) => if q.open_ && !isHbm q.pa && s.leadsTo g q.pa then { q with sent := true } else q
  let wave := fun (w : Wave) => { w with slots := w.slots.map (fun e => (e.1, { e.2 with reqs := e.2.reqs.map sent })) }
  if s.egState g = 1 then { s with blocks := s.blocks.map (fun e => (e.1, { e.2 with waves := e.2.waves.map wave })) } else s

/-- A write of EGCFG: the group drains, and takes the personality and the peer once that ends. -/
def State.egcfgWrite (s : State) (via : Via) (g : Nat) (v : W64) : State :=
  let a := edgeReg g 0
  let req := field v 15 12
  s.ruledWrite via a v (s.egMay g req) fun s =>
    if s.egBusy g then s.setEgErr g 1
    else { ((s.markSent g).setEgState g 2).setEgErr g 0 with egReq := s.egReq.set g (req + 16 * field v 3 0) 0 }

/-- A write of EGCFG that requests a personality. -/
def State.egRequest (s : State) (via : Via) (g req : Nat) (v : W64) : State :=
  if s.reaches via && decide (g < 24) && field v 15 12 == req then s.egcfgWrite via g v else s

/-- EDGE_REQ_OFF. -/
def execEdgeReqOff (via : Via) (group : Nat) (value : W64) (s : State) : Out := .next (s.egRequest via group 0 value)
/-- EDGE_REQ_CXL. -/
def execEdgeReqCxl (via : Via) (group : Nat) (value : W64) (s : State) : Out := .next (s.egRequest via group 1 value)
/-- EDGE_REQ_UALINK. -/
def execEdgeReqUalink (via : Via) (group : Nat) (value : W64) (s : State) : Out := .next (s.egRequest via group 2 value)
/-- EDGE_REQ_ULTRA_ETHERNET. -/
def execEdgeReqUltraEthernet (via : Via) (group : Nat) (value : W64) (s : State) : Out := .next (s.egRequest via group 3 value)

/-- A write of EGTP: in OFF or DOWN only (R473). -/
def State.egtpWrite (s : State) (via : Via) (g : Nat) (v : W64) : State :=
  s.ruledWrite via (edgeReg g 0x10) v (s.egState g == 0 || s.egState g == 6) (fun s => s.setReg (edgeReg g 0x10) v)

/-! ### The states of a switch (R444) -/

/-- Is no write, load or atomic of the module left on its way through a group? What another group serves goes there. -/
def State.groupIdle (s : State) (g : Nat) : Bool :=
  s.writes.all (fun w => isHbm w.pa || decide (w.level < 4) || s.served w.pa || !s.leadsTo g w.pa) &&
    s.blocks.all (fun e => e.2.waves.all (fun w => w.slots.all (fun x => x.2.reqs.all (fun q =>
      !(q.sent && q.open_) || s.served q.pa || !s.leadsTo g q.pa))))

/-- What only a group serves is unmapped: an LD that no other CXL group carries is enumerated no longer. -/
def State.unmap (s : State) (g : Nat) : State :=
  if s.egPers g ≠ 1 then s
  else
    (List.range 16).foldl (fun s l =>
      if s.carries g l && !((s.activeGroups 1).any (fun h => h != g && s.carries h l)) then s.setFld (ldReg l 0) 31 31 0 else s) s

/-- EDGE_DRAIN_COMPLETE: DRAIN, through UNMAP, to TRAIN, or to OFF. -/
def execEdgeDrainComplete (group : Nat) (s : State) : Out := .next <|
  if s.egState group ≠ 2 ∨ s.groupIdle group = false then s
  else
    let req := s.egReq.get group 0 % 16
    let s1 := (((s.unmap group).setLink group 0 0).setFld (edgeReg group 0) 19 16 req).setFld (edgeReg group 0) 3 0 (s.egReq.get group 0 / 16)
    s1.setEgState group (if req = 0 then 0 else 4)

/-- EDGE_TRAIN_COMPLETE: lanes of the group's WIDTH are up at a rate no higher than EGTP's, and than 64 Gb/s for CXL or 212 otherwise (R473). -/
def execEdgeTrainComplete (group rate lanes : Nat) (s : State) : Out := .next <|
  let width := if (s.reg (edgeReg group 0x10)).getLsbD 16 then 8 else 16
  if s.egState group = 4 ∧ rate ≠ 0 ∧ rate ≤ s.fld (edgeReg group 0x10) 7 0 ∧ rate ≤ (if s.egPers group = 1 then 32 else 106) ∧
      lanes ≠ 0 ∧ lanes < 2 ^ width then
    (s.setLink group rate lanes).setEgState group 5
  else s

/-- EDGE_TRAIN_TIMEOUT: DOWN, with TRAIN_FAIL, logged. -/
def execEdgeTrainTimeout (group : Nat) (s : State) : Out := .next <|
  if s.egState group = 4 then (((s.setLink group 0 0).setEgState group 6).setEgErr group 2).log 7 (0x100 + group) else s

/-- EDGE_ENUM_COMPLETE: a host enumerates the LDs that the group carries, or the peer answers. -/
def execEdgeEnumComplete (group : Nat) (s : State) : Out := .next <|
  let ls := (List.range 16).filter (s.carries group)
  if s.egState group ≠ 5 ∨ (s.egPers group = 1 ∧ ls = []) then s
  else
    let s1 := if s.egPers group = 1 then ls.foldl (fun s l => s.setFld (ldReg l 0) 31 31 1) s else s
    s1.setEgState group 1

/-- LINK_LOST: the group goes DOWN; what another group serves is resent through it (R445). -/
def execLinkLost (group : Nat) (s : State) : Out := .next <|
  if s.egState group = 1 then ((s.setLink group 0 0).setEgState group 6).setEgErr group 3 else s

end Sys2Proof.Machine
end

