-- ==== Sys2Proof/Machine/Jobs.lean ====
section
/-! DEFINITION. The steps in which the engines move data (11 R276 to R280, 12 R285 to R309), register lines in the image area being read and
written through the register cache (16 R364). -/

namespace Sys2Proof.Machine

/-- The global memory of an element of a started job. -/
def Job.elemPa (j : Job) (d : CopyDesc) (dst : Bool) (size n : Nat) : Option (Nat × TlbE) :=
  match j.pinned d dst size n with
  | some (.mem va e) => some (e.pa va, e)
  | _ => none

/-- The register lines that stand where a job reads or writes are written through first (R364). -/
def State.jobThrough (s : State) (j : Job) (d : CopyDesc) (st dt : Nat) (es : List Nat) : State :=
  es.foldl (fun s n => [(false, elemSize st), (true, elemSize dt)].foldl (fun s x => match j.elemPa d x.1 x.2 n with
    | some p => s.throughLines p.1 x.2
    | none => s) s) s

/-- The register lines that stand where a job has written, in `t`, take what stands there now (R364). -/
def State.jobStore (s : State) (j : Job) (d : CopyDesc) (dt : Nat) (es : List Nat) (t : State) : State :=
  es.foldl (fun t n => match j.elemPa d true (elemSize dt) n with
    | some p =>
      let bs := if leafKey p.2.leaf = 0 then some (t.homeBytes p.1 (elemSize dt)) else t.plainBytes j.pid (leafKey p.2.leaf) p.1 (elemSize dt)
      match bs with
      | some bs => s.storeLines p.1 bs t
      | none => t
    | none => t) t

/-- Moves elements of a copy, through the register lines that stand there. -/
def State.moveLines (s : State) (j : Job) (d : CopyDesc) (st dt : Nat) (es : List Nat) : State :=
  s.jobStore j d dt es ((s.jobThrough j d st dt es).moveElems j d st dt es)

/-- Runs a chain's elements, through the register lines that stand there. -/
def State.chainLines (s : State) (j : Job) (x : ChainDesc) : State × Option W64 :=
  let st := (s.sideType j x.copy false).1
  let dt := (s.sideType j x.copy true).1
  let es := List.range x.copy.total
  let r := (s.jobThrough j x.copy st dt es).runChain j x
  (s.jobStore j x.copy dt es r.1, r.2)

/-- FILL_SECTOR_ARRIVAL. The bytes of an element whose source line is uncorrectable do not arrive (R123, R128). -/
def execFillSectorArrival (ctxn handle num sector : Nat) (s : State) : Out := .next <|
  match s.job ctxn handle num with
  | some j =>
    match j.work, j.phase with
    | .copy d, .started =>
      let st := (s.sideType j d false).1
      let dt := (s.sideType j d true).1
      let es := (List.range d.total).filter (fun n => d.sectorOf j (elemSize dt) n == sector)
      if !d.dbuf || es == [] || j.arrived.contains sector || (j.status != 0 && j.status != 7) then s
      else
        let s1 := (s.setJob { j with arrived := j.arrived ++ [sector] }).moveLines j d st dt es
        let good := es.filter (fun n => match j.pinned d false (elemSize st) n with
          | some p => (s.readElemAt j p (elemSize st)).isSome
          | none => false)
        if good = [] || s1.fillStale j (opId d.dst) then s1
        else s1.setBlock j.uid ((s1.block j.uid).arrive (opId d.dst) (sector / 4) (elemSize dt * good.length))
    | _, _ => s
  | none => s

/-- COPY_JOB_RETIRE: the rest of the job's writes are performed, then its number is done. An atomic on its way to a destination holds it
(R142); writes to a frame locked for migration are made and held there, and the job, its reads complete and its pages no longer pinned,
retires once they are performed (R389, R392). -/
def execCopyJobRetire (ctxn handle num : Nat) (s : State) : Out := .next <|
  match s.job ctxn handle num with
  | some j =>
    match j.work, j.phase with
    | .copy d, .started =>
      let st := (s.sideType j d false).1
      let dt := (s.sideType j d true).1
      let waits := if d.dbuf then (j.status == 0 || j.status == 7) && (d.sectors j (elemSize dt)).any (fun x => !j.arrived.contains x)
        else j.status == 0 && !j.moved && s.destHeld j d (elemSize dt)
      if waits || (j.moved && !s.depsDone j.deps) then s
      else
        let s1 := if !d.dbuf && j.status == 0 && !j.moved then s.moveLines j d st dt (List.range d.total) else s
        let k := (s1.job ctxn handle num).getD j
        let left := if j.moved then [] else s1.heldFrom s.nextWrite
        if left = [] then (s1.copyEnd k d k.status).retireJob k k.status k.errAddr
        else s1.setJob { k with moved := true, pins := [], deps := left }
    | _, _ => s
  | none => s

/-- CHAIN_JOB_RETIRE: once what its release covers is performed and its source lines are present, the job checks its pages, runs
its elements and retires; writes that a locked frame holds are performed first (R392). -/
def execChainJobRetire (ctxn handle num : Nat) (s : State) : Out := .next <|
  match s.job ctxn handle num with
  | some j =>
    match j.work with
    | .chain x =>
      let d := x.copy
      if !s.depsDone j.deps then s
      else if j.moved then s.chainEnd j d j.status j.errAddr
      else
        match s.chainSource j d with
        | some .wait => s
        | some _ => s.chainEnd j d 2 (bufBad (opId d.src) (opOff d.src))
        | none =>
          let (st, addr) := s.chainStatus j d
          if st ≠ 0 then s.chainEnd j d st addr
          else
            let j1 := { j with pins := s.copyPins j d }
            if s.destHeld j1 d (elemSize (s.sideType j1 d true).1) then s
            else
              let r := (s.keepPins j1.pins).chainLines j1 x
              let left := r.1.heldFrom s.nextWrite
              let k := { j with status := if r.2.isSome then 7 else 0, errAddr := r.2.getD 0, deps := left, moved := true }
              if left = [] then r.1.chainEnd j d k.status k.errAddr else r.1.setJob k
    | _ => s
  | none => s

/-- Every U copy of what a job reads of global memory is recalled, as a load does (R145, R286); a register line that stands there is
written through (R364). -/
def State.recallPair (s : State) (j : Job) (r : PairRec) : State :=
  ((r.reads.filter (·.1)).flatMap (fun e => pageParts e.2.1 e.2.2)).foldl (fun s p =>
    match j.pin p.1 with
    | some e => (s.throughLines (e.pa p.1) p.2).recall (e.pa p.1) p.2
    | none => s) s

/-- PAIR_JOB_START: an idle engine picks a job, pins its pages, loads its table and reads its headers. A resumed job goes on at
its cursor (R305): its pages are pinned and its checks made, and the store holds its table again (assumption 98). -/
def execPairJobStart (quad : Nat) (s : State) : Out := .next <|
  match s.pairPick quad with
  | none => s
  | some j =>
    match j.work with
    | .pair r cur =>
      if s.pairBusy quad || !s.depsDone j.deps || !s.pairLines j r then s
      else
        let e := s.pairEng.get quad {}
        let served := { e with lastCore := coreInQuad j.tile }
        match cur with
        | some _ =>
          let e1 := { served with storePid := some j.pid, header := j.table.1, coefs := j.table.2 }
          { s.setJob { j with phase := .started } with pairEng := s.pairEng.set quad e1 {} }
        | none =>
          let (pins, bad) := s.pairPages j r
          let j1 := { j with phase := .started, pins := pins }
          let s0 := s.recallPair j1 r
          let (e1, st, addr) :=
            if (worst bad).1 ≠ 0 then (served, worst bad)
            else
              match s0.loadTable j1 r served with
              | (e1, 0, _) => (e1, s0.cellStatus j1 r)
              | x => x
          let g := { s0.engAt j.ctxn j.handle with pairs := 0, tested := 0 }
          let s1 := ((s0.keepPins pins).setJob
            { j1 with status := st, errAddr := addr, table := (e1.header, e1.coefs) }).setEng j.ctxn j.handle g
          { s1 with pairEng := s1.pairEng.set quad e1 {} }
    | _ => s

/-- PAIR_JOB_SUSPEND. A job that saturates once STOP has abandoned the suspended jobs of its partition is abandoned too, and one of a partition
in reset is aborted (R309, R440). -/
def execPairJobSuspend (ctxn handle num : Nat) (s : State) : Out := .next <|
  match s.job ctxn handle num with
  | some j =>
    match j.work, j.phase with
    | .pair r cur, .started =>
      if j.status ≠ 0 then s
      else
        let s0 := s.recallPair j r
        let x := s0.pairRun j r cur
        match x.fin with
        | .sat c =>
          let s1 := (s0.setBlock j.uid x.b).setEng ctxn handle { s0.engAt ctxn handle with pairs := x.pairs, tested := x.tested }
          if s.resetting.contains j.pid then s1.pairEnd j r 8 0
          else if ([3, 4, 5, 6] : List Nat).contains (s.qstate j.pid) then s1.pairEnd j r 9 0
          else (s1.setJob { j with phase := .suspended, work := .pair r (some c) }).holdSat j
        | _ => s
    | _, _ => s
  | none => s

/-- PAIR_JOB_RETIRE. -/
def execPairJobRetire (ctxn handle num : Nat) (s : State) : Out := .next <|
  match s.job ctxn handle num with
  | some j =>
    match j.work, j.phase with
    | .pair r cur, .started =>
      if j.status ≠ 0 then s.pairEnd j r j.status j.errAddr
      else
        let s0 := s.recallPair j r
        let x := s0.pairRun j r cur
        let s1 := (s0.setBlock j.uid x.b).setEng ctxn handle { s0.engAt ctxn handle with pairs := x.pairs, tested := x.tested }
        match x.fin with
        | .going => s1.pairEnd j r 0 0
        | .error a => s1.pairEnd j r 7 a
        | .sat _ => s
    | _, _ => s
  | none => s

end Sys2Proof.Machine
end

