-- ==== Sys2Proof/Machine/RegRead.lean ====
section
/-! DEFINITION. What a read of a maintenance register returns (R6, R461, R462). -/

namespace Sys2Proof.Machine

/-- The fields of a register that a read shows: a WO field and a reserved field read as zero (R5, R6). -/
def RegDesc.readable (r : RegDesc) : W64 :=
  BitVec.ofNat 64 r.rw ||| BitVec.ofNat 64 r.w1s ||| BitVec.ofNat 64 r.w1c ||| BitVec.ofNat 64 r.ro

/-- The launch that owns the work-list area of a queue (R409). -/
def State.areaOwner (s : State) (die pslot q : Nat) : Option Launch :=
  match s.pidOfSlot die pslot with
  | none => none
  | some pid =>
    (s.launches.map (·.2)).find? (fun l => l.ownsArea && l.kind == .queue && l.die == die && l.pid == pid && l.queue == q)

/-- TDSTAT of a queue (R409). -/
def State.tdstat (s : State) (die pslot q : Nat) : W64 :=
  match s.areaOwner die pslot q with
  | none => 0
  | some l =>
    let ws := (l.workers.map (fun e => s.wave e.1 e.2)).filter (fun w => !w.ended)
    let items := l.lists.foldl (fun n e => n + e.2.length) 0
    BitVec.ofNat 64 (1 + (if l.quiet then 2 else 0) + (ws.filter (fun w => w.wlgetBlocked != 0)).length % 2 ^ 16 * 2 ^ 8 +
      ws.length % 2 ^ 16 * 2 ^ 24 + items % 2 ^ 24 * 2 ^ 40)

/-- Is an address a queue's TDSTAT? -/
def isTdstat (a : Nat) : Bool := decide (0x10000000 ≤ a) && a % 0x100000 / 0x10000 == 1 && a % 0x40 == 0x38

/-- The word that a read of a maintenance address that is a multiple of 8 returns; 0 where no register stands. -/
def State.regRead (s : State) (a : Nat) : W64 :=
  match regDesc a with
  | none => 0
  | some d =>
    if isTdstat a then s.tdstat ((a - 0x10000000) / 0x100000) (a % 0x10000 / 0x400) (a % 0x400 / 0x40)
    else s.reg a &&& d.readable

/-- A read of 4 or 8 bytes: 4 bytes name a half (R462). -/
def State.regReadN (s : State) (a width : Nat) : W64 :=
  let w := s.regRead (a / 8 * 8)
  if width = 8 then w else BitVec.ofNat 64 (w.toNat / 2 ^ (8 * (a % 8)) % 2 ^ 32)

end Sys2Proof.Machine
end

