-- ==== Sys2Proof/Machine/LoadStore.lean ====
section
/-! DEFINITION. Majors 14, 15, 17 and 18 (10 R226 to R234): global loads and stores, returning atomics, reductions. -/

namespace Sys2Proof.Machine

/-! ### Addresses and checks -/

/-- The address of a lane (R227). -/
def State.ea (s : State) (h : Hdr) (base idx : BitVec 6) (L : Nat) : Nat :=
  (s.pre.sreg base + (s.pre.vreg (s.pre.vnum idx) L).signExtend 64 + h.disp).toNat

/-- Step 7 of R226: what a lane's open transaction does not hold (R148). -/
def State.txRoom (s : State) (L pa : Nat) (store maint : Bool) : Option Stop :=
  match s.wv.txOf L with
  | none => none
  | some t =>
    let set := if store then t.writes else t.reads
    let limit := if store then 8 else 16
    if maint || !isHbm pa || (!set.contains (sectorOf pa) && decide (set.length ≥ limit)) then some (.abort 3 0) else none

/-- Address checks of one access, breakpoint registers, and the transaction's room. -/
def State.memCheck (s : State) (L : Nat) (k : AccKind) (va width : Nat) : Option Stop :=
  let r := s.access s.who k va width
  firstStop [r.stop va, s.bpData L (k.needsR) (k.needsW) va width,
    match r with
    | .ok x => s.txRoom L x.pa k.needsW x.maint
    | _ => none]

/-- Where an access that passed its checks goes. -/
def State.place (s : State) (k : AccKind) (va width : Nat) : Xlat :=
  match s.access s.who k va width with
  | .ok x => x
  | _ => { pa := 0 }

/-- A lane's memory operation waits while its last returning atomic is not performed. -/
def State.atomicWait (s : State) (L : Nat) : Option Stop := await (!s.wv.atomicPending L)

/-! ### Loads (R228 to R230) -/

def loadKind (form : Nat) : AccKind := if form = 6 then .dec else if form = 7 then .rawLoad else .load
def loadWidth (form : Nat) : Nat := ([1, 1, 2, 2, 4, 8, 1, 4] : List Nat).getD form 4

/-- The registers that a load in a lane writes: `ld.dec` writes two on a Q4 page only (R230). -/
def State.loadSpan (s : State) (form va : Nat) : Nat :=
  if form = 5 then 2
  else if form = 6 then (if leafFmt (s.place .dec va 1).leaf = 6 then 2 else 1)
  else 1

/-- The checks of a load in a lane. -/
def State.loadCheck (s : State) (L form va : Nat) (d idx : BitVec 6) : Option Stop :=
  let D := s.pre.op d (if form = 5 ∨ form = 6 then 2 else 1)
  let I := s.pre.op idx 1
  firstStop [boundsCheck s.pre [D, I], await s.wv.freeSlot.isSome, srcTest s.pre L I,
    if form = 6 then none else await (!dstWaits s.pre L D), s.atomicWait L,
    s.memCheck L (loadKind form) va (loadWidth form),
    if form = 6 then await (!dstWaits s.pre L { D with span := s.loadSpan form va }) else none]

/-- The request of a lane. A read of the maintenance window is performed at once (R462); the reserved bytes of a Q4 unit,
which `ld.raw` alone reaches, read as zero (R88). -/
def State.loadReq (s : State) (L form scope va : Nat) : Req :=
  let x := s.place (loadKind form) va (loadWidth form)
  let width := accWidth (loadKind form) x.leaf (loadWidth form)
  let opnd := if form = 6 then [BitVec.ofNat 32 (leafFmt x.leaf), BitVec.ofNat 32 (leafGeo x.leaf)] else []
  let q : Req := { lane := L, va := va, pa := x.pa, width := width, aux := form, scope := scope, opnd := opnd,
                   tx := (s.wv.txOf L).isSome }
  if x.maint then { q with val := some (loadRegs form 0 (leBytes (s.regReadN x.pa width).toNat width)) }
  else if form = 7 ∧ leafFmt x.leaf = 6 ∧ q4Reserved (leafGeo x.leaf) (unitOff va) = true then { q with val := some [0] }
  else q

/-- A transaction reaches a physical address by a virtual one. -/
def Tx.via (t : Tx) (pa va : Nat) : Tx := { t with grans := t.grans.set (pa / 2 ^ 17) (va / 2 ^ 17 + 1) 0 }

/-- A load's sector joins its transaction's read set (R147). -/
def Wave.txRead (w : Wave) (q : Req) : Wave :=
  match w.txOf q.lane with
  | none => w
  | some t => w.setTx q.lane
      (some { t.via q.pa q.va with reads := if t.reads.contains (sectorOf q.pa) then t.reads else t.reads ++ [sectorOf q.pa] })

/-- Opens the slot of a load: registers are marked empty lane by lane, as many as each lane's form writes. -/
def State.openLoad (s : State) (d : VOp) (m : Lanes) (spans : Nat → Nat) (reqs : List Req) : State :=
  let m2 := maskOf (fun L => laneIn m L && spans L == 2)
  let w1 := s.wv.openSlot .load { d with span := 1 } m reqs
  if m2 = 0 then s.setW w1
  else
    match s.wv.freeSlot with
    | none => s.setW w1
    | some i =>
      let w2 := (w1.clearMarks (d.reg + 1) m2 1).markEmpty (d.reg + 1) m2 1
      s.setW (w2.setSlot i { w2.slot i with span := 2 })

/-- The load instructions. An acquire outside a transaction takes its value at once, after the lane's older loads of the
same bytes, and then acts on the copies (R138); an image line that stands there is written through first (R364). -/
def loadOp (h : Hdr) (d base idx : BitVec 6) (order : BitVec 2) (scope : BitVec 3) (form : Nat) (s : State) : State :=
  perThread h s (fun L => s.loadCheck L form (s.ea h base idx L) d idx) fun m s =>
    let va := fun L => s.ea h base idx L
    let reqs := (lanesOf m).map (fun L => s.loadReq L form scope.toNat (va L))
    let s0 := if order = 1 then (reqs.filter (fun q => !q.tx)).foldl (fun s q => s.throughLines q.pa q.width) s else s
    let s1 := s0.openLoad (s0.pre.op d 1) m (fun L => s.loadSpan form (va L)) reqs
    let s2 := s1.setW (reqs.foldl Wave.txRead s1.wv)
    if order = 1 ∧ m ≠ 0 then
      let i := s.wv.freeSlot.getD 0
      let now := reqs.filter (fun q => !q.tx)
      let s3 := now.foldl (fun s q => (s.fixLoads s.cur.uid s.cur.wid q.lane (fun r => r.reads q.pa q.width)).fixLane
        s.cur.uid s.cur.wid i q.lane 0) s2
      if now = [] then s3 else s3.acquireHere (maskOf (fun L => now.any (·.lane == L))) scope.toNat
    else s2

/-! ### Stores (R231) -/

def storeKind (form : Nat) : AccKind := if form = 4 then .rawStore else .store
def storeWidth (form : Nat) : Nat := ([1, 2, 4, 8, 4] : List Nat).getD form 4

/-- The bytes that a lane stores. -/
def State.storeBytes (s : State) (form : Nat) (d : BitVec 6) (L : Nat) : List Byte :=
  let r := s.pre.vnum d
  let v := (s.pre.vreg r L).toNat + (if form = 3 then (s.pre.vreg (r + 1) L).toNat * 2 ^ 32 else 0)
  leBytes v (storeWidth form)

def State.storeCheck (s : State) (L form va : Nat) (d idx : BitVec 6) : Option Stop :=
  let D := s.pre.op d (if form = 3 then 2 else 1)
  firstStop [boundsCheck s.pre [D, s.pre.op idx 1], s.atomicWait L, opCheck s.pre L [] [s.pre.op idx 1, D],
    s.memCheck L (storeKind form) va (storeWidth form),
    s.ordWait L (s.place (storeKind form) va (storeWidth form)) (storeWidth form)]

/-- Is a store an ordered operation where the launch is DET: does a lane of it store to an ORD page, outside a transaction (R48)? -/
def State.ordStore (s : State) (h : Hdr) (form : Nat) (base idx : BitVec 6) : Bool :=
  (lanesOf s.cur.lanes).any fun L => h.guard s.pre L && (s.wv.txOf L).isNone &&
    leafOrd (s.place (storeKind form) (s.ea h base idx L) (storeWidth form)).leaf

/-- A store joins its transaction's write set (R147), after the lane's older loads of those bytes. -/
def State.txStore (s : State) (L va pa : Nat) (bs : List Byte) : State :=
  let s1 := s.fixLoads s.cur.uid s.cur.wid L (fun r => r.reads pa bs.length)
  match s1.wv.txOf L with
  | none => s1
  | some t =>
    let data := t.data.filter (fun e => !(decide (pa ≤ e.1) && decide (e.1 < pa + bs.length)))
    let ws := if t.writes.contains (sectorOf pa) then t.writes else t.writes ++ [sectorOf pa]
    s1.setW (s1.wv.setTx L (some { t.via pa va with writes := ws, data := data ++ bs.zipIdx.map (fun e => (pa + e.2, e.1)) }))

/-- A store of a rim core to the maintenance window (R462): the register write it makes is the next step of the machine. -/
def State.maintStore (s : State) (a : Nat) (bs : List Byte) : State :=
  if highHalf a bs.length then s.logIgnored (a / 8 * 8)
  else { s with agenda := s.agenda ++ [.registerWrite .rim a (BitVec.ofNat 64 (leNat bs))] }

/-- The writes numbered from `first` on of the wave that issues, to the same bytes: those of lower lanes of one store, which
leave their store buffers before (R130, R231). -/
def State.lowerLanes (s : State) (first pa n : Nat) : List (Nat × Nat) :=
  (s.writes.filter (fun w => decide (first ≤ w.id) && w.uid == s.cur.uid && w.wid == s.cur.wid && w.hits pa n)).map (fun w => (w.id, 1))

/-- A lane's store (R132, R137): a release first; the write begins in the thread's store buffer. The instruction's writes are numbered
from `first` on. -/
def State.storeLane (s : State) (first L va : Nat) (x : Xlat) (rel : Bool) (scope : Nat) (bs : List Byte) : State :=
  if (s.wv.txOf L).isSome then s.txStore L va x.pa bs
  else if x.maint then s.maintStore x.pa bs
  else
    let s1 := s.fixLoads s.cur.uid s.cur.wid L (fun r => r.reads x.pa bs.length)
    let s2 := if rel then s1.releaseLane L scope else s1
    (s2.recall x.pa bs.length).send (s2.view L) 0 s2.bk.ctxn va x.pa bs
      (s2.depsOf (s2.view L).key ++ s2.lowerLanes first x.pa bs.length) false

/-- The store instructions, lanes ascending. `st.raw` to a reserved byte of a Q4 unit has no effect and is logged (R88). -/
def storeOp (h : Hdr) (d base idx : BitVec 6) (order : BitVec 2) (scope : BitVec 3) (form : Nat) (s : State) : State :=
  orderedBy h s (s.ordStore h form base idx) (fun L => s.storeCheck L form (s.ea h base idx L) d idx) fun m s =>
    let first := s.nextWrite
    (lanesOf m).foldl (fun s L =>
      let va := s.ea h base idx L
      let x := s.place (storeKind form) va (storeWidth form)
      if form = 4 ∧ leafFmt x.leaf = 6 ∧ q4Reserved (leafGeo x.leaf) (unitOff va) = true then s.logIgnored 0
      else s.storeLane first L va x (order == 2) scope.toNat (s.storeBytes form d L)) s

/-! ### Returning atomics (R142, R143, R233) -/

/-- The operand words of a lane. -/
def Wave.words (w : Wave) (o : VOp) (L : Nat) : List W32 := o.regs.map (fun r => w.vreg r L)

/-- Words of 32 bits, the first the lowest. -/
def wordsNat : List W32 → Nat
  | [] => 0
  | x :: xs => x.toNat + 2 ^ 32 * wordsNat xs

/-- The operand of an atomic and, for a compare, its second operand. -/
def atomArgs (op : Nat) (ws : List W32) : Nat × Nat :=
  if op = 10 then (wordsNat (ws.take 1), wordsNat (ws.drop 1))
  else if op = 11 then (wordsNat (ws.take 2), wordsNat (ws.drop 2))
  else (wordsNat ws, 0)

/-- An atomic of a core performed at the home: the old value, or none where the data is uncorrectable and nothing is performed (R232). `sent`:
a draining edge group completes it (R444). -/
def State.atomHome (s : State) (die tile op pa : Nat) (ws : List W32) (sent : Bool := false) : State × Option Nat :=
  let n := atomWidth op
  let s1 := (s.recall pa n).dropOwn die tile 4 pa n
  if (if sent then s1.markedRange pa n else s1.badRange pa n) then (s1, none)
  else
    let old := leNat (s1.homeBytes pa n)
    (s1.putHome pa (leBytes (atomNew op old (atomArgs op ws).1 (atomArgs op ws).2) n), some old)

/-- The reply words of an old value. -/
def atomWords (op old : Nat) : List W32 :=
  if atomReply op = 2 then [BitVec.ofNat 32 old, BitVec.ofNat 32 (old / 2 ^ 32)] else [BitVec.ofNat 32 old]

/-- An ordered operation at the home (R51): it waits for the token, until the thread's release is performed, and until no
write to those bytes is in flight and their frame is not locked. -/
def State.homeWait (s : State) (L scope pa width : Nat) : Option Stop :=
  firstStop [s.tokenCheck, inTurn (s.releasedLane L scope), inTurn (!s.writes.any (fun w => w.hits pa width)),
    inTurn (s.lockOf pa).isNone]

/-- An abort with ATOMIC inside a transaction (R148). -/
def State.txAtomic (s : State) (L : Nat) : Option Stop := if (s.wv.txOf L).isSome then some (.abort 6 0) else none

def State.atomCheck (s : State) (L op scope va : Nat) (d idx : BitVec 6) : Option Stop :=
  let D := s.pre.op d (atomSpan op)
  let n := atomWidth op
  firstStop [boundsCheck s.pre [D, s.pre.op idx 1], await s.wv.freeSlot.isSome, s.atomicWait L,
    opCheck s.pre L [D] [s.pre.op idx 1, D], s.txAtomic L, s.memCheck L .atomic va n,
    if s.curLaunch.rcd.det then s.homeWait L scope (s.place .atomic va n).pa n else none]

/-- A returning atomic: its operands are read and its release is made at issue; outside a DET launch it is performed
later, once. -/
def atomOp (h : Hdr) (d base idx : BitVec 6) (scope : BitVec 3) (op : Nat) (s : State) : State :=
  orderedBy h s true (fun L => s.atomCheck L op scope.toNat (s.ea h base idx L) d idx) fun m s =>
    let D := s.pre.op d (atomSpan op)
    let n := atomWidth op
    let req := fun (L : Nat) =>
      let va := s.ea h base idx L
      let q : Req := { lane := L, va := va, pa := (s.place .atomic va n).pa, width := n, aux := op,
                       scope := scope.toNat, opnd := s.pre.words D L }
      q
    let s1 := (lanesOf m).foldl (fun s L => s.releaseLane L scope.toNat) s
    let out := (lanesOf m).foldl (fun (e : State × List Req) L =>
      let q := req L
      if s.curLaunch.rcd.det then
        match (e.1.throughLines q.pa n).atomHome s.bk.die s.bk.tile op q.pa q.opnd with
        | (s2, some old) => ((s.storeLines q.pa (s2.homeBytes q.pa n) s2).acquireHere (BitVec.ofNat 48 (2 ^ L)) scope.toNat, e.2 ++ [{ q with val := some (atomWords op old) }])
        | (s2, none) => (s2, e.2 ++ [{ q with err := true }])
      else (e.1, e.2 ++ [q])) (s1, [])
    out.1.setW (out.1.wv.openSlot .atomic { D with span := atomReply op } m out.2)

/-! ### Reductions (R144 to R146, R234) -/

def State.redCheck (s : State) (L op va : Nat) (d idx : BitVec 6) : Option Stop :=
  let n := atomWidth op
  let pa := (s.place .atomic va n).pa
  firstStop [boundsCheck s.pre [s.pre.op d (atomSpan op), s.pre.op idx 1], s.atomicWait L,
    opCheck s.pre L [] [s.pre.op idx 1, s.pre.op d (atomSpan op)], s.txAtomic L, s.memCheck L .atomic va n,
    if s.curLaunch.rcd.det then s.tokenCheck else none, inTurn (s.depsOf (s.view L).key).isEmpty,
    inTurn (!(if s.curLaunch.rcd.det || !isHbm pa then s.writes.any (fun w => w.hits pa n)
             else s.inFlight (s.view L) pa n || s.rmwInFlight pa n)),
    inTurn (s.lockOf pa).isNone]

/-- A reduction: combined into the U copy of the core's L1, or, for a location outside the module and in a DET launch,
performed at the home. -/
def State.redLane (s : State) (L op pa : Nat) (ws : List W32) : State :=
  let n := atomWidth op
  let s1 := s.fixLoads s.cur.uid s.cur.wid L (fun r => r.reads pa n)
  let u : UPart := ⟨s.bk.die, s.bk.tile, pa, n, op, BitVec.ofNat 64 (wordsNat ws)⟩
  if s.curLaunch.rcd.det || !isHbm pa then (s1.recall pa n).combine u
  else s1.reduceU s.bk.die s.bk.tile op pa n u.val

def redInstr (h : Hdr) (d base idx : BitVec 6) (minor : Nat) (s : State) : State :=
  let op := redOp minor
  orderedBy h s true (fun L => s.redCheck L op (s.ea h base idx L) d idx) fun m s =>
    (lanesOf m).foldl (fun s L =>
      s.redLane L op (s.place .atomic (s.ea h base idx L) (atomWidth op)).pa (s.pre.words (s.pre.op d (atomSpan op)) L)) s

/-! ### The instructions -/

def execLdB (h : Hdr) (d base idx : BitVec 6) (r : BitVec 2) (g : BitVec 3) (s : State) : Out :=
  .next (loadOp h d base idx r g 0 s)
def execLdBn (h : Hdr) (d base idx : BitVec 6) (r : BitVec 2) (g : BitVec 3) (s : State) : Out :=
  .next (loadOp h d base idx r g 1 s)
def execLdH (h : Hdr) (d base idx : BitVec 6) (r : BitVec 2) (g : BitVec 3) (s : State) : Out :=
  .next (loadOp h d base idx r g 2 s)
def execLdHn (h : Hdr) (d base idx : BitVec 6) (r : BitVec 2) (g : BitVec 3) (s : State) : Out :=
  .next (loadOp h d base idx r g 3 s)
def execLdW (h : Hdr) (d base idx : BitVec 6) (r : BitVec 2) (g : BitVec 3) (s : State) : Out :=
  .next (loadOp h d base idx r g 4 s)
def execLdD (h : Hdr) (d base idx : BitVec 6) (r : BitVec 2) (g : BitVec 3) (s : State) : Out :=
  .next (loadOp h d base idx r g 5 s)
def execLdDec (h : Hdr) (d base idx : BitVec 6) (r : BitVec 2) (g : BitVec 3) (s : State) : Out :=
  .next (loadOp h d base idx r g 6 s)
def execLdRaw (h : Hdr) (d base idx : BitVec 6) (r : BitVec 2) (g : BitVec 3) (s : State) : Out :=
  .next (loadOp h d base idx r g 7 s)
def execStB (h : Hdr) (d base idx : BitVec 6) (r : BitVec 2) (g : BitVec 3) (s : State) : Out :=
  .next (storeOp h d base idx r g 0 s)
def execStH (h : Hdr) (d base idx : BitVec 6) (r : BitVec 2) (g : BitVec 3) (s : State) : Out :=
  .next (storeOp h d base idx r g 1 s)
def execStW (h : Hdr) (d base idx : BitVec 6) (r : BitVec 2) (g : BitVec 3) (s : State) : Out :=
  .next (storeOp h d base idx r g 2 s)
def execStD (h : Hdr) (d base idx : BitVec 6) (r : BitVec 2) (g : BitVec 3) (s : State) : Out :=
  .next (storeOp h d base idx r g 3 s)
def execStRaw (h : Hdr) (d base idx : BitVec 6) (r : BitVec 2) (g : BitVec 3) (s : State) : Out :=
  .next (storeOp h d base idx r g 4 s)
def execAtomAdd (h : Hdr) (d base idx : BitVec 6) (g : BitVec 3) (s : State) : Out :=
  .next (atomOp h d base idx g 0 s)
def execAtomAddD (h : Hdr) (d base idx : BitVec 6) (g : BitVec 3) (s : State) : Out :=
  .next (atomOp h d base idx g 1 s)
def execAtomMin (h : Hdr) (d base idx : BitVec 6) (g : BitVec 3) (s : State) : Out :=
  .next (atomOp h d base idx g 2 s)
def execAtomMax (h : Hdr) (d base idx : BitVec 6) (g : BitVec 3) (s : State) : Out :=
  .next (atomOp h d base idx g 3 s)
def execAtomMinn (h : Hdr) (d base idx : BitVec 6) (g : BitVec 3) (s : State) : Out :=
  .next (atomOp h d base idx g 4 s)
def execAtomMaxn (h : Hdr) (d base idx : BitVec 6) (g : BitVec 3) (s : State) : Out :=
  .next (atomOp h d base idx g 5 s)
def execAtomAnd (h : Hdr) (d base idx : BitVec 6) (g : BitVec 3) (s : State) : Out :=
  .next (atomOp h d base idx g 6 s)
def execAtomOr (h : Hdr) (d base idx : BitVec 6) (g : BitVec 3) (s : State) : Out :=
  .next (atomOp h d base idx g 7 s)
def execAtomXor (h : Hdr) (d base idx : BitVec 6) (g : BitVec 3) (s : State) : Out :=
  .next (atomOp h d base idx g 8 s)
def execAtomXchg (h : Hdr) (d base idx : BitVec 6) (g : BitVec 3) (s : State) : Out :=
  .next (atomOp h d base idx g 9 s)
def execAtomCas (h : Hdr) (d base idx : BitVec 6) (g : BitVec 3) (s : State) : Out :=
  .next (atomOp h d base idx g 10 s)
def execAtomCasD (h : Hdr) (d base idx : BitVec 6) (g : BitVec 3) (s : State) : Out :=
  .next (atomOp h d base idx g 11 s)
def execAtomFadd (h : Hdr) (d base idx : BitVec 6) (g : BitVec 3) (s : State) : Out :=
  .next (atomOp h d base idx g 12 s)
def execAtomFaddBf2 (h : Hdr) (d base idx : BitVec 6) (g : BitVec 3) (s : State) : Out :=
  .next (atomOp h d base idx g 13 s)
def execAtomFmin (h : Hdr) (d base idx : BitVec 6) (g : BitVec 3) (s : State) : Out :=
  .next (atomOp h d base idx g 14 s)
def execAtomFmax (h : Hdr) (d base idx : BitVec 6) (g : BitVec 3) (s : State) : Out :=
  .next (atomOp h d base idx g 15 s)
def execRedAdd (h : Hdr) (d base idx : BitVec 6) (_g : BitVec 3) (s : State) : Out :=
  .next (redInstr h d base idx 0 s)
def execRedAddD (h : Hdr) (d base idx : BitVec 6) (_g : BitVec 3) (s : State) : Out :=
  .next (redInstr h d base idx 1 s)
def execRedMin (h : Hdr) (d base idx : BitVec 6) (_g : BitVec 3) (s : State) : Out :=
  .next (redInstr h d base idx 2 s)
def execRedMax (h : Hdr) (d base idx : BitVec 6) (_g : BitVec 3) (s : State) : Out :=
  .next (redInstr h d base idx 3 s)
def execRedMinn (h : Hdr) (d base idx : BitVec 6) (_g : BitVec 3) (s : State) : Out :=
  .next (redInstr h d base idx 4 s)
def execRedMaxn (h : Hdr) (d base idx : BitVec 6) (_g : BitVec 3) (s : State) : Out :=
  .next (redInstr h d base idx 5 s)
def execRedAnd (h : Hdr) (d base idx : BitVec 6) (_g : BitVec 3) (s : State) : Out :=
  .next (redInstr h d base idx 6 s)
def execRedOr (h : Hdr) (d base idx : BitVec 6) (_g : BitVec 3) (s : State) : Out :=
  .next (redInstr h d base idx 7 s)
def execRedXor (h : Hdr) (d base idx : BitVec 6) (_g : BitVec 3) (s : State) : Out :=
  .next (redInstr h d base idx 8 s)
def execRedFadd (h : Hdr) (d base idx : BitVec 6) (_g : BitVec 3) (s : State) : Out :=
  .next (redInstr h d base idx 9 s)
def execRedFaddBf2 (h : Hdr) (d base idx : BitVec 6) (_g : BitVec 3) (s : State) : Out :=
  .next (redInstr h d base idx 10 s)

end Sys2Proof.Machine
end

