-- ==== Sys2Proof/Machine/Plant.lean ====
section
/-! DEFINITION. The plant of the module (22 R465 to R473, R480, R481): rails, the time counter, the clock and its limits, self-test,
the HBM stacks and their scrub. -/

namespace Sys2Proof.Machine

/-! ### Rails (R465) -/

def railReg (r : Nat) : Nat := 0x10000 + 8 * r
def State.railTarget (s : State) (r : Nat) : Nat := s.fld (railReg r) 15 0
def State.railEn (s : State) (r : Nat) : Bool := (s.reg (railReg r)).getLsbD 16
def State.railGood (s : State) (r : Nat) : Bool := (s.reg (railReg r)).getLsbD 31

/-- The range of a rail's TARGET, in mV. -/
def railRange (r : Nat) : Nat × Nat :=
  match r with
  | 0 => (700, 800) | 1 => (500, 650) | 2 => (850, 950) | _ => (1050, 1150)

/-- The least VCORE TARGET for a frequency code (R467); 0 where the clock is stopped. -/
def leastVcore (t : Nat) : Nat := if t = 0 then 0 else if t ≤ 40 then 500 else if t ≤ 48 then 550 else 650

def State.curFreq (s : State) : Nat := s.fld 0x10048 31 24
def State.pendFreq (s : State) : Nat := s.fld 0x10048 23 16

/-- May a rail take a value? -/
def State.railOk (s : State) (r : Nat) (v : W64) : Bool :=
  let t := field v 15 0
  let en := v.getLsbD 16
  let sram := if r = 0 then t else s.railTarget 0
  let core := if r = 1 then t else s.railTarget 1
  let floor := max (leastVcore s.curFreq) (leastVcore s.pendFreq)
  decide ((railRange r).1 ≤ t) && decide (t ≤ (railRange r).2) && decide (core + 100 ≤ sram || core = 0) &&
    !(r != 0 && en && !s.railGood 0) && !(r == 0 && !en && [1, 2, 3].any s.railEn) &&
    !(r == 1 && decide ((if en then t else 0) < floor) && decide ((if en then t else 0) < (if s.railEn 1 then s.railTarget 1 else 0)))

/-- A write of RAILCTL. PGOOD falls where the rail's state changes. -/
def State.railWrite (s : State) (via : Via) (r : Nat) (v : W64) : State :=
  let a := railReg r
  s.ruledWrite via a v (s.railOk r v) fun s =>
    let n := s.written a via v
    s.setReg a (if field n 16 0 = field (s.reg a) 16 0 then n else withField n 31 31 0)

/-- RAIL_WRITE. -/
def execRailWrite (via : Via) (rail : Nat) (value : W64) (s : State) : Out := .next <|
  if s.reaches via && decide (rail < 4) then s.railWrite via rail value else s

/-- Is a voltage within 2 % of a rail's target, while the rail is driven? -/
def State.railNear (s : State) (rail mv : Nat) : Bool :=
  let t := s.railTarget rail
  s.railEn rail && decide (mv * 100 ≤ t * 102) && decide (t * 98 ≤ mv * 100)

/-- RAIL_PGOOD: what the bellows has measured on a rail for 100 µs: MV, and PGOOD where that is the target. -/
def execRailPgood (rail mv : Nat) (s : State) : Out := .next <|
  if rail < 4 then (s.setFld (railReg rail) 47 32 mv).setFld (railReg rail) 31 31 (if s.railNear rail mv then 1 else 0) else s

/-! ### Time (R466) -/

/-- TIME_RUN: setting RUN of TIMECTL. -/
def execTimeRun (via : Via) (value : W64) (s : State) : Out := .next <|
  if s.reaches via && value.getLsbD 0 then s.plainWrite via 0x20000 value else s

/-- A write of TIME: while RUN is 0. -/
def State.timeWrite (s : State) (via : Via) (v : W64) : State := if s.running then s.logIgnored 0x20008 else s.plainWrite via 0x20008 v

/-! ### Frequency (R467, R468) -/

/-- STATUS of FREQSTAT. -/
def State.setFreqStatus (s : State) (st : Nat) : State := s.setFld 0x10048 2 0 st

/-- A refused change: REASON, logged. -/
def State.freqRefused (s : State) (reason : Nat) : State := ((s.setFld 0x10048 15 8 reason).setFreqStatus 3).log 6 reason

/-- The reason for which a change is refused, or 0. -/
def State.freqReason (s : State) (t at_ : Nat) : Nat :=
  if t < 16 ∨ t > 56 then 1
  else if (if s.railEn 1 then s.railTarget 1 else 0) < leastVcore t then 2
  else if s.running ∧ at_ < s.time + 200 then 3
  else if s.pendFreq ≠ 0 then 4
  else 0

/-- A change for a tick, or at once while the time counter does not run. -/
def State.schedule (s : State) (t at_ : Nat) : State :=
  if s.running then { (s.setFld 0x10048 23 16 t).setFreqStatus 1 with freqAt := at_ }
  else ((s.setFld 0x10048 31 24 t).setFld 0x10048 23 16 0).setFreqStatus 2

/-- A write of FREQCTL. -/
def State.freqWrite (s : State) (via : Via) (v : W64) : State :=
  s.ruledWrite via 0x10040 v true fun s =>
    let r := s.freqReason (field v 63 56) (field v 47 0)
    if r ≠ 0 then s.freqRefused r else s.schedule (field v 63 56) (field v 47 0)

/-- FREQ_CHANGE_REQUEST. -/
def execFreqChangeRequest (via : Via) (value : W64) (s : State) : Out := .next <|
  if s.reaches via then s.freqWrite via value else s

/-- A pending change is made, once TIME has reached AT. -/
def State.freqApply (s : State) : State :=
  if s.pendFreq ≠ 0 ∧ s.freqAt ≤ s.time then
    ((s.setFld 0x10048 31 24 s.pendFreq).setFld 0x10048 23 16 0).setFreqStatus 2
  else s

/-- FREQ_CHANGE_APPLY: at TIME = AT. The tick that reaches AT makes the change itself (`State.addTime`). -/
def execFreqChangeApply (s : State) : Out := .next s.freqApply

/-- The limiter's change (R468): it cancels a pending change to a higher frequency. -/
def State.limit (s : State) : State :=
  let t := max 16 (s.curFreq - 4)
  if s.curFreq = 0 then s
  else if s.pendFreq = 0 then s.schedule t (s.time + 200)
  else if t < s.pendFreq then { (s.setFld 0x10048 23 16 t).setFreqStatus 4 with freqAt := s.time + 200 }
  else s

/-- The fuse registers of the dies, FUSE and HOLES, where they differ from a die without failed tiles (R411; assumption 2). -/
def State.fuses (s : State) : Tab W64 :=
  s.maint.filter (fun e => decide (0x10000000 ≤ e.1) && [0x80000, 0x80008, 0x80010, 0x80018].contains (e.1 % 0x100000))

/-- The error log with its two registers (R463). -/
def State.errorLog (s : State) : Tab W64 := s.maint.filter (fun e => decide (0xF00 ≤ e.1) && decide (e.1 < 0x2000))

/-- At 110 °C every rail but VAUX goes at once, and with it every state of the module; the trip is logged (R468, assumption 80). -/
def State.trip (s : State) (die : Nat) : State :=
  let s1 := s.log 4 die
  { State.reset with maint := s1.errorLog ++ s1.fuses, agenda := s.agenda, clk := s.clk, sysLost := true }

/-- LIMITER_CHECK: the power over the last 100 µs, in units of 100 W, and the temperatures of dies, in units of 0.125 °C. -/
def execLimiterCheck (power : Nat) (temps : List (Nat × Nat)) (s : State) : Out := .next <|
  let s1 := temps.foldl (fun s e => s.setFld (0x10100 + 8 * (e.1 % 64)) 11 0 e.2) (s.setFld 0x10050 47 32 power)
  match (List.range 64).find? (fun d => decide (s1.fld (0x10100 + 8 * d) 11 0 ≥ 880)) with
  | some d => s1.trip d
  | none =>
  if s1.fld 0x10050 47 32 > s1.fld 0x10050 15 0 ∨ ((List.range 64).any (fun d => decide (s1.fld (0x10100 + 8 * d) 11 0 ≥ 800))) = true then
    s1.limit
  else s1

/-- THERMAL_TRIP: a die has reached 110 °C. -/
def execThermalTrip (die tj : Nat) (s : State) : Out := .next <| if tj < 880 ∨ die ≥ 64 then s else s.trip die

/-! ### Self-test (R469, R470) -/

/-- A write of BISTCTL. GO is accepted once, with VSRAM and VCORE good, the clock and the time counter running. -/
def State.bistWrite (s : State) (via : Via) (v : W64) : State :=
  let may := s.fld 0x50000 2 0 == 0 && s.railGood 0 && s.railGood 1 && s.curFreq != 0 && s.running
  s.ruledWrite via 0x50000 v (!v.getLsbD 0 || may) (fun s => if v.getLsbD 0 then s.setFld 0x50000 2 0 3 else s)

/-- BIST_GO. -/
def execBistGo (via : Via) (value : W64) (s : State) : Out := .next <|
  if s.reaches via && value.getLsbD 0 then s.bistWrite via value else s

/-- The physical tile of a logical tile (R411). -/
def State.physTile (s : State) (die t : Nat) : Nat :=
  let tx := t % 12
  let ty := t / 12
  let skip := field (s.reg (dieBase die + 0x80000)) (4 * tx + 3) (4 * tx)
  tx + 12 * (if ty < skip then ty else ty + 1)

/-- The results of a die: every physical tile is tested, one without an entry failed. -/
def State.bistDie (s : State) (results : List (Nat × W64)) (d : Nat) : State :=
  let res := fun (p : Nat) => (((results.find? (fun e => e.1 == d * 156 + p)).map (·.2)).getD 0 &&& BitVec.ofNat 64 (bits 14 13 + bits 11 0)) |||
    BitVec.ofNat 64 (2 ^ 15)
  let s1 := (List.range 156).foldl (fun s p => s.setReg (bistReg d p) (res p)) s
  (List.range 144).foldl (fun s t =>
    s.setFld (tileReg d t) 11 0 (if s.tileKind d t = 3 then 0 else field (res (s.physTile d t)) 11 0)) s1

/-- A wave of a block on a core, after the SRAMs of the core went zero: its registers and accumulators. -/
def Wave.zeroStores (w : Wave) : Wave := { w with v := [], acc := [] }

/-- Every SRAM of the array is zero: register caches, accumulators, scratchpads, the copies of L1, L2 and instruction caches, translations
held. The rims' cores are not of the array. -/
def State.zeroArray (s : State) : State :=
  { s with
    blocks := s.blocks.map (fun e => (e.1, if e.2.die = 64 then e.2 else { e.2 with spm := [], waves := e.2.waves.map Wave.zeroStores })),
    stale := s.stale.filter (fun e => e.1 / 2 ^ 48 == 300064 || e.1 / 2 ^ 48 % 100000 / 144 == 64),
    ucopies := s.ucopies.filter (fun u => u.die == 64), rcache := s.rcache.filter (fun x => decide (x.quarter / 576 = 64)),
    icache := s.icache.filter (fun c => c.die == 64), tlb := s.tlb.filter (fun e => e.die == 64) }

/-- BIST_COMPLETE: results by 156 · die + physical tile; the SRAMs of the array are left zero. -/
def execBistComplete (results : List (Nat × W64)) (s : State) : Out := .next <|
  if s.fld 0x50000 1 1 = 0 then s
  else ((List.range 64).foldl (fun s d => s.bistDie results d) s.zeroArray).setFld 0x50000 2 1 2

/-! ### HBM stacks (R471, R472) -/

/-- May an operation be written: in order, not while one runs, not after ENABLE; OP 1 again after one failure? -/
def State.hbmMay (s : State) (st op : Nat) : Bool :=
  let state := s.fld (hbmReg st 8) 1 0
  let last := s.fld (hbmReg st 8) 15 8
  state != 1 && last != 8 || (state == 3 && op == 1)

/-- Is an operation the next in order? -/
def State.hbmNext (s : State) (st op : Nat) : Bool :=
  let state := s.fld (hbmReg st 8) 1 0
  let last := s.fld (hbmReg st 8) 15 8
  if state = 0 then op == 1
  else if state = 3 then op == 1 && decide (s.hbmFails.get st 0 < 2)
  else state == 2 && op == last + 1 && decide (op ≤ 8)

/-- A write of HCTL. -/
def State.hctlWrite (s : State) (via : Via) (st : Nat) (v : W64) : State :=
  let op := field v 7 4
  s.ruledWrite via (hbmReg st 0) v (s.hbmMay st op && s.hbmNext st op) fun s =>
    (s.setFld (hbmReg st 8) 15 8 op).setFld (hbmReg st 8) 1 0 1

/-- A write of HCFG: before OP 1, and again after a failure. -/
def State.hcfgWrite (s : State) (via : Via) (st : Nat) (v : W64) : State :=
  let state := s.fld (hbmReg st 8) 1 0
  s.ruledWrite via (hbmReg st 0x10) v (state == 0 || state == 3) (fun s => s.setReg (hbmReg st 0x10) v)

/-- A write of HCTL that names an operation. -/
def State.hbmOp (s : State) (via : Via) (st op : Nat) (v : W64) : State :=
  if s.reaches via && decide (st < 32) && field v 7 4 == op then s.hctlWrite via st v else s

/-- HBM_RESET. -/
def execHbmReset (via : Via) (stack : Nat) (value : W64) (s : State) : Out := .next (s.hbmOp via stack 1 value)
/-- HBM_ZQCAL. -/
def execHbmZqcal (via : Via) (stack : Nat) (value : W64) (s : State) : Out := .next (s.hbmOp via stack 2 value)
/-- HBM_CATRAIN. -/
def execHbmCatrain (via : Via) (stack : Nat) (value : W64) (s : State) : Out := .next (s.hbmOp via stack 3 value)
/-- HBM_RDTRAIN. -/
def execHbmRdtrain (via : Via) (stack : Nat) (value : W64) (s : State) : Out := .next (s.hbmOp via stack 4 value)
/-- HBM_WRTRAIN. -/
def execHbmWrtrain (via : Via) (stack : Nat) (value : W64) (s : State) : Out := .next (s.hbmOp via stack 5 value)
/-- HBM_REPAIR. -/
def execHbmRepair (via : Via) (stack : Nat) (value : W64) (s : State) : Out := .next (s.hbmOp via stack 6 value)
/-- HBM_MEMTEST. -/
def execHbmMemtest (via : Via) (stack : Nat) (value : W64) (s : State) : Out := .next (s.hbmOp via stack 7 value)
/-- HBM_ENABLE. -/
def execHbmEnable (via : Via) (stack : Nat) (value : W64) (s : State) : Out := .next (s.hbmOp via stack 8 value)

/-- MEMTEST ends by zeroing every line of a stack. -/
def State.zeroStack (s : State) (st : Nat) : State :=
  let mine := fun (a : Nat) => a / 2 ^ 27 / 384 == st
  { s with mem := s.mem.filter (fun c => !mine c.1), ptag := s.ptag.filter (fun e => !mine e.1),
           marks := s.marks.filter (fun g => !mine (8 * g)) }

/-- HBM_OP_COMPLETE: a stack that fails twice stays disabled, which is logged. -/
def execHbmOpComplete (stack : Nat) (pass : Bool) (repaired : Nat) (s : State) : Out := .next <|
  if stack ≥ 32 ∨ s.fld (hbmReg stack 8) 1 0 ≠ 1 then s
  else
    let op := s.fld (hbmReg stack 8) 15 8
    let s1 := s.setFld (hbmReg stack 8) 1 0 (if pass then 2 else 3)
    let s2 := if pass && op == 6 then s1.setFld (hbmReg stack 8) 31 16 repaired else s1
    let s3 := if pass && op == 7 then s2.zeroStack stack else s2
    let n := s.hbmFails.get stack 0 + 1
    if pass then s3
    else if n ≥ 2 then { s3 with hbmFails := s3.hbmFails.set stack n 0 }.log 7 stack
    else { s3 with hbmFails := s3.hbmFails.set stack n 0 }

/-! ### Scrubs (R480, R481) -/

/-- An uncorrectable word of memory leaves a mark at its home, and is reported. -/
def State.markHome (s : State) (pa store : Nat) : State :=
  if !isHbm pa || !s.stackOn (pa / 2 ^ 27 / 384) || s.marks.contains (pa / 8) then s
  else ({ s with marks := s.marks ++ [pa / 8] }).mcheck store (pa / 2 ^ 27) (s.ownerOf pa)

/-- Whom a machine check in a core's store is reported to, beside its tile: the partition of the block there. -/
def State.blockOwner (s : State) (b : Block) : Option (Nat × Nat) := (s.dieOf b.pid 0).map (fun d => (b.pid, d))

/-- An uncorrectable word of a block's scratchpad is marked in place. -/
def State.markSpm (s : State) (uid a : Nat) : State :=
  let b := s.block uid
  if !b.standing || b.spmBad a 1 || decide (b.spmb ≤ a) then s
  else
    (s.setBlock uid { b with spmMarks := b.spmMarks ++ (List.range 8).map (a / 8 * 8 + ·) }).mcheck 2 b.tile (s.blockOwner b)

/-- An uncorrectable word of a vector line in the register cache is marked in place: two lanes of a register. -/
def State.markReg (s : State) (uid wid reg L : Nat) : State :=
  let b := s.block uid
  let w := s.wave uid wid
  let m := maskOf (fun K => K / 2 == L / 2) &&& ~~~ w.empty.get reg 0
  if !s.lineCached uid wid reg || m == 0 then s
  else (s.setWave uid wid (w.markLine reg m (b.partVa (wid + 1) (w.v0At + 192 * reg)))).mcheck 1 b.tile (s.blockOwner b)

/-- PATROL_SCRUB of an 8-byte word: a correctable error is corrected; an uncorrectable one leaves a mark, and is reported. `pa` is a physical
address for HBM (store 4) and the L2 (3); for a scratchpad (2) block · 2^32 + byte of the allotment, for a register cache (1) block · 2^32 +
wave · 2^24 + register · 64 + lane (assumption 81). -/
def execPatrolScrub (pa store : Nat) (bad : Bool) (s : State) : Out := .next <|
  if !bad then s
  else
    match store with
    | 1 => s.markReg (pa / 2 ^ 32) (pa / 2 ^ 24 % 256) (pa / 64 % 2 ^ 18) (pa % 64)
    | 2 => s.markSpm (pa / 2 ^ 32) (pa % 2 ^ 32)
    | 3 => s.markHome pa 3
    | 4 => s.markHome pa 4
    | _ => s

end Sys2Proof.Machine
end

