-- ==== Sys2Proof/Machine/Secure.lean ====
section
/-! DEFINITION. Identity, image and keys (21 R449 to R457, 22 R474 to R479): the security unit, the XIP descriptor, the rim cores, key
ids, the feature vector, module reset. -/

namespace Sys2Proof.Machine

/-! ### The XIP descriptor (R474) -/

def State.xipLock (s : State) : Bool := (s.reg 0x300A8).getLsbD 0
def State.xipBase (s : State) : Nat := (s.reg 0x30000).toNat
def State.xipLines (s : State) : Nat := (s.reg 0x30008).toNat

/-- Bytes of consecutive registers. -/
def State.regBytes (s : State) (a n : Nat) : List Byte := (List.range n).flatMap (fun i => leBytes (s.reg (a + 8 * i)).toNat 8)

def State.xipRoot (s : State) : List Byte := s.regBytes 0x30010 6
def State.xipSig (s : State) : List Byte := s.regBytes 0x30040 12
def State.xipKey (s : State) : List Byte := (s.regBytes 0x30100 13).take 97

/-- A write of the descriptor: none while LOCK is 1. -/
def State.xipWrite (s : State) (via : Via) (a : Nat) (v : W64) : State :=
  if s.xipLock then s.logIgnored a else s.plainWrite via a v

/-- XIP_LOCK. -/
def execXipLock (via : Via) (value : W64) (s : State) : Out := .next <|
  if s.reaches via && value.getLsbD 0 then s.xipWrite via 0x300A8 value else s

/-! ### The image (R475, R479) -/

/-- The node lines above `n` lines, level by level. -/
def levelsAbove : Nat → Nat → List Nat
  | 0, _ => []
  | k + 1, n => if n ≤ 1 then [] else (n + 3) / 4 :: levelsAbove k ((n + 3) / 4)

/-- The lines of each level of an image of `l` code lines. -/
def imageLevels (l : Nat) : List Nat := l :: levelsAbove 20 l

/-- The number of all lines. -/
def imageLines (l : Nat) : Nat := (imageLevels l).foldl (· + ·) 0

/-- The first line of a level. -/
def levelStart (l k : Nat) : Nat := ((imageLevels l).take k).foldl (· + ·) 0

/-- A line of the image, read at `sys` scope; none where the read fails. -/
def State.imageLine (s : State) (n : Nat) : Option (List Byte) :=
  let a := s.xipBase + 192 * n
  if s.badRange a 192 then none else some (s.homeBytes a 192)

/-- What a line hashes to must be: XIPROOT for the top line, else the hash that its parent holds. A parent in the verified store is
trusted; any other is checked in turn, and then kept. -/
def State.lineOk (s : State) : Nat → Nat → Nat → List Byte → Option State
  | 0, _, _, _ => none
  | fuel + 1, k, i, bytes =>
    let l := s.xipLines
    if (imageLevels l).length ≤ k + 1 then (if sha384 bytes = s.xipRoot then some s else none)
    else
      let p := levelStart l (k + 1) + i / 4
      let want := fun (node : List Byte) => (node.drop (48 * (i % 4))).take 48
      match s.vstore.find? (fun (e : Nat × List Byte) => e.1 == p) with
      | some e => if sha384 bytes = want e.2 then some s else none
      | none =>
        match s.imageLine p with
        | none => none
        | some node =>
          match s.lineOk fuel (k + 1) (i / 4) node with
          | none => none
          | some t =>
            if sha384 bytes = want node then some { t with vstore := ((p, node) :: t.vstore).take 128 } else none

/-- A line is checked before its use: the state with what was verified, or none. -/
def State.verifyLine (s : State) (n : Nat) : Option State :=
  match s.imageLine n with
  | none => none
  | some bytes => s.lineOk 22 0 n bytes

/-- A line fails its check: every rim core stops, HALTED becomes 1, the line number is logged. -/
def State.xipFail (s : State) (n : Nat) : State :=
  let stop := fun (b : Block) =>
    if b.die = 64 ∧ b.state = .running then
      { b with state := .halted, stopping := .no, broadcast := false,
               waves := b.waves.map (fun w => if w.ended then w else { w with stopped := true, skidding := false }) }
    else b
  let t : State := { s with blocks := s.blocks.map (fun e => (e.1, stop e.2)) }
  (t.setFld 0x300A8 2 2 1).log 3 n

/-! ### The security unit (R449, R476) -/

/-- SCMD: STATE becomes 1 with an operation and an index under way. -/
def State.scmdWrite (s : State) (via : Via) (v : W64) : State :=
  let op := field v 3 0
  s.ruledWrite via 0x40000 v (s.fld 0x40008 1 0 != 1 && (op == 1 || op == 2)) fun s =>
    { s.setFld 0x40008 1 0 1 with secOp := op + field v 15 8 * 16 }

/-- IDCHECK. -/
def execIdcheck (via : Via) (value : W64) (s : State) : Out := .next <|
  if s.reaches via && field value 3 0 == 1 then s.scmdWrite via value else s

/-- VERIFYXIP. -/
def execVerifyxip (via : Via) (value : W64) (s : State) : Out := .next <|
  if s.reaches via && field value 3 0 == 2 then s.scmdWrite via value else s

/-- The package certificate (R448): its subject holds PART, STEPL, STEPN and the serial number, its extension lists the keys. -/
def State.packageCertificate (s : State) : List Byte :=
  Config.certDer (s.fld 0 31 16) (s.fld 0 15 12) (s.fld 0 11 8) Config.certSerial Config.certKeys

/-- The contents of certificate slot 0: the package certificate and its chain to Smirek's root. -/
def State.slotZero (s : State) : List Byte := s.packageCertificate ++ Config.certChain

/-- Does the package certificate list 68 public keys of 97 bytes? -/
def certListsAll : Bool := Config.certKeys.length == 68 && Config.certKeys.all (fun k => k.length == 97)

/-- The reason for which a segment fails its check, or 0 (R449). -/
def State.idReason (s : State) (index : Nat) (nonce : List Byte) (answer : Option (List Byte)) : Nat :=
  if index > 67 then 10
  else
    match answer with
    | none => 1
    | some sig =>
      let digest := sha384 (nonce ++ [BitVec.ofNat 8 index] ++ leBytes (s.reg 0).toNat 4)
      if !Config.chainVerifies s.slotZero || !certListsAll then 3
      else if !ecdsaVerifies sig (Config.certKeys.getD index []) digest then 2
      else 0

/-- The reason for which the image fails its check, or 0 (R476). -/
def State.xipReason (s : State) : Nat :=
  let l := s.xipLines
  let e := (s.reg 0x300A0).toNat
  let top := s.xipBase + 192 * imageLines l
  let hash := sha384 s.xipKey
  let fuse := fun (a : Nat) => (s.regBytes a 6)
  let burned := fun (a : Nat) => fuse a != List.replicate 48 0 && fuse a == hash
  if !s.xipLock then 4
  else if s.fld 0x100 1 0 ≠ 1 then 5
  else if l = 0 || s.xipBase % 4096 != 0 || !isHost s.xipBase || !isHost (top - 1) || e % 12 != 0 || decide (e ≥ 192 * l) then 11
  else if !(burned 0x40040 || burned 0x40070) || !(readKey s.xipKey).isSome then 6
  else if !ecdsaVerifies s.xipSig s.xipKey (sha384 (s.xipRoot ++ leBytes l 8 ++ leBytes e 8)) then 7
  else
    match s.imageLine (imageLines l - 1) with
    | some bytes => if sha384 bytes = s.xipRoot then 0 else 8
    | none => 9

/-- An operation of the security unit fails: STATE, REASON, the log. -/
def State.secFail (s : State) (index reason : Nat) : State :=
  ((s.setFld 0x40008 1 0 3).setFld 0x40008 15 8 reason).log 2 (index * 2 ^ 16 + reason * 2 ^ 24)

/-- The end of IDCHECK (R450, R476). -/
def State.idDone (s : State) (index reason : Nat) : State :=
  if reason ≠ 0 then
    let s1 := if s.fld 0x100 1 0 = 2 then s else (s.setFld 0x100 15 8 index).setFld 0x100 1 0 2
    s1.secFail index reason
  else
    let s1 := { s.setFld 0x40008 1 0 2 with idPassed := (s.idPassed ++ [index]).eraseDups }
    if index = 67 ∧ s.fld 0x100 1 0 ≠ 2 ∧ (List.range 67).all (fun i => s1.idPassed.contains i) = true then s1.setFld 0x100 1 0 1 else s1

/-- The end of VERIFYXIP. -/
def State.xipDone (s : State) (reason : Nat) : State :=
  if reason ≠ 0 then s.secFail 0xFF reason
  else
    ((s.setFld 0x40008 1 0 2).setFld 0x300A8 1 1 1).setReg 0x300B0 (BitVec.ofNat 64 (s.xipBase + (s.reg 0x300A0).toNat))

/-- SECURITY_OP_COMPLETE: the operation under way ends. The nonce of 48 bytes is the random generator's. `answer` says whether one came within
1 ms; what it holds is the segment's own signature. -/
def execSecurityOpComplete (nonce : List Byte) (answer : Option (List Byte)) (s : State) : Out := .next <|
  let op := s.secOp % 16
  let index := s.secOp / 16
  if s.fld 0x40008 1 0 ≠ 1 ∨ (op = 1 ∧ nonce.length ≠ 48) then s
  else
    let s1 := { s with secOp := 0 }
    if op = 1 then s1.idDone index (s1.idReason index nonce (answer.map (fun _ => identityAnswer index (s.reg 0).toNat nonce))) else s1.xipDone s1.xipReason

/-! ### Rim cores (R477) -/

/-- The launch of a rim core: one block of one wave. -/
def rimLaunch (id core entry : Nat) : Launch :=
  { uid := id, rcd := { entry := entry, args := 0x00F0000000000000, grid := 1, waves := 1, vregs := 48, prio := 0 }, die := 64,
    pid := 256, ctxn := 4096, level := .m, kind := .rim core, s2 := 1, nextBid := 1 }

/-- The block of a rim core. -/
def rimBlock (l : Launch) (id core now : Nat) : Block :=
  { uid := id, launch := l.uid, ctxn := 4096, pid := 256, level := .m, kind := .rim core, die := 64, tile := core,
    waves := [l.wave 0 0 (some 0) now] }

/-- Is a rim core running? -/
def State.rimRuns (s : State) (core : Nat) : Bool :=
  s.uids.any (fun u => (s.block u).die == 64 && (s.block u).tile == core && (s.block u).state == .running)

/-- A rim core starts; what its last block left goes. -/
def State.rimStart (s : State) (core entry : Nat) : State :=
  let old := s.uids.filter (fun u => (s.block u).die == 64 && (s.block u).tile == core)
  let s1 := old.foldl State.removeBlock { s with launches := s.launches.filter (fun e => e.2.kind != .rim core) }
  let l := rimLaunch s1.nextUid core entry
  let s2 := ({ s1 with nextUid := s1.nextUid + 2 }).setLaunch l.uid l
  s2.setBlock (l.uid + 1) (rimBlock l (l.uid + 1) core s2.clk)

/-- LOADGO: accepted once, with RUN = 1, CUR ≠ 0 and LOCK = 1. -/
def State.loadgoWrite (s : State) (via : Via) (v : W64) : State :=
  if writeOk 0x40020 v && !v.getLsbD 0 then s
  else
    s.ruledWrite via 0x40020 v (!(s.reg 0x40020).getLsbD 0 && s.running && s.curFreq != 0 && s.xipLock) fun s =>
      ((s.setReg 0x40020 1).setFld 0x40028 0 0 1).rimStart 0 0x00F0000000060000

def execLoadgo (via : Via) (value : W64) (s : State) : Out := .next <| if s.reaches via then s.loadgoWrite via value else s

/-- One bit of RIMRUN. -/
def State.rimrunBit (s : State) (c : Nat) : State :=
  if s.verified && !s.rimRuns c then (s.setFld 0x40028 c c 1).rimStart c (s.reg 0x300B0).toNat else s.logIgnored 0x40028

/-- RIMRUN: each bit on its own. -/
def State.rimrunWrite (s : State) (via : Via) (v : W64) : State :=
  s.ruledWrite via 0x40028 v true fun s =>
    ((List.range 8).filter (fun c => c != 0 && v.getLsbD c)).foldl State.rimrunBit s

def execRimrun (via : Via) (value : W64) (s : State) : Out := .next <| if s.reaches via then s.rimrunWrite via value else s

/-! ### Keys (R455, R457) -/

/-- STATUS of KEYCTL, beside the PID and KEYID written. -/
def State.keyStatus (s : State) (v : W64) (st : Nat) : State :=
  s.setReg 0x100000 (BitVec.ofNat 64 (field v 11 0 + field v 27 20 * 2 ^ 20 + st * 2 ^ 28))

/-- A write of KEYCTL. -/
def State.keyctlWrite (s : State) (via : Via) (v : W64) : State :=
  let id := field v 11 0
  let pid := field v 27 20
  let held := (s.keys.get id none).map KeyRec.pid
  s.ruledWrite via 0x100000 v true fun s =>
    match field v 31 30 with
    | 1 =>
      if id = 0 ∨ held.isSome then s.keyStatus v 2
      else { s.keyStatus v 0 with keys := s.keys.set id (some ⟨pid, s.keyGen⟩) none, keyGen := s.keyGen + 1 }
    | 2 =>
      if held ≠ some pid ∨ ¬(s.qstate pid = 0 ∨ s.resetting.contains pid = true) then s.keyStatus v 2
      else { s.keyStatus v 0 with keys := s.keys.erase id }
    | _ => s.keyStatus v (s.fld 0x100000 29 28)

/-- KEY_CREATE. -/
def execKeyCreate (via : Via) (value : W64) (s : State) : Out := .next <|
  if s.reaches via && field value 31 30 == 1 then s.keyctlWrite via value else s

/-- KEY_DESTROY. -/
def execKeyDestroy (via : Via) (value : W64) (s : State) : Out := .next <|
  if s.reaches via && field value 31 30 == 2 then s.keyctlWrite via value else s

/-! ### Features (R446) -/

/-- A write of a word of FEATACC: a subset of FEATOFF; the first accepted write of word 0 is the last. -/
def State.feataccSet (s : State) (via : Via) (word : Nat) (v : W64) : State :=
  s.ruledWrite via (0x210 + 8 * word) v (!s.featWritten && (v &&& ~~~ s.reg (0x200 + 8 * word)) == 0) fun s =>
    { s.setReg (0x210 + 8 * word) v with featWritten := s.featWritten || word == 0 }

/-- FEATACC_WRITE. -/
def execFeataccWrite (via : Via) (word : Nat) (value : W64) (s : State) : Out := .next <|
  if s.reaches via && decide (word < 2) then s.feataccSet via word value else s

/-! ### Module reset (R439, R458, R464) -/

/-- The tiles that a HOLES register names as holes. -/
def holeTiles (e : Nat × W64) : List Nat :=
  let o := e.1 % 0x100000
  if o = 0x80000 then [] else ((List.range 64).filter (fun i => e.2.getLsbD i)).map (64 * ((o - 0x80008) / 8) + ·)

/-- Everything returns to its reset state; FUSE and HOLES never change, and TILEMAP follows them (R411, R412). The steps that the agenda still
names are the environment's. -/
def State.moduleReset (s : State) : State :=
  s.fuses.foldl (fun t e => (holeTiles e).foldl (fun t i => t.setFld (tileReg (e.1 / 0x100000 % 0x100) i) 59 56 3) t)
    { State.reset with agenda := s.agenda, maint := s.fuses }

/-- MODULE_RESET. -/
def execModuleReset (s : State) : Out := .next s.moduleReset
/-- POWER_ON: power arrives, and the module resets as a module reset does. -/
def execPowerOn (s : State) : Out := .next s.moduleReset

end Sys2Proof.Machine
end

