-- ==== Sys2Proof/Machine/Spdm.lean ====
section
/-! DEFINITION. The SPDM responder of each LD (21 R451 to R454). The codes and the layout of messages are those of SPDM 1.2,
which R451 names (assumption 23). -/

namespace Sys2Proof.Machine

/-- Byte `i` of a message. -/
def msgByte (m : List Byte) (i : Nat) : Nat := (m.getD i 0).toNat

/-- A little-endian pair of bytes of a message. -/
def msgHalf (m : List Byte) (i : Nat) : Nat := leNat ((m.drop i).take 2)

/-- A message: version 1.2, code, two parameters, payload. -/
def spdmMsg (code p1 p2 : Nat) (payload : List Byte) : List Byte :=
  [0x12, BitVec.ofNat 8 code, BitVec.ofNat 8 p1, BitVec.ofNat 8 p2] ++ payload

/-- An ERROR response. -/
def spdmError (code : Nat) (ext : List Byte) : List Byte := spdmMsg 0x7F code 0 ext

def errInvalid : List Byte := spdmError 1 []
def errBusySlot : List Byte := spdmError 3 [1]
def errUnexpected : List Byte := spdmError 4 []
def errUnsupported : List Byte := spdmError 7 []

/-- Does the responder of an LD answer: the chanter runs, and the LD's host reaches it? -/
def State.spdmOn (s : State) (ld : Nat) : Bool :=
  decide (ld < 16) && !s.chanterHalted && s.verified && (s.reg (ldReg ld 0)).getLsbD 31

/-- The stage that an LD's session has reached: 1 version, 2 capabilities, 3 algorithms. -/
def State.spdmStage (s : State) (ld : Nat) : Nat := s.spdmVersion.get ld 0

/-- A request that is answered at once, from stage `need` on. -/
def State.spdmAnswer (s : State) (ld stage : Nat) (f : State → State × List Byte) : State :=
  if !s.spdmOn ld then s
  else if s.spdmStage ld < stage then { s with reply := errUnexpected }
  else
    let r := f s
    { r.1 with reply := r.2 }

/-- GET_VERSION: begins a session afresh. -/
def execGetVersion (ld : Nat) (msg : List Byte) (s : State) : Out := .next <|
  s.spdmAnswer ld 0 fun s =>
    if msg.length < 4 then (s, errInvalid)
    else
      ({ s with certParts := if ld = 0 then [] else s.certParts, spdmVersion := s.spdmVersion.set ld 1 0, spdmReqs := s.spdmReqs.filter (fun r => !(r.ld == ld && r.multi)) },
        spdmMsg 0x04 0 0 [0, 1, 0, 0x12])

/-- GET_CAPABILITIES: CTExponent is 20. -/
def execGetCapabilities (ld : Nat) (msg : List Byte) (s : State) : Out := .next <|
  s.spdmAnswer ld 1 fun s =>
    if msg.length < 4 then (s, errInvalid)
    else ({ s with spdmVersion := s.spdmVersion.set ld (max 2 (s.spdmStage ld)) 0 }, spdmMsg 0x61 0 0 ([0, 20, 0, 0] ++ Config.spdmFlags))

/-- Does a NEGOTIATE_ALGORITHMS request accept the one pair offered: SHA-384 among its base hashes, the curve among its extended asymmetric
algorithms (the layout is the standard's, assumption 23)? -/
def spdmAccepts (msg : List Byte) : Bool :=
  decide (32 ≤ msg.length) && (msgByte msg 12 / 2 % 2 == 1) &&
    (List.range (msgByte msg 28)).any (fun i => (msg.drop (32 + 4 * i)).take 4 == Config.spdmCurve)

/-- The payload of ALGORITHMS: its length of 40 bytes, DMTF measurements by SHA-384, no base asymmetric algorithm, SHA-384, one extended
asymmetric algorithm. -/
def spdmAlgorithms : List Byte :=
  leBytes 40 2 ++ [1, 0] ++ leBytes 4 4 ++ leBytes 0 4 ++ leBytes 2 4 ++ leBytes 0 12 ++ [1, 0, 0, 0] ++ Config.spdmCurve

/-- NEGOTIATE_ALGORITHMS: fails for a requester that does not accept the one pair. -/
def execNegotiateAlgorithms (ld : Nat) (msg : List Byte) (s : State) : Out := .next <|
  s.spdmAnswer ld 2 fun s =>
    if spdmAccepts msg then
      ({ s with spdmVersion := s.spdmVersion.set ld 3 0 }, spdmMsg 0x63 0 0 spdmAlgorithms)
    else (s, errInvalid)

/-! ### Certificate slots (R454) -/

/-- The contents of a slot: slot 0 is the package certificate with its chain (R448). -/
def State.certSlot (s : State) (n : Nat) : List Byte := if n = 0 then s.slotZero else s.certs.get n []

/-- The slots that hold a chain. -/
def State.slotsHeld (s : State) : List Nat := (List.range 8).filter (fun n => n == 0 || !(s.certs.get n []).isEmpty)

/-- GET_DIGESTS. -/
def execGetDigests (ld : Nat) (msg : List Byte) (s : State) : Out := .next <|
  s.spdmAnswer ld 3 fun s =>
    if msg.length < 4 then (s, errInvalid)
    else
      (s, spdmMsg 0x01 0 ((s.slotsHeld.foldl (fun n i => n + 2 ^ i) 0)) (s.slotsHeld.flatMap (fun n => sha384 (s.certSlot n))))

/-- GET_CERTIFICATE: a portion; the transfer is complete with the slot's last byte. -/
def execGetCertificate (ld : Nat) (msg : List Byte) (s : State) : Out := .next <|
  s.spdmAnswer ld 3 fun s =>
    let n := msgByte msg 2 % 16
    let all := s.certSlot n
    let off := msgHalf msg 4
    let part := (all.drop off).take (min (msgHalf msg 6) 0xFFFF)
    let rest := all.length - off - part.length
    if msg.length < 8 ∨ s.slotsHeld.contains n = false ∨ off ≥ all.length then (s, errInvalid)
    else
      let other := s.spdmReqs.filter (fun r => !(r.ld == ld && r.multi && r.slot == n))
      ({ s with spdmReqs := if rest = 0 then other else other ++ [{ ld := ld, slot := n, multi := true }] },
        spdmMsg 0x02 n 0 (leBytes part.length 2 ++ leBytes (min rest 0xFFFF) 2 ++ part))

/-- Does something outstanding name a slot? -/
def State.certBusy (s : State) (n : Nat) : Bool :=
  s.spdmReqs.any (fun r => r.slot == n && (r.multi || decide (s.time < r.until_)))

/-- Does a part of a SET_CERTIFICATE say that more parts follow (the model's coding of a transfer in parts, assumption 85)? -/
def moreParts (msg : List Byte) : Bool := msgByte msg 3 % 2 == 1

/-- SET_CERTIFICATE: from LD 0, slots 1 to 7, in parts; replaced in one step when the last part has arrived and the chain verifies. -/
def execSetCertificate (ld : Nat) (msg : List Byte) (s : State) : Out := .next <|
  s.spdmAnswer ld 3 fun s =>
    let n := msgByte msg 2 % 16
    let chain := s.certParts.get n [] ++ msg.drop 4
    let ended := { s with certParts := s.certParts.erase n }
    if n = 0 ∨ ld ≠ 0 then (s, errUnsupported)
    else if n > 7 ∨ msg.length < 4 then (s, errInvalid)
    else if s.certBusy n then (s, errBusySlot)
    else if chain.length > 16384 then (ended, errInvalid)
    else if moreParts msg then ({ s with certParts := s.certParts.set n chain [] }, spdmMsg 0x6E n 0 [])
    else if Config.chainVerifies chain = false then (ended, errInvalid)
    else ({ ended with certs := s.certs.set n chain [] }, spdmMsg 0x6E n 0 [])

/-! ### Signed responses (R451, R452) -/

/-- A response that is signed with the north rim's key: formed now, from the slot as it stands, and sent later. -/
def State.spdmSign (s : State) (ld slot : Nat) (req body : List Byte) : State :=
  let signed := body ++ identitySign 64 (req ++ body)
  let due := s.clk + Config.spdmDelay ld
  let r : SpdmReq := { ld := ld, slot := slot, multi := false, resp := signed, sendAt := due, until_ := s.time + 2 ^ 20 * 100 }
  { s with spdmReqs := s.spdmReqs ++ [r] }

/-- A measurement, or none for an index that has none (R452). -/
def State.measurement (s : State) (pid : Option Nat) (i : Nat) : Option (List Byte) :=
  match i with
  | 1 => some (sha384 ((List.range 65536).map romByte))
  | 2 => some s.xipRoot
  | 3 => some (match pid with
    | none => []
    | some p => sha384 (s.reportNow p))
  | 4 => some (s.regBytes 0x210 2)
  | 0xFD => some (sha384 s.packageCertificate)
  | _ => none

/-- A measurement block: index, the DMTF specification, its size, a digest or raw bytes (FEATACC). -/
def measBlock (i : Nat) (v : List Byte) : List Byte :=
  [BitVec.ofNat 8 i, 1] ++ leBytes (v.length + 3) 2 ++ [if i = 4 then 0x84 else 4] ++ leBytes v.length 2 ++ v

/-- The measurement blocks of an operation: 0 asks for their number, 0xFF for all, another value for one. -/
def State.measBlocks (s : State) (pid : Option Nat) (op : Nat) : Option (Nat × List Byte) :=
  let all := [1, 2, 3, 4, 0xFD]
  let blocks := fun (is : List Nat) => is.flatMap (fun i => measBlock i ((s.measurement pid i).getD []))
  if op = 0 then some (0, [])
  else if op = 0xFF then some (5, blocks all)
  else if all.contains op then some (1, blocks [op])
  else none

/-- CHALLENGE. -/
def execChallenge (ld : Nat) (msg : List Byte) (s : State) : Out := .next <|
  if !s.spdmOn ld then s
  else if s.spdmStage ld < 3 then { s with reply := errUnexpected }
  else
    let n := msgByte msg 2 % 16
    let summary := if msgByte msg 3 = 0 then []
      else sha384 (((s.measBlocks none 0xFF).map (·.2)).getD [])
    if msg.length < 36 ∨ s.slotsHeld.contains n = false then { s with reply := errInvalid }
    else
      s.spdmSign ld n msg (spdmMsg 0x03 n (2 ^ n) (sha384 (s.certSlot n) ++ Config.spdmNonce ld s.clk ++ summary ++ [0, 0]))

/-- The partition of the VF that a request names. -/
def State.vfNamed (s : State) (ld : Nat) (vf : Option Nat) : Option Nat := vf.bind (fun v => s.vfPid ld (v % 16))

/-- GET_MEASUREMENTS: signed where the request asks for a signature. -/
def execGetMeasurements (ld : Nat) (vf : Option Nat) (msg : List Byte) (s : State) : Out := .next <|
  if !s.spdmOn ld then s
  else if s.spdmStage ld < 3 then { s with reply := errUnexpected }
  else
    let signed := msgByte msg 2 % 2 == 1
    let n := msgByte msg 36 % 16
    match s.measBlocks (s.vfNamed ld vf) (msgByte msg 3) with
    | none => { s with reply := errInvalid }
    | some (count, blocks) =>
      let body := spdmMsg 0x60 (if msgByte msg 3 = 0 then 5 else 0) (if signed then n else 0)
        ([BitVec.ofNat 8 count] ++ leBytes blocks.length 3 ++ blocks ++ Config.spdmNonce ld s.clk ++ [0, 0])
      if msg.length < 4 ∨ (signed = true ∧ (msg.length < 37 ∨ s.slotsHeld.contains n = false)) then { s with reply := errInvalid }
      else if signed then s.spdmSign ld n msg body else { s with reply := body }

/-- The first signed response that is due is sent; one whose timeout has passed lapses. -/
def State.spdmSend (s : State) : State :=
  match s.spdmReqs.find? (fun r => !r.multi && decide (r.sendAt ≤ s.clk || r.until_ ≤ s.time)) with
  | none => s
  | some r =>
    let s1 := { s with spdmReqs := s.spdmReqs.erase r }
    if r.until_ ≤ s.time then s1 else if s.chanterHalted then s1 else { s1 with reply := r.resp }

end Sys2Proof.Machine
end

