-- ==== Sys2Proof/Machine/Mep.lean ====
section
/-! DEFINITION. The paths into the maintenance space and the registers of a VF: which rule a write of a register follows (00 R6, 20 R435,
22 R460 to R462), and the frames of the maintenance edge port (22 R459). -/

namespace Sys2Proof.Machine

/-! ### Writes by address (R461) -/

/-- Is SRC listed for an event counter (R482)? -/
def srcOk (core : Bool) (v : W64) : Bool :=
  if core then decide (1 ≤ field v 7 0) && decide (field v 7 0 ≤ 0x0B) else decide (0x81 ≤ field v 7 0) && decide (field v 7 0 ≤ 0x87)

/-- A write of a queue's register (R397). -/
def State.queueWrite (s : State) (via : Via) (die o : Nat) (v : W64) : State :=
  let r : QRef := ⟨die, (o - 0x10000) / 0x400, o % 0x400 / 0x40⟩
  match o % 0x40 with
  | 0 => s.qctlWrite via r v
  | 8 => s.qbaseWrite via r v
  | 0x18 => s.qtailWrite via r v
  | _ => s.plainWrite via (dieBase die + o) v

/-- A write of a partition register on a die (R405). -/
def State.partWrite (s : State) (via : Via) (die o : Nat) (v : W64) : State :=
  if [0x18, 0x20, 0x28, 0x48].contains (o % 0x100) then s.droneRegWrite via die ((o - 0x20000) / 0x100) (o % 0x100) v
  else s.plainWrite via (dieBase die + o) v

/-- A write of a register of a die. -/
def State.dieWrite (s : State) (via : Via) (die o : Nat) (v : W64) : State :=
  let a := dieBase die + o
  if o < 0x20000 then s.queueWrite via die o v
  else if o < 0x30000 then s.partWrite via die o v
  else if o < 0x80000 then
    (if o % 0x20 = 0 then s.splitcfgSet via die ((o - 0x30000) / 0x20) v else s.plainWrite via a v)
  else if 0x80100 ≤ o ∧ o < 0x80580 then s.tilemapWrite via die ((o - 0x80100) / 8) v
  else if 0x88000 ≤ o ∧ o < 0x90000 then s.semownSet via die ((o - 0x88000) / 8) v
  else if 0xC0000 ≤ o ∧ o % 16 = 0 then s.ruledWrite via a v (srcOk (decide (0xD0000 ≤ o)) v) (fun s => s.setReg a v)
  else s.plainWrite via a v

/-- A write of a partition control block (R415, R433, R441). -/
def State.partCtlWrite (s : State) (via : Via) (pid o : Nat) (v : W64) : State :=
  if o = 0 then s.pstateWrite via pid v
  else if o < 0x48 then s.diemapWrite via pid ((o - 8) / 8) v
  else if o < 0x700 then s.frameWrite via pid ((o - 0x100) / 8) v
  else if o < 0x800 then s.plainWrite via (partCtl pid o) v
  else if o < 0x880 then s.windowWrite via pid o v
  else s.qosWrite via pid o v

/-- A write of a logical device's registers (R434). -/
def State.ldWrite (s : State) (via : Via) (l o : Nat) (v : W64) : State :=
  if 8 ≤ o ∧ o < 0x88 then s.vfmapWrite via l ((o - 8) / 8) v
  else if 0x88 ≤ o ∧ o < 0xA8 then s.hdmWrite via l ((o - 0x88) / 8) v
  else if o = 0 then s.ldcfgWrite via l v
  else s.qosEdgeWrite via l v

/-- A write of a register below the context table. -/
def State.lowWrite (s : State) (via : Via) (a : Nat) (v : W64) : State :=
  if a = 0x210 ∨ a = 0x218 then s.feataccSet via ((a - 0x210) / 8) v
  else if 0x10000 ≤ a ∧ a < 0x10020 then s.railWrite via ((a - 0x10000) / 8) v
  else if a = 0x10040 then s.freqWrite via v
  else if a = 0x20008 then s.timeWrite via v
  else if 0x30000 ≤ a ∧ a < 0x30168 then s.xipWrite via a v
  else if a = 0x40000 then s.scmdWrite via v
  else if a = 0x40020 then s.loadgoWrite via v
  else if a = 0x40028 then s.rimrunWrite via v
  else if a = 0x50000 then s.bistWrite via v
  else if a = 0x100000 then s.keyctlWrite via v
  else s.plainWrite via a v

/-- A write of the maintenance register at an address: the rule of its register applies. -/
def State.regWrite (s : State) (via : Via) (a : Nat) (v : W64) : State :=
  if (regDesc a).isNone then s.logIgnored (a % 2 ^ 29)
  else if a < 0x200000 then s.lowWrite via a v
  else if a < 0x1000000 then s.ctxownWrite via ((a - 0x200000) / 8) v
  else if a < 0x4000000 then
    (match a % 0x100000 with
      | 0 => s.hctlWrite via ((a - 0x1000000) / 0x100000) v
      | 0x10 => s.hcfgWrite via ((a - 0x1000000) / 0x100000) v
      | _ => s.plainWrite via a v)
  else if a < 0x5000000 then
    (match a % 0x100 with
      | 0 => s.egcfgWrite via ((a - 0x4000000) / 0x100) v
      | 0x10 => s.egtpWrite via ((a - 0x4000000) / 0x100) v
      | _ => s.plainWrite via a v)
  else if a < 0x6000000 then s.ldWrite via ((a - 0x5000000) / 0x200) (a % 0x200) v
  else if a < 0x10000000 then s.partCtlWrite via ((a - 0x6000000) / 0x1000) (a % 0x1000) v
  else s.dieWrite via ((a - 0x10000000) / 0x100000) (a % 0x100000) v

/-! ### BAR0 of a VF (R435, R436) -/

/-- The maintenance address of a BAR0 offset, where one of the partition's registers on a die stands there. -/
def State.bar0Reg (s : State) (pid o : Nat) : Option Nat :=
  let k := o / 0x1000
  let i := o % 0x1000
  if k ≥ 64 ∨ i ≥ 0x500 then none
  else
    match s.dieOf pid k with
    | none => none
    | some d =>
      match s.pslot d pid with
      | none => none
      | some n =>
        let a := if i < 0x400 then queueReg d n (i / 0x40) (i % 0x40) else partReg d n (i - 0x400)
        if (regDesc a).isSome then some a else none

/-- The detail of a write to a BAR0 offset that reaches no register (R463). -/
def State.bar0Detail (s : State) (pid o : Nat) : Nat :=
  match s.vfOf pid with
  | none => 0
  | some (l, v) => 2 ^ 47 + l % 16 * 2 ^ 40 + v % 16 * 2 ^ 36 + o % 2 ^ 20

/-- A write of a host-control register (R436). -/
def State.hostCtlWrite (s : State) (pid o : Nat) (v : W64) : State :=
  match o with
  | 0x40000 => s.doorbellWrite pid v
  | 0x40008 =>
    if 1 ≤ shapeKind v ∧ shapeKind v ≤ 4 then s.shapeRequest pid (shapeKind v) v
    else if v &&& BitVec.ofNat 64 (bits 63 48 + bits 39 38 + bits 31 30 + bits 23 4) == 0 && field (s.vfReg pid 2) 7 0 != 1 then s.setVfReg pid 1 v
    else s.vfIgnored
  | 0x40018 => s.setVfReg pid 3 v
  | 0x40020 => s.killWrite pid v
  | _ => s.vfIgnored

/-- A write through BAR0. -/
def State.bar0Write (s : State) (pid o : Nat) (v : W64) : State :=
  if !s.bound pid then s
  else
    match s.bar0Reg pid o with
    | some a => if s.resetting.contains pid then s.logIgnored a else s.regWrite (.vf pid) a v
    | none =>
      if o % 8 = 0 ∧ 0x40000 ≤ o ∧ o < 0x40030 then (if s.resetting.contains pid then s.vfIgnored else s.hostCtlWrite pid o v)
      else if o % 8 = 0 ∧ 0x60000 ≤ o ∧ o < 0x60100 then
        (if s.resetting.contains pid then s.vfIgnored else s.msixWrite pid ((o - 0x60000) / 8) v)
      else if o = 0x61000 then s.vfIgnored
      else s.log 1 (s.bar0Detail pid o)

/-- A read through BAR0; all ones while the VF is in reset (R440). -/
def State.bar0Read (s : State) (pid o : Nat) : W64 :=
  if s.resetting.contains pid then BitVec.allOnes 64
  else
    match s.bar0Reg pid o with
    | some a => s.regRead a
    | none =>
      if o = 0x40008 then s.vfReg pid 1
      else if o = 0x40010 then s.vfReg pid 2
      else if o = 0x40018 then s.vfReg pid 3
      else if o = 0x40028 then s.vfReg pid 5
      else if o % 8 = 0 ∧ 0x60000 ≤ o ∧ o < 0x60100 then s.msixWord (64 * pid + (o - 0x60000) / 8)
      else if o = 0x61000 then s.msixWord (64 * pid + 32)
      else 0

/-- A read through BAR2 of LD 0 (R2, R462): `none`, the unsupported-request status, unless LD 0 is BOUND and the access is of 4 or 8 aligned
bytes in the window. -/
def State.bar2Read (s : State) (off width : Nat) : Option W64 :=
  if s.reaches .ld0 = true ∧ (width = 4 ∨ width = 8) ∧ off % width = 0 ∧ off < 2 ^ 29 then some (s.regReadN off width) else none

/-- A write through BAR2 of LD 0 (R462): `none`, the unsupported-request status, as for a read. A write to the low half clears the high half;
one to the high half has no effect and is logged. -/
def State.bar2Write (s : State) (off width : Nat) (v : W64) : Option State :=
  if s.reaches .ld0 = true ∧ (width = 4 ∨ width = 8) ∧ off % width = 0 ∧ off < 2 ^ 29 then
    some (if highHalf off width then s.logIgnored (off / 8 * 8) else s.regWrite .ld0 off (if width = 8 then v else v &&& 0xFFFFFFFF))
  else none

/-- The width of a write through LD 0: 8 bytes, or as bits 63 to 32 of the event's address say (assumption 130). -/
def ld0Width (addr : Nat) : Nat := if addr < 2 ^ 32 then 8 else addr / 2 ^ 32

/-- REGISTER_WRITE: a write at a maintenance address or, through a VF, at an offset of its BAR0. One through LD 0 that BAR2 does not support is
answered with 1. -/
def execRegisterWrite (via : Via) (addr : Nat) (value : W64) (s : State) : Out := .next <|
  match via with
  | .vf pid => s.bar0Write pid addr value
  | .ld0 => (s.bar2Write (addr % 2 ^ 32) (ld0Width addr) value).getD { s with reply := [1] }
  | v => s.regWrite v addr value

/-! ### Frames (R459) -/

/-- CRC-16, polynomial 0x1021: one byte. -/
def crcByte (c : BitVec 16) (b : Byte) : BitVec 16 :=
  (List.range 8).foldl (fun c _ => if c.getLsbD 15 then (c <<< 1) ^^^ 0x1021 else c <<< 1) (c ^^^ (b.zeroExtend 16 <<< 8))

/-- The CRC of a frame's bytes. -/
def crc16 (bs : List Byte) : BitVec 16 := bs.foldl crcByte 0xFFFF

/-- A response: SYNC, SEQ, STATUS, data, CRC. -/
def mepResponse (seq : Byte) (status : Nat) (data : List Byte) : List Byte :=
  let body := [seq, BitVec.ofNat 8 status] ++ data
  0x5A :: body ++ leBytes (crc16 body).toNat 2

def mepCmd (f : List Byte) : Nat := msgByte f 1
def mepSeq (f : List Byte) : Byte := f.getD 2 0
def mepWords (f : List Byte) : Nat := msgByte f 3 + 1
def mepAddr (f : List Byte) : Nat := leNat ((f.drop 4).take 8)

/-- The length of a frame of a command. -/
def mepLength (f : List Byte) : Nat := if mepCmd f = 2 then 14 + 8 * mepWords f else 14

/-- The STATUS of a frame: its CRC, its command, its range; RESET has none. -/
def mepStatus (f : List Byte) : Nat :=
  let known := mepCmd f = 1 ∨ mepCmd f = 2 ∨ mepCmd f = 15
  if f.length < 14 ∨ (known ∧ f.length ≠ mepLength f) ∨ leBytes (crc16 ((f.drop 1).take (f.length - 3))).toNat 2 ≠ f.drop (f.length - 2) then 1
  else if ¬known then 2
  else if mepCmd f ≠ 15 ∧ (mepAddr f % 8 ≠ 0 ∨ mepWords f > 16 ∨ mepAddr f + 8 * (mepWords f - 1) ≥ 0x20000000) then 3
  else 0

/-- The next word of a frame under way is read or written, whole; after the last the response is sent (R459, R460). -/
def State.mepWord (s : State) (j : MepJob) : State :=
  let f := j.frame
  let a := mepAddr f + 8 * j.done
  let s1 := if mepCmd f = 2 then s.regWrite .mep a (BitVec.ofNat 64 (leNat ((f.drop (12 + 8 * j.done)).take 8))) else s
  let data := if mepCmd f = 2 then [] else j.data ++ leBytes (s.regRead a).toNat 8
  if mepWords f ≤ j.done + 1 then { s1 with mepJob := none, reply := mepResponse (mepSeq f) 0 data }
  else { s1 with mepJob := some { j with done := j.done + 1, data := data } }

/-- A frame on the maintenance edge port: a nonzero STATUS performs nothing. Each step accesses one word, so other paths may come between
them; what the host sends before the response has ended is no frame (R458). -/
def State.mepFrame (s : State) (f : List Byte) : State :=
  match s.mepJob with
  | some j => if j.frame = f then s.mepWord j else s
  | none =>
    let st := mepStatus f
    if f.head? ≠ some 0xA5 then s
    else if st ≠ 0 then { s with reply := mepResponse (mepSeq f) st [] }
    else if mepCmd f = 15 then { s.moduleReset with reply := mepResponse (mepSeq f) 0 [] }
    else s.mepWord { frame := f }

/-- MEP_READ. -/
def execMepRead (frame : List Byte) (s : State) : Out := .next <| if mepCmd frame = 1 then s.mepFrame frame else s
/-- MEP_WRITE. -/
def execMepWrite (frame : List Byte) (s : State) : Out := .next <| if mepCmd frame = 2 then s.mepFrame frame else s
/-- MEP_RESET. -/
def execMepReset (frame : List Byte) (s : State) : Out := .next <| if mepCmd frame = 15 then s.mepFrame frame else s
/-- MEP_BADCMD. -/
def execMepBadcmd (frame : List Byte) (s : State) : Out := .next <|
  if mepCmd frame = 1 ∨ mepCmd frame = 2 ∨ mepCmd frame = 15 then s else s.mepFrame frame

end Sys2Proof.Machine
end

