-- ==== Sys2Proof/Decode.lean ====
section
/-! DEFINITION. From words to instructions and back (07). The decoder is total and rejects by name; it gives well-formed
instructions only. The encoder writes the words of an instruction in the order R179 gives. -/

namespace Sys2Proof

/-- Why words are no instruction (R171). Each is the fate ILLEGAL_INSTRUCTION. -/
inductive DecodeError where
  | reservedMajor | unassignedMinor | unusedField | fieldClass | notWellFormed | badModifier | notAnInstruction
  deriving DecidableEq, Repr

noncomputable section

/-- Bits [lo + len − 1 : lo] of a word. -/
def fld (w : W32) (lo len : Nat) : BitVec len := w.extractLsb' lo len

/-- One bit of a word. -/
def bit (w : W32) (i : Nat) : Bool := w.getLsbD i

/-- A field whose class has 8 names (R167). -/
def cls3 (w : W32) (lo : Nat) (k : BitVec 3 → Except DecodeError Instr) : Except DecodeError Instr :=
  if (fld w lo 6).toNat < 8 then k (fld w lo 3) else .error .fieldClass

/-- The fields that an instruction does not use are zero (R171): `w` under `mask` is `pat`. -/
def chk (w mask pat : W32) (k : Except DecodeError Instr) : Except DecodeError Instr :=
  if w &&& mask = pat then k else .error .unusedField

/-- Major 0, MISC (R184). -/
def decodeMisc (h : Hdr) (w : W32) : Except DecodeError Instr :=
  match (fld w 0 6).toNat with
  | 0 => chk w 0x7FFFFFFF 0x00000000 <| .ok (.nop h)
  | 1 => chk w 0x7FFFFFFF 0x00000001 <| .ok (.nap h)
  | 2 => chk w 0x7FFFFFFF 0x00000002 <| .ok (.exitT h)
  | 3 => chk w 0x7FF000FF 0x00000003 <| .ok (.brk h (fld w 8 12))
  | 4 => chk w 0x7FF000FF 0x00000004 <| .ok (.trapN h (fld w 8 12))
  | 5 => chk w 0x7C003FFF 0x00000005 <| .ok (.srd h (fld w 20 6) (fld w 14 6))
  | 6 => chk w 0x7C003FFF 0x00000006 <| .ok (.swr h (fld w 20 6) (fld w 14 6))
  | 7 => chk w 0x7FF03FFF 0x00000007 <| .ok (.clkadd h (fld w 14 6))
  | 8 => chk w 0x7C00007F 0x00000008 <| .ok (.svc h (fld w 20 6) (fld w 14 6) (fld w 8 6) (bit w 7))
  | _ => .error .unassignedMinor

/-- Major 1, SALU (R193). -/
def decodeSalu (h : Hdr) (w : W32) : Except DecodeError Instr :=
  match (fld w 0 6).toNat with
  | 0 => chk w 0x7C0000FF 0x04000000 <| .ok (.add h (fld w 20 6) (fld w 14 6) (fld w 8 6))
  | 1 => chk w 0x7C0000FF 0x04000001 <| .ok (.sub h (fld w 20 6) (fld w 14 6) (fld w 8 6))
  | 2 => chk w 0x7C0000FF 0x04000002 <| .ok (.mul h (fld w 20 6) (fld w 14 6) (fld w 8 6))
  | 3 => chk w 0x7C0000FF 0x04000003 <| .ok (.mulh h (fld w 20 6) (fld w 14 6) (fld w 8 6))
  | 4 => chk w 0x7C0000FF 0x04000004 <| .ok (.mulhn h (fld w 20 6) (fld w 14 6) (fld w 8 6))
  | 5 => chk w 0x7C0000FF 0x04000005 <| .ok (.div h (fld w 20 6) (fld w 14 6) (fld w 8 6))
  | 6 => chk w 0x7C0000FF 0x04000006 <| .ok (.divn h (fld w 20 6) (fld w 14 6) (fld w 8 6))
  | 7 => chk w 0x7C0000FF 0x04000007 <| .ok (.rem h (fld w 20 6) (fld w 14 6) (fld w 8 6))
  | 8 => chk w 0x7C0000FF 0x04000008 <| .ok (.remn h (fld w 20 6) (fld w 14 6) (fld w 8 6))
  | 9 => chk w 0x7C0000FF 0x04000009 <| .ok (.andS h (fld w 20 6) (fld w 14 6) (fld w 8 6))
  | 10 => chk w 0x7C0000FF 0x0400000A <| .ok (.orS h (fld w 20 6) (fld w 14 6) (fld w 8 6))
  | 11 => chk w 0x7C0000FF 0x0400000B <| .ok (.xorS h (fld w 20 6) (fld w 14 6) (fld w 8 6))
  | 12 => chk w 0x7C0000FF 0x0400000C <| .ok (.andn h (fld w 20 6) (fld w 14 6) (fld w 8 6))
  | 13 => chk w 0x7C0000FF 0x0400000D <| .ok (.shl h (fld w 20 6) (fld w 14 6) (fld w 8 6))
  | 14 => chk w 0x7C0000FF 0x0400000E <| .ok (.shr h (fld w 20 6) (fld w 14 6) (fld w 8 6))
  | 15 => chk w 0x7C0000FF 0x0400000F <| .ok (.sra h (fld w 20 6) (fld w 14 6) (fld w 8 6))
  | 16 => chk w 0x7C0000FF 0x04000010 <| .ok (.rol h (fld w 20 6) (fld w 14 6) (fld w 8 6))
  | 17 => chk w 0x7C0000FF 0x04000011 <| .ok (.ror h (fld w 20 6) (fld w 14 6) (fld w 8 6))
  | 18 => chk w 0x7C0000FF 0x04000012 <| .ok (.minS h (fld w 20 6) (fld w 14 6) (fld w 8 6))
  | 19 => chk w 0x7C0000FF 0x04000013 <| .ok (.maxS h (fld w 20 6) (fld w 14 6) (fld w 8 6))
  | 20 => chk w 0x7C0000FF 0x04000014 <| .ok (.minn h (fld w 20 6) (fld w 14 6) (fld w 8 6))
  | 21 => chk w 0x7C0000FF 0x04000015 <| .ok (.maxn h (fld w 20 6) (fld w 14 6) (fld w 8 6))
  | 22 => chk w 0x7C003FFF 0x04000016 <| .ok (.clz h (fld w 20 6) (fld w 14 6))
  | 23 => chk w 0x7C003FFF 0x04000017 <| .ok (.ctz h (fld w 20 6) (fld w 14 6))
  | 24 => chk w 0x7C003FFF 0x04000018 <| .ok (.popc h (fld w 20 6) (fld w 14 6))
  | 25 => chk w 0x7C003FFF 0x04000019 <| .ok (.brev h (fld w 20 6) (fld w 14 6))
  | 26 => chk w 0x7C0000FF 0x0400001A <| .ok (.sext h (fld w 20 6) (fld w 14 6) (fld w 8 6))
  | 27 => chk w 0x7C0000FF 0x0400001B <| .ok (.zext h (fld w 20 6) (fld w 14 6) (fld w 8 6))
  | 28 => chk w 0x7C0000FF 0x0400001C <| .ok (.cmp h (fld w 20 6) (fld w 14 6) (fld w 8 6))
  | 29 => chk w 0x7C0000FF 0x0400001D <| .ok (.clmul h (fld w 20 6) (fld w 14 6) (fld w 8 6))
  | 30 => chk w 0x7C0000FF 0x0400001E <| .ok (.clmulh h (fld w 20 6) (fld w 14 6) (fld w 8 6))
  | 31 => chk w 0x7C003FFF 0x0400001F <| .ok (.mov h (fld w 20 6) (fld w 14 6))
  | _ => .error .unassignedMinor

/-- Major 2, SIMM (R194). -/
def decodeSimm (h : Hdr) (w : W32) : Except DecodeError Instr :=
  match (fld w 11 3).toNat with
  | 0 => chk w 0x7C003800 0x08000000 <| .ok (.addi h (fld w 20 6) (fld w 14 6) (fld w 0 11))
  | 1 => chk w 0x7C003800 0x08000800 <| .ok (.andi h (fld w 20 6) (fld w 14 6) (fld w 0 11))
  | 2 => chk w 0x7C003800 0x08001000 <| .ok (.ori h (fld w 20 6) (fld w 14 6) (fld w 0 11))
  | 3 => chk w 0x7C003800 0x08001800 <| .ok (.xori h (fld w 20 6) (fld w 14 6) (fld w 0 11))
  | 4 => chk w 0x7C003800 0x08002000 <| .ok (.shli h (fld w 20 6) (fld w 14 6) (fld w 0 11))
  | 5 => chk w 0x7C003800 0x08002800 <| .ok (.shri h (fld w 20 6) (fld w 14 6) (fld w 0 11))
  | 6 => chk w 0x7C003800 0x08003000 <| .ok (.srai h (fld w 20 6) (fld w 14 6) (fld w 0 11))
  | 7 => chk w 0x7C003800 0x08003800 <| .ok (.cmpi h (fld w 20 6) (fld w 14 6) (fld w 0 11))
  | _ => .error .unassignedMinor

/-- Major 3, LI (R195). -/
def decodeLi (h : Hdr) (w : W32) : Except DecodeError Instr :=
  chk w 0x7C000000 0x0C000000 <| .ok (.li h (fld w 20 6) (fld w 0 20))

/-- Major 4, BR (R172, R196). -/
def decodeBr (h : Hdr) (w : W32) : Except DecodeError Instr :=
  match (fld w 24 2).toNat with
  | 0 => chk w 0x7F000000 0x10000000 <| .ok (.bt h (bit w 23) (fld w 20 3) (fld w 0 20))
  | 1 => chk w 0x7F800000 0x11000000 <| .ok (.bw h (fld w 20 3) (fld w 0 20))
  | 2 => chk w 0x7FF00000 0x12000000 <| .ok (.call h (fld w 0 20))
  | 3 => chk w 0x7F000000 0x13000000 <| .ok (.btn h (bit w 23) (fld w 20 3) (fld w 0 20))
  | _ => .error .unassignedMinor

/-- Major 5, JMP (R198). -/
def decodeJmp (h : Hdr) (w : W32) : Except DecodeError Instr :=
  match (fld w 0 6).toNat with
  | 0 => chk w 0x7FF03F7F 0x14000000 <| .ok (.jr h (fld w 14 6) (bit w 7))
  | 1 => chk w 0x7FF03F7F 0x14000001 <| .ok (.callr h (fld w 14 6) (bit w 7))
  | 2 => chk w 0x7FFFFFFF 0x14000002 <| .ok (.ret h)
  | _ => .error .unassignedMinor

/-- Major 6, VINT (R205). -/
def decodeVint (h : Hdr) (w : W32) : Except DecodeError Instr :=
  match (fld w 0 6).toNat with
  | 0 => chk w 0x7C00003F 0x18000000 <| .ok (.addI32 h (fld w 20 6) (fld w 14 6) (fld w 8 6) (bit w 7) (bit w 6))
  | 1 => chk w 0x7C00003F 0x18000001 <| .ok (.subI32 h (fld w 20 6) (fld w 14 6) (fld w 8 6) (bit w 7) (bit w 6))
  | 2 => chk w 0x7C00003F 0x18000002 <| .ok (.mulI32 h (fld w 20 6) (fld w 14 6) (fld w 8 6) (bit w 7) (bit w 6))
  | 3 => chk w 0x7C00003F 0x18000003 <| .ok (.mulhI32 h (fld w 20 6) (fld w 14 6) (fld w 8 6) (bit w 7) (bit w 6))
  | 4 => chk w 0x7C00003F 0x18000004 <| .ok (.mulhnI32 h (fld w 20 6) (fld w 14 6) (fld w 8 6) (bit w 7) (bit w 6))
  | 5 => chk w 0x7C00003F 0x18000005 <| .ok (.minI32 h (fld w 20 6) (fld w 14 6) (fld w 8 6) (bit w 7) (bit w 6))
  | 6 => chk w 0x7C00003F 0x18000006 <| .ok (.maxI32 h (fld w 20 6) (fld w 14 6) (fld w 8 6) (bit w 7) (bit w 6))
  | 7 => chk w 0x7C00003F 0x18000007 <| .ok (.minnI32 h (fld w 20 6) (fld w 14 6) (fld w 8 6) (bit w 7) (bit w 6))
  | 8 => chk w 0x7C00003F 0x18000008 <| .ok (.maxnI32 h (fld w 20 6) (fld w 14 6) (fld w 8 6) (bit w 7) (bit w 6))
  | 9 => chk w 0x7C003F7F 0x18000009 <| .ok (.absI32 h (fld w 20 6) (fld w 14 6) (bit w 7))
  | 10 => chk w 0x7C003F7F 0x1800000A <| .ok (.negI32 h (fld w 20 6) (fld w 14 6) (bit w 7))
  | 11 => chk w 0x7C00003F 0x1800000B <| .ok (.andI32 h (fld w 20 6) (fld w 14 6) (fld w 8 6) (bit w 7) (bit w 6))
  | 12 => chk w 0x7C00003F 0x1800000C <| .ok (.orI32 h (fld w 20 6) (fld w 14 6) (fld w 8 6) (bit w 7) (bit w 6))
  | 13 => chk w 0x7C00003F 0x1800000D <| .ok (.xorI32 h (fld w 20 6) (fld w 14 6) (fld w 8 6) (bit w 7) (bit w 6))
  | 14 => chk w 0x7C00003F 0x1800000E <| .ok (.andnI32 h (fld w 20 6) (fld w 14 6) (fld w 8 6) (bit w 7) (bit w 6))
  | 15 => chk w 0x7C003F7F 0x1800000F <| .ok (.notI32 h (fld w 20 6) (fld w 14 6) (bit w 7))
  | 16 => chk w 0x7C00003F 0x18000010 <| .ok (.shlI32 h (fld w 20 6) (fld w 14 6) (fld w 8 6) (bit w 7) (bit w 6))
  | 17 => chk w 0x7C00003F 0x18000011 <| .ok (.shrI32 h (fld w 20 6) (fld w 14 6) (fld w 8 6) (bit w 7) (bit w 6))
  | 18 => chk w 0x7C00003F 0x18000012 <| .ok (.sraI32 h (fld w 20 6) (fld w 14 6) (fld w 8 6) (bit w 7) (bit w 6))
  | 19 => chk w 0x7C003F7F 0x18000013 <| .ok (.clzI32 h (fld w 20 6) (fld w 14 6) (bit w 7))
  | 20 => chk w 0x7C003F7F 0x18000014 <| .ok (.popcI32 h (fld w 20 6) (fld w 14 6) (bit w 7))
  | 21 => chk w 0x7C003F7F 0x18000015 <| .ok (.brevI32 h (fld w 20 6) (fld w 14 6) (bit w 7))
  | 22 => chk w 0x7C00003F 0x18000016 <| .ok (.addsI32 h (fld w 20 6) (fld w 14 6) (fld w 8 6) (bit w 7) (bit w 6))
  | 23 => chk w 0x7C00003F 0x18000017 <| .ok (.subsI32 h (fld w 20 6) (fld w 14 6) (fld w 8 6) (bit w 7) (bit w 6))
  | 24 => chk w 0x7C00003F 0x18000018 <| .ok (.addsnI32 h (fld w 20 6) (fld w 14 6) (fld w 8 6) (bit w 7) (bit w 6))
  | 25 => chk w 0x7C00003F 0x18000019 <| .ok (.subsnI32 h (fld w 20 6) (fld w 14 6) (fld w 8 6) (bit w 7) (bit w 6))
  | 26 => chk w 0x7C00003F 0x1800001A <| cls3 w 20 fun d => .ok (.cmpeqI32 h d (fld w 14 6) (fld w 8 6) (bit w 7) (bit w 6))
  | 27 => chk w 0x7C00003F 0x1800001B <| cls3 w 20 fun d => .ok (.cmpneI32 h d (fld w 14 6) (fld w 8 6) (bit w 7) (bit w 6))
  | 28 => chk w 0x7C00003F 0x1800001C <| cls3 w 20 fun d => .ok (.cmpltI32 h d (fld w 14 6) (fld w 8 6) (bit w 7) (bit w 6))
  | 29 => chk w 0x7C00003F 0x1800001D <| cls3 w 20 fun d => .ok (.cmpleI32 h d (fld w 14 6) (fld w 8 6) (bit w 7) (bit w 6))
  | 30 => chk w 0x7C00003F 0x1800001E <| cls3 w 20 fun d => .ok (.cmpltnI32 h d (fld w 14 6) (fld w 8 6) (bit w 7) (bit w 6))
  | 31 => chk w 0x7C00003F 0x1800001F <| cls3 w 20 fun d => .ok (.cmplenI32 h d (fld w 14 6) (fld w 8 6) (bit w 7) (bit w 6))
  | 32 => chk w 0x7C00003F 0x18000020 <| .ok (.selI32 h (fld w 20 6) (fld w 14 6) (fld w 8 6) (bit w 7) (bit w 6))
  | 33 => chk w 0x7C003F7F 0x18000021 <| .ok (.movI32 h (fld w 20 6) (fld w 14 6) (bit w 7))
  | 34 => chk w 0x7C003FFF 0x18000022 <| .ok (.movsI32 h (fld w 20 6) (fld w 14 6))
  | 35 => chk w 0x7C00003F 0x18000023 <| .ok (.vclmul h (fld w 20 6) (fld w 14 6) (fld w 8 6) (bit w 7) (bit w 6))
  | 36 => chk w 0x7C00003F 0x18000024 <| .ok (.vclmulh h (fld w 20 6) (fld w 14 6) (fld w 8 6) (bit w 7) (bit w 6))
  | 37 => chk w 0x7C00003F 0x18000025 <| .ok (.madI32 h (fld w 20 6) (fld w 14 6) (fld w 8 6) (bit w 7) (bit w 6))
  | _ => .error .unassignedMinor

/-- Major 7, VIMM (R206). -/
def decodeVimm (h : Hdr) (w : W32) : Except DecodeError Instr :=
  match (fld w 11 3).toNat with
  | 0 => chk w 0x7C003800 0x1C000000 <| .ok (.addiI32 h (fld w 20 6) (fld w 14 6) (fld w 0 11))
  | 1 => chk w 0x7C003800 0x1C000800 <| .ok (.andiI32 h (fld w 20 6) (fld w 14 6) (fld w 0 11))
  | 2 => chk w 0x7C003800 0x1C001000 <| .ok (.oriI32 h (fld w 20 6) (fld w 14 6) (fld w 0 11))
  | 3 => chk w 0x7C003800 0x1C001800 <| .ok (.xoriI32 h (fld w 20 6) (fld w 14 6) (fld w 0 11))
  | 4 => chk w 0x7C003800 0x1C002000 <| .ok (.shliI32 h (fld w 20 6) (fld w 14 6) (fld w 0 11))
  | 5 => chk w 0x7C003800 0x1C002800 <| .ok (.shriI32 h (fld w 20 6) (fld w 14 6) (fld w 0 11))
  | 6 => chk w 0x7C003800 0x1C003000 <| .ok (.sraiI32 h (fld w 20 6) (fld w 14 6) (fld w 0 11))
  | 7 => chk w 0x7C0FF800 0x1C003800 <| .ok (.liiI32 h (fld w 20 6) (fld w 0 11))
  | _ => .error .unassignedMinor

/-- Major 8, VFLT (R207, R208). -/
def decodeVflt (h : Hdr) (w : W32) : Except DecodeError Instr :=
  match (fld w 0 6).toNat with
  | 0 => chk w 0x7C00003F 0x20000000 <| .ok (.addF32 h (fld w 20 6) (fld w 14 6) (fld w 8 6) (bit w 7) (bit w 6))
  | 1 => chk w 0x7C00003F 0x20000001 <| .ok (.subF32 h (fld w 20 6) (fld w 14 6) (fld w 8 6) (bit w 7) (bit w 6))
  | 2 => chk w 0x7C00003F 0x20000002 <| .ok (.mulF32 h (fld w 20 6) (fld w 14 6) (fld w 8 6) (bit w 7) (bit w 6))
  | 3 => chk w 0x7C00003F 0x20000003 <| .ok (.fmaF32 h (fld w 20 6) (fld w 14 6) (fld w 8 6) (bit w 7) (bit w 6))
  | 4 => chk w 0x7C00003F 0x20000004 <| .ok (.fmsF32 h (fld w 20 6) (fld w 14 6) (fld w 8 6) (bit w 7) (bit w 6))
  | 5 => chk w 0x7C00003F 0x20000005 <| .ok (.minF32 h (fld w 20 6) (fld w 14 6) (fld w 8 6) (bit w 7) (bit w 6))
  | 6 => chk w 0x7C00003F 0x20000006 <| .ok (.maxF32 h (fld w 20 6) (fld w 14 6) (fld w 8 6) (bit w 7) (bit w 6))
  | 7 => chk w 0x7C003F7F 0x20000007 <| .ok (.absF32 h (fld w 20 6) (fld w 14 6) (bit w 7))
  | 8 => chk w 0x7C003F7F 0x20000008 <| .ok (.negF32 h (fld w 20 6) (fld w 14 6) (bit w 7))
  | 9 => chk w 0x7C00003F 0x20000009 <| cls3 w 20 fun d => .ok (.cmpeqF32 h d (fld w 14 6) (fld w 8 6) (bit w 7) (bit w 6))
  | 10 => chk w 0x7C00003F 0x2000000A <| cls3 w 20 fun d => .ok (.cmpltF32 h d (fld w 14 6) (fld w 8 6) (bit w 7) (bit w 6))
  | 11 => chk w 0x7C00003F 0x2000000B <| cls3 w 20 fun d => .ok (.cmpleF32 h d (fld w 14 6) (fld w 8 6) (bit w 7) (bit w 6))
  | 12 => chk w 0x7C00003F 0x2000000C <| cls3 w 20 fun d => .ok (.cmpunF32 h d (fld w 14 6) (fld w 8 6) (bit w 7) (bit w 6))
  | 13 => chk w 0x7C00003F 0x2000000D <| .ok (.copysignF32 h (fld w 20 6) (fld w 14 6) (fld w 8 6) (bit w 7) (bit w 6))
  | 16 => chk w 0x7C00003F 0x20000010 <| .ok (.addH2 h (fld w 20 6) (fld w 14 6) (fld w 8 6) (bit w 7) (bit w 6))
  | 17 => chk w 0x7C00003F 0x20000011 <| .ok (.subH2 h (fld w 20 6) (fld w 14 6) (fld w 8 6) (bit w 7) (bit w 6))
  | 18 => chk w 0x7C00003F 0x20000012 <| .ok (.mulH2 h (fld w 20 6) (fld w 14 6) (fld w 8 6) (bit w 7) (bit w 6))
  | 19 => chk w 0x7C00003F 0x20000013 <| .ok (.fmaH2 h (fld w 20 6) (fld w 14 6) (fld w 8 6) (bit w 7) (bit w 6))
  | 20 => chk w 0x7C00003F 0x20000014 <| .ok (.minH2 h (fld w 20 6) (fld w 14 6) (fld w 8 6) (bit w 7) (bit w 6))
  | 21 => chk w 0x7C00003F 0x20000015 <| .ok (.maxH2 h (fld w 20 6) (fld w 14 6) (fld w 8 6) (bit w 7) (bit w 6))
  | 22 => chk w 0x7C003F7F 0x20000016 <| .ok (.absH2 h (fld w 20 6) (fld w 14 6) (bit w 7))
  | 32 => chk w 0x7C00003F 0x20000020 <| .ok (.addBf2 h (fld w 20 6) (fld w 14 6) (fld w 8 6) (bit w 7) (bit w 6))
  | 33 => chk w 0x7C00003F 0x20000021 <| .ok (.subBf2 h (fld w 20 6) (fld w 14 6) (fld w 8 6) (bit w 7) (bit w 6))
  | 34 => chk w 0x7C00003F 0x20000022 <| .ok (.mulBf2 h (fld w 20 6) (fld w 14 6) (fld w 8 6) (bit w 7) (bit w 6))
  | 35 => chk w 0x7C00003F 0x20000023 <| .ok (.fmaBf2 h (fld w 20 6) (fld w 14 6) (fld w 8 6) (bit w 7) (bit w 6))
  | 36 => chk w 0x7C00003F 0x20000024 <| .ok (.minBf2 h (fld w 20 6) (fld w 14 6) (fld w 8 6) (bit w 7) (bit w 6))
  | 37 => chk w 0x7C00003F 0x20000025 <| .ok (.maxBf2 h (fld w 20 6) (fld w 14 6) (fld w 8 6) (bit w 7) (bit w 6))
  | 38 => chk w 0x7C003F7F 0x20000026 <| .ok (.absBf2 h (fld w 20 6) (fld w 14 6) (bit w 7))
  | _ => .error .unassignedMinor

/-- Major 9, VCVT (R209). -/
def decodeVcvt (h : Hdr) (w : W32) : Except DecodeError Instr :=
  match (fld w 0 6).toNat with
  | 0 => chk w 0x7C003F7F 0x24000000 <| .ok (.cvtF32I32 h (fld w 20 6) (fld w 14 6) (bit w 7))
  | 1 => chk w 0x7C003F7F 0x24000001 <| .ok (.cvtI32F32 h (fld w 20 6) (fld w 14 6) (bit w 7))
  | 2 => chk w 0x7C003F7F 0x24000002 <| .ok (.cvtF32N32 h (fld w 20 6) (fld w 14 6) (bit w 7))
  | 3 => chk w 0x7C003F7F 0x24000003 <| .ok (.cvtN32F32 h (fld w 20 6) (fld w 14 6) (bit w 7))
  | 4 => chk w 0x7C003F7F 0x24000004 <| .ok (.cvtBf2F32 h (fld w 20 6) (fld w 14 6) (bit w 7))
  | 5 => chk w 0x7C003F7F 0x24000005 <| .ok (.cvtF32Bf h (fld w 20 6) (fld w 14 6) (bit w 7))
  | 6 => chk w 0x7C003F7F 0x24000006 <| .ok (.cvtH2F32 h (fld w 20 6) (fld w 14 6) (bit w 7))
  | 7 => chk w 0x7C003F7F 0x24000007 <| .ok (.cvtF32H h (fld w 20 6) (fld w 14 6) (bit w 7))
  | 8 => chk w 0x7C003F7F 0x24000008 <| .ok (.cvtE4x4F32 h (fld w 20 6) (fld w 14 6) (bit w 7))
  | 9 => chk w 0x7C003F7F 0x24000009 <| .ok (.cvtF32E4 h (fld w 20 6) (fld w 14 6) (bit w 7))
  | 10 => chk w 0x7C003F7F 0x2400000A <| .ok (.cvtE5x4F32 h (fld w 20 6) (fld w 14 6) (bit w 7))
  | 11 => chk w 0x7C003F7F 0x2400000B <| .ok (.cvtF32E5 h (fld w 20 6) (fld w 14 6) (bit w 7))
  | 12 => chk w 0x7C00003F 0x2400000C <| .ok (.cvtQ4F32 h (fld w 20 6) (fld w 14 6) (fld w 8 6) (bit w 7) (bit w 6))
  | 13 => chk w 0x7C00003F 0x2400000D <| .ok (.cvtF32Q4 h (fld w 20 6) (fld w 14 6) (fld w 8 6) (bit w 7) (bit w 6))
  | 14 => chk w 0x7C003F7F 0x2400000E <| .ok (.rintF32 h (fld w 20 6) (fld w 14 6) (bit w 7))
  | _ => .error .unassignedMinor

/-- Major 10, VSFU (R212). -/
def decodeVsfu (h : Hdr) (w : W32) : Except DecodeError Instr :=
  match (fld w 0 6).toNat with
  | 0 => chk w 0x7C003F7F 0x28000000 <| .ok (.rcp h (fld w 20 6) (fld w 14 6) (bit w 7))
  | 1 => chk w 0x7C003F7F 0x28000001 <| .ok (.sqrt h (fld w 20 6) (fld w 14 6) (bit w 7))
  | 2 => chk w 0x7C003F7F 0x28000002 <| .ok (.rsqrt h (fld w 20 6) (fld w 14 6) (bit w 7))
  | 3 => chk w 0x7C003F7F 0x28000003 <| .ok (.exp2 h (fld w 20 6) (fld w 14 6) (bit w 7))
  | 4 => chk w 0x7C003F7F 0x28000004 <| .ok (.log2 h (fld w 20 6) (fld w 14 6) (bit w 7))
  | 5 => chk w 0x7C003F7F 0x28000005 <| .ok (.sinpi h (fld w 20 6) (fld w 14 6) (bit w 7))
  | 6 => chk w 0x7C003F7F 0x28000006 <| .ok (.cospi h (fld w 20 6) (fld w 14 6) (bit w 7))
  | _ => .error .unassignedMinor

/-- Major 11, XLANE (R213). -/
def decodeXlane (h : Hdr) (w : W32) : Except DecodeError Instr :=
  match (fld w 0 6).toNat with
  | 0 => chk w 0x7C00003F 0x2C000000 <| .ok (.shfl h (fld w 20 6) (fld w 14 6) (fld w 8 6) (bit w 7) (bit w 6))
  | 1 => chk w 0x7C00007F 0x2C000001 <| .ok (.shfli h (fld w 20 6) (fld w 14 6) (fld w 8 6) (bit w 7))
  | 2 => chk w 0x7C00007F 0x2C000002 <| .ok (.bfly h (fld w 20 6) (fld w 14 6) (fld w 8 6) (bit w 7))
  | 3 => chk w 0x7C00007F 0x2C000003 <| .ok (.bcast h (fld w 20 6) (fld w 14 6) (fld w 8 6) (bit w 7))
  | 4 => chk w 0x7C003F7F 0x2C000004 <| .ok (.xredAdd h (fld w 20 6) (fld w 14 6) (bit w 7))
  | 5 => chk w 0x7C003F7F 0x2C000005 <| .ok (.xredAddf h (fld w 20 6) (fld w 14 6) (bit w 7))
  | 6 => chk w 0x7C003F7F 0x2C000006 <| .ok (.xredMin h (fld w 20 6) (fld w 14 6) (bit w 7))
  | 7 => chk w 0x7C003F7F 0x2C000007 <| .ok (.xredMax h (fld w 20 6) (fld w 14 6) (bit w 7))
  | 8 => chk w 0x7C003F7F 0x2C000008 <| .ok (.xredMinf h (fld w 20 6) (fld w 14 6) (bit w 7))
  | 9 => chk w 0x7C003F7F 0x2C000009 <| .ok (.xredMaxf h (fld w 20 6) (fld w 14 6) (bit w 7))
  | 10 => chk w 0x7C003F7F 0x2C00000A <| .ok (.xredAnd h (fld w 20 6) (fld w 14 6) (bit w 7))
  | 11 => chk w 0x7C003F7F 0x2C00000B <| .ok (.xredOr h (fld w 20 6) (fld w 14 6) (bit w 7))
  | 12 => chk w 0x7C003F7F 0x2C00000C <| .ok (.xredXor h (fld w 20 6) (fld w 14 6) (bit w 7))
  | 13 => chk w 0x7C003F7F 0x2C00000D <| .ok (.scanAdd h (fld w 20 6) (fld w 14 6) (bit w 7))
  | 14 => chk w 0x7C003F7F 0x2C00000E <| .ok (.scanAddf h (fld w 20 6) (fld w 14 6) (bit w 7))
  | 15 => chk w 0x7C003F7F 0x2C00000F <| .ok (.scanXor h (fld w 20 6) (fld w 14 6) (bit w 7))
  | 16 => chk w 0x7C003F7F 0x2C000010 <| .ok (.scanMax h (fld w 20 6) (fld w 14 6) (bit w 7))
  | 17 => chk w 0x7C003F7F 0x2C000011 <| .ok (.matchB h (fld w 20 6) (fld w 14 6) (bit w 7))
  | 18 => chk w 0x7C003F7F 0x2C000012 <| .ok (.matchf h (fld w 20 6) (fld w 14 6) (bit w 7))
  | 19 => chk w 0x7C003FFF 0x2C000013 <| cls3 w 20 fun d => cls3 w 14 fun a => .ok (.ballot h d a)
  | 20 => chk w 0x7C003FFF 0x2C000014 <| cls3 w 20 fun d => cls3 w 14 fun a => .ok (.voteAny h d a)
  | 21 => chk w 0x7C003FFF 0x2C000015 <| cls3 w 20 fun d => cls3 w 14 fun a => .ok (.voteAll h d a)
  | _ => .error .unassignedMinor

/-- Major 12, KOPS (R218). -/
def decodeKops (h : Hdr) (w : W32) : Except DecodeError Instr :=
  match (fld w 0 6).toNat with
  | 0 => chk w 0x7C0000FF 0x30000000 <| cls3 w 20 fun d => cls3 w 14 fun a => cls3 w 8 fun b => .ok (.kand h d a b)
  | 1 => chk w 0x7C0000FF 0x30000001 <| cls3 w 20 fun d => cls3 w 14 fun a => cls3 w 8 fun b => .ok (.kor h d a b)
  | 2 => chk w 0x7C0000FF 0x30000002 <| cls3 w 20 fun d => cls3 w 14 fun a => cls3 w 8 fun b => .ok (.kxor h d a b)
  | 3 => chk w 0x7C003FFF 0x30000003 <| cls3 w 20 fun d => cls3 w 14 fun a => .ok (.knot h d a)
  | 4 => chk w 0x7C003FFF 0x30000004 <| cls3 w 20 fun d => cls3 w 14 fun a => .ok (.kmov h d a)
  | 5 => chk w 0x7C003FFF 0x30000005 <| cls3 w 20 fun d => cls3 w 14 fun a => .ok (.kfromp h d a)
  | 6 => chk w 0x7C003FFF 0x30000006 <| cls3 w 20 fun d => cls3 w 14 fun a => .ok (.ktop h d a)
  | 7 => chk w 0x7C003FFF 0x30000007 <| cls3 w 14 fun a => .ok (.kpop h (fld w 20 6) a)
  | 8 => chk w 0x7C003FFF 0x30000008 <| cls3 w 14 fun a => .ok (.kfirst h (fld w 20 6) a)
  | 9 => chk w 0x7C003FFF 0x30000009 <| cls3 w 20 fun d => cls3 w 14 fun a => .ok (.kfs h d a)
  | 10 => chk w 0x7C003FFF 0x3000000A <| cls3 w 20 fun d => .ok (.ksk h d (fld w 14 6))
  | _ => .error .unassignedMinor

/-- Major 13, RNG (R219). -/
def decodeRng (h : Hdr) (w : W32) : Except DecodeError Instr :=
  match (fld w 0 6).toNat with
  | 0 => chk w 0x7C0FC0FF 0x34000000 <| .ok (.draw h (fld w 20 6) (fld w 8 6))
  | 1 => chk w 0x7C00003F 0x34000001 <| .ok (.rhash h (fld w 20 6) (fld w 14 6) (fld w 8 6) (bit w 7) (bit w 6))
  | 2 => chk w 0x7FF03F7F 0x34000002 <| .ok (.sdiset h (fld w 14 6) (bit w 7))
  | 3 => chk w 0x7C0FFFFF 0x34000003 <| .ok (.sdiget h (fld w 20 6))
  | _ => .error .unassignedMinor

/-- Major 14, LD (R228). -/
def decodeLd (h : Hdr) (w : W32) : Except DecodeError Instr :=
  match (fld w 5 3).toNat with
  | 0 => chk w 0x7C0000E0 0x38000000 <| .ok (.ldB h (fld w 20 6) (fld w 14 6) (fld w 8 6) (fld w 3 2) (fld w 0 3))
  | 1 => chk w 0x7C0000E0 0x38000020 <| .ok (.ldBn h (fld w 20 6) (fld w 14 6) (fld w 8 6) (fld w 3 2) (fld w 0 3))
  | 2 => chk w 0x7C0000E0 0x38000040 <| .ok (.ldH h (fld w 20 6) (fld w 14 6) (fld w 8 6) (fld w 3 2) (fld w 0 3))
  | 3 => chk w 0x7C0000E0 0x38000060 <| .ok (.ldHn h (fld w 20 6) (fld w 14 6) (fld w 8 6) (fld w 3 2) (fld w 0 3))
  | 4 => chk w 0x7C0000E0 0x38000080 <| .ok (.ldW h (fld w 20 6) (fld w 14 6) (fld w 8 6) (fld w 3 2) (fld w 0 3))
  | 5 => chk w 0x7C0000E0 0x380000A0 <| .ok (.ldD h (fld w 20 6) (fld w 14 6) (fld w 8 6) (fld w 3 2) (fld w 0 3))
  | 6 => chk w 0x7C0000E0 0x380000C0 <| .ok (.ldDec h (fld w 20 6) (fld w 14 6) (fld w 8 6) (fld w 3 2) (fld w 0 3))
  | 7 => chk w 0x7C0000E0 0x380000E0 <| .ok (.ldRaw h (fld w 20 6) (fld w 14 6) (fld w 8 6) (fld w 3 2) (fld w 0 3))
  | _ => .error .unassignedMinor

/-- Major 15, ST (R228). -/
def decodeSt (h : Hdr) (w : W32) : Except DecodeError Instr :=
  match (fld w 5 3).toNat with
  | 0 => chk w 0x7C0000E0 0x3C000000 <| .ok (.stB h (fld w 20 6) (fld w 14 6) (fld w 8 6) (fld w 3 2) (fld w 0 3))
  | 1 => chk w 0x7C0000E0 0x3C000020 <| .ok (.stH h (fld w 20 6) (fld w 14 6) (fld w 8 6) (fld w 3 2) (fld w 0 3))
  | 2 => chk w 0x7C0000E0 0x3C000040 <| .ok (.stW h (fld w 20 6) (fld w 14 6) (fld w 8 6) (fld w 3 2) (fld w 0 3))
  | 3 => chk w 0x7C0000E0 0x3C000060 <| .ok (.stD h (fld w 20 6) (fld w 14 6) (fld w 8 6) (fld w 3 2) (fld w 0 3))
  | 4 => chk w 0x7C0000E0 0x3C000080 <| .ok (.stRaw h (fld w 20 6) (fld w 14 6) (fld w 8 6) (fld w 3 2) (fld w 0 3))
  | _ => .error .unassignedMinor

/-- Major 16, SPM (R235, R236). -/
def decodeSpm (h : Hdr) (w : W32) : Except DecodeError Instr :=
  match (fld w 0 6).toNat with
  | 0 => chk w 0x7C00007F 0x40000000 <| .ok (.sldW h (fld w 20 6) (fld w 14 6) (fld w 8 6) (bit w 7))
  | 1 => chk w 0x7C00007F 0x40000001 <| .ok (.sldH h (fld w 20 6) (fld w 14 6) (fld w 8 6) (bit w 7))
  | 2 => chk w 0x7C00007F 0x40000002 <| .ok (.sldB h (fld w 20 6) (fld w 14 6) (fld w 8 6) (bit w 7))
  | 3 => chk w 0x7C00007F 0x40000003 <| .ok (.sstW h (fld w 20 6) (fld w 14 6) (fld w 8 6) (bit w 7))
  | 4 => chk w 0x7C00007F 0x40000004 <| .ok (.sstH h (fld w 20 6) (fld w 14 6) (fld w 8 6) (bit w 7))
  | 5 => chk w 0x7C00007F 0x40000005 <| .ok (.sstB h (fld w 20 6) (fld w 14 6) (fld w 8 6) (bit w 7))
  | 6 => chk w 0x7FF000FF 0x40000006 <| .ok (.bdecl h (fld w 14 6) (fld w 8 6))
  | 7 =>
    match (fld w 8 6).toNat with
    | 0 => chk w 0x7FF03FFF 0x40000007 <| .ok (.bsetEmpty h (fld w 14 6))
    | 1 => chk w 0x7FF03FFF 0x40000107 <| .ok (.bsetFull h (fld w 14 6))
    | _ => .error .unusedField
  | 8 => chk w 0x7C003FFF 0x40000008 <| .ok (.bstat h (fld w 20 6) (fld w 14 6))
  | 9 => chk w 0x7C00007F 0x40000009 <| .ok (.sldDec h (fld w 20 6) (fld w 14 6) (fld w 8 6) (bit w 7))
  | _ => .error .unassignedMinor

/-- Major 17, ATOM (R233). -/
def decodeAtom (h : Hdr) (w : W32) : Except DecodeError Instr :=
  match (fld w 4 4).toNat with
  | 0 => chk w 0x7C0000F1 0x44000000 <| .ok (.atomAdd h (fld w 20 6) (fld w 14 6) (fld w 8 6) (fld w 1 3))
  | 1 => chk w 0x7C0000F1 0x44000010 <| .ok (.atomAddD h (fld w 20 6) (fld w 14 6) (fld w 8 6) (fld w 1 3))
  | 2 => chk w 0x7C0000F1 0x44000020 <| .ok (.atomMin h (fld w 20 6) (fld w 14 6) (fld w 8 6) (fld w 1 3))
  | 3 => chk w 0x7C0000F1 0x44000030 <| .ok (.atomMax h (fld w 20 6) (fld w 14 6) (fld w 8 6) (fld w 1 3))
  | 4 => chk w 0x7C0000F1 0x44000040 <| .ok (.atomMinn h (fld w 20 6) (fld w 14 6) (fld w 8 6) (fld w 1 3))
  | 5 => chk w 0x7C0000F1 0x44000050 <| .ok (.atomMaxn h (fld w 20 6) (fld w 14 6) (fld w 8 6) (fld w 1 3))
  | 6 => chk w 0x7C0000F1 0x44000060 <| .ok (.atomAnd h (fld w 20 6) (fld w 14 6) (fld w 8 6) (fld w 1 3))
  | 7 => chk w 0x7C0000F1 0x44000070 <| .ok (.atomOr h (fld w 20 6) (fld w 14 6) (fld w 8 6) (fld w 1 3))
  | 8 => chk w 0x7C0000F1 0x44000080 <| .ok (.atomXor h (fld w 20 6) (fld w 14 6) (fld w 8 6) (fld w 1 3))
  | 9 => chk w 0x7C0000F1 0x44000090 <| .ok (.atomXchg h (fld w 20 6) (fld w 14 6) (fld w 8 6) (fld w 1 3))
  | 10 => chk w 0x7C0000F1 0x440000A0 <| .ok (.atomCas h (fld w 20 6) (fld w 14 6) (fld w 8 6) (fld w 1 3))
  | 11 => chk w 0x7C0000F1 0x440000B0 <| .ok (.atomCasD h (fld w 20 6) (fld w 14 6) (fld w 8 6) (fld w 1 3))
  | 12 => chk w 0x7C0000F1 0x440000C0 <| .ok (.atomFadd h (fld w 20 6) (fld w 14 6) (fld w 8 6) (fld w 1 3))
  | 13 => chk w 0x7C0000F1 0x440000D0 <| .ok (.atomFaddBf2 h (fld w 20 6) (fld w 14 6) (fld w 8 6) (fld w 1 3))
  | 14 => chk w 0x7C0000F1 0x440000E0 <| .ok (.atomFmin h (fld w 20 6) (fld w 14 6) (fld w 8 6) (fld w 1 3))
  | 15 => chk w 0x7C0000F1 0x440000F0 <| .ok (.atomFmax h (fld w 20 6) (fld w 14 6) (fld w 8 6) (fld w 1 3))
  | _ => .error .unassignedMinor

/-- Major 18, RED (R234). -/
def decodeRed (h : Hdr) (w : W32) : Except DecodeError Instr :=
  match (fld w 4 4).toNat with
  | 0 => chk w 0x7C0000F1 0x48000000 <| .ok (.redAdd h (fld w 20 6) (fld w 14 6) (fld w 8 6) (fld w 1 3))
  | 1 => chk w 0x7C0000F1 0x48000010 <| .ok (.redAddD h (fld w 20 6) (fld w 14 6) (fld w 8 6) (fld w 1 3))
  | 2 => chk w 0x7C0000F1 0x48000020 <| .ok (.redMin h (fld w 20 6) (fld w 14 6) (fld w 8 6) (fld w 1 3))
  | 3 => chk w 0x7C0000F1 0x48000030 <| .ok (.redMax h (fld w 20 6) (fld w 14 6) (fld w 8 6) (fld w 1 3))
  | 4 => chk w 0x7C0000F1 0x48000040 <| .ok (.redMinn h (fld w 20 6) (fld w 14 6) (fld w 8 6) (fld w 1 3))
  | 5 => chk w 0x7C0000F1 0x48000050 <| .ok (.redMaxn h (fld w 20 6) (fld w 14 6) (fld w 8 6) (fld w 1 3))
  | 6 => chk w 0x7C0000F1 0x48000060 <| .ok (.redAnd h (fld w 20 6) (fld w 14 6) (fld w 8 6) (fld w 1 3))
  | 7 => chk w 0x7C0000F1 0x48000070 <| .ok (.redOr h (fld w 20 6) (fld w 14 6) (fld w 8 6) (fld w 1 3))
  | 8 => chk w 0x7C0000F1 0x48000080 <| .ok (.redXor h (fld w 20 6) (fld w 14 6) (fld w 8 6) (fld w 1 3))
  | 9 => chk w 0x7C0000F1 0x48000090 <| .ok (.redFadd h (fld w 20 6) (fld w 14 6) (fld w 8 6) (fld w 1 3))
  | 10 => chk w 0x7C0000F1 0x480000A0 <| .ok (.redFaddBf2 h (fld w 20 6) (fld w 14 6) (fld w 8 6) (fld w 1 3))
  | _ => .error .unassignedMinor

/-- Major 19, SYNC (R140, R240). -/
def decodeSync (h : Hdr) (w : W32) : Except DecodeError Instr :=
  match (fld w 0 6).toNat with
  | 0 =>
    match (fld w 8 2).toNat with
    | 0 => chk w 0x7FFFC7FF 0x4C000000 <| .ok (.fenceAcq h (fld w 11 3))
    | 1 => chk w 0x7FFFC7FF 0x4C000100 <| .ok (.fenceRel h (fld w 11 3))
    | 2 => chk w 0x7FFFC7FF 0x4C000200 <| .ok (.fenceFull h (fld w 11 3))
    | 3 => chk w 0x7FFFFFFF 0x4C000300 <| .ok (.ifb h)
    | _ => .error .unassignedMinor
  | 1 => chk w 0x7FF03FFF 0x4C000001 <| .ok (.bar h (fld w 14 6))
  | 2 => chk w 0x7FF03FFF 0x4C000002 <| .ok (.barArv h (fld w 14 6))
  | 3 => chk w 0x7FF03FFF 0x4C000003 <| .ok (.barWt h (fld w 14 6))
  | 4 => chk w 0x7FF000FF 0x4C000004 <| .ok (.semSig h (fld w 14 6) (fld w 8 6))
  | 5 => chk w 0x7FF000FF 0x4C000005 <| .ok (.semWait h (fld w 14 6) (fld w 8 6))
  | 6 => chk w 0x7F8000FF 0x4C000006 <| .ok (.tlwait h (fld w 20 3) (fld w 14 6) (fld w 8 6))
  | 7 => chk w 0x7C0FFFFF 0x4C000007 <| cls3 w 20 fun d => .ok (.txb h d)
  | 8 => chk w 0x7FFFFFFF 0x4C000008 <| .ok (.txe h)
  | 9 => chk w 0x7FF03FFF 0x4C000009 <| .ok (.txa h (fld w 14 6))
  | 10 => chk w 0x7C00003F 0x4C00000A <| cls3 w 20 fun d => .ok (.wlput h d (fld w 14 6) (fld w 8 6) (bit w 7) (bit w 6))
  | 11 => chk w 0x7C0FFFFF 0x4C00000B <| .ok (.wlget h (fld w 20 6))
  | 12 => chk w 0x7C003FFF 0x4C00000C <| .ok (.amrecv h (fld w 20 6) (fld w 14 6))
  | 13 =>
    match (fld w 8 6).toNat with
    | 0 => chk w 0x7FF03FFF 0x4C00000D <| .ok (.bwaitDrained h (fld w 14 6))
    | 1 => chk w 0x7FF03FFF 0x4C00010D <| .ok (.bwaitFull h (fld w 14 6))
    | _ => .error .unusedField
  | _ => .error .unassignedMinor

/-- Major 20, MMA (R256). -/
def decodeMma (h : Hdr) (w : W32) : Except DecodeError Instr :=
  match (fld w 0 6).toNat with
  | 0 => chk w 0x7C00003F 0x50000000 <| cls3 w 20 fun d => .ok (.mmaBf h d (fld w 14 6) (fld w 8 6) (bit w 7) (bit w 6))
  | 1 => chk w 0x7C00003F 0x50000001 <| cls3 w 20 fun d => .ok (.mmaH h d (fld w 14 6) (fld w 8 6) (bit w 7) (bit w 6))
  | 2 => chk w 0x7C00003F 0x50000002 <| cls3 w 20 fun d => .ok (.mmaE4 h d (fld w 14 6) (fld w 8 6) (bit w 7) (bit w 6))
  | 3 => chk w 0x7C00003F 0x50000003 <| cls3 w 20 fun d => .ok (.mmaE5 h d (fld w 14 6) (fld w 8 6) (bit w 7) (bit w 6))
  | 4 => chk w 0x7C00003F 0x50000004 <| cls3 w 20 fun d => .ok (.mmaE4e5 h d (fld w 14 6) (fld w 8 6) (bit w 7) (bit w 6))
  | 5 => chk w 0x7C00003F 0x50000005 <| cls3 w 20 fun d => .ok (.mmaQ4 h d (fld w 14 6) (fld w 8 6) (bit w 7) (bit w 6))
  | 6 => chk w 0x7C00003F 0x50000006 <| cls3 w 20 fun d => .ok (.mmaI8 h d (fld w 14 6) (fld w 8 6) (bit w 7) (bit w 6))
  | 7 => chk w 0x7C0FFFFF 0x50000007 <| cls3 w 20 fun d => .ok (.mzero h d)
  | 8 => chk w 0x7C0000FF 0x50000008 <| cls3 w 20 fun d => .ok (.mld h d (fld w 14 6) (fld w 8 6))
  | 9 =>
    if fld w 8 6 = 0 then chk w 0x7C003FFF 0x50000009 <| cls3 w 14 fun a => .ok (.mstReg h (fld w 20 6) a)
    else chk w 0x7C0000FF 0x50000009 <| cls3 w 14 fun a => .ok (.mstBuf h (fld w 20 6) a (fld w 8 6))
  | 10 => chk w 0x7FF03FFF 0x5000000A <| cls3 w 14 fun a => .ok (.mwait h a)
  | _ => .error .unassignedMinor

/-- Major 21, MSEQ (R267). -/
def decodeMseq (h : Hdr) (w : W32) : Except DecodeError Instr :=
  match (fld w 0 6).toNat with
  | 0 => chk w 0x7C0000FF 0x54000000 <| cls3 w 20 fun d => .ok (.mloop h d (fld w 14 6) (fld w 8 6))
  | 1 => chk w 0x7C0000FF 0x54000001 <| cls3 w 20 fun d => .ok (.mconv h d (fld w 14 6) (fld w 8 6))
  | _ => .error .unassignedMinor

/-- Major 22, ENG (R272). -/
def decodeEng (h : Hdr) (w : W32) : Except DecodeError Instr :=
  match (fld w 0 6).toNat with
  | 0 => chk w 0x7C0000FF 0x58000000 <| .ok (.kick h (fld w 20 6) (fld w 14 6) (fld w 8 6))
  | 1 => chk w 0x7C0000FF 0x58000001 <| .ok (.vchain h (fld w 20 6) (fld w 14 6) (fld w 8 6))
  | 2 => chk w 0x7C0000FF 0x58000002 <| .ok (.pair h (fld w 20 6) (fld w 14 6) (fld w 8 6))
  | 3 => chk w 0x7C0000FF 0x58000003 <| .ok (.pairResume h (fld w 20 6) (fld w 14 6) (fld w 8 6))
  | 4 => chk w 0x7C0000FF 0x58000004 <| .ok (.lnch h (fld w 20 6) (fld w 14 6) (fld w 8 6))
  | 5 => chk w 0x7C0000FF 0x58000005 <| .ok (.estat h (fld w 20 6) (fld w 14 6) (fld w 8 6))
  | _ => .error .unassignedMinor

/-- Major 23, FAB (R317). -/
def decodeFab (h : Hdr) (w : W32) : Except DecodeError Instr :=
  match (fld w 0 6).toNat with
  | 0 => chk w 0x7C0000FF 0x5C000000 <| .ok (.csend h (fld w 20 6) (fld w 14 6) (fld w 8 6))
  | 1 => chk w 0x7C0000FF 0x5C000001 <| .ok (.crecv h (fld w 20 6) (fld w 14 6) (fld w 8 6))
  | 2 => chk w 0x7C0000FF 0x5C000002 <| .ok (.cred h (fld w 20 6) (fld w 14 6) (fld w 8 6))
  | 3 => chk w 0x7C00007F 0x5C000003 <| .ok (.amsend h (fld w 20 6) (fld w 14 6) (fld w 8 6) (bit w 7))
  | _ => .error .unassignedMinor

/-- Major 30, PRIV (R371). -/
def decodePriv (h : Hdr) (w : W32) : Except DecodeError Instr :=
  match (fld w 0 6).toNat with
  | 0 => chk w 0x7FF03FFF 0x78000000 <| .ok (.rfe h (fld w 14 6))
  | 1 => chk w 0x7FF03FFF 0x78000001 <| .ok (.resume h (fld w 14 6))
  | 2 => chk w 0x7C0000FF 0x78000002 <| .ok (.ctxrd h (fld w 20 6) (fld w 14 6) (fld w 8 6))
  | 3 => chk w 0x7C0000FF 0x78000003 <| .ok (.ctxwr h (fld w 20 6) (fld w 14 6) (fld w 8 6))
  | 4 => chk w 0x7C0000FF 0x78000004 <| .ok (.tlbinv h (fld w 20 6) (fld w 14 6) (fld w 8 6))
  | 5 => chk w 0x7C003FFF 0x78000005 <| .ok (.psrd h (fld w 20 6) (fld w 14 6))
  | 6 => chk w 0x7FF000FF 0x78000006 <| .ok (.pswr h (fld w 14 6) (fld w 8 6))
  | 7 => chk w 0x7FF03FFF 0x78000007 <| .ok (.idle h (fld w 14 6))
  | 8 => chk w 0x7C003FFF 0x78000008 <| .ok (.rtwr h (fld w 20 6) (fld w 14 6))
  | 9 => chk w 0x7FF03FFF 0x78000009 <| .ok (.sealBlock h (fld w 14 6))
  | 10 => chk w 0x7FF03FFF 0x7800000A <| .ok (.halt h (fld w 14 6))
  | 11 => chk w 0x7FF03FFF 0x7800000B <| .ok (.wake h (fld w 14 6))
  | _ => .error .unassignedMinor

/-- One instruction word under the extension words bound to it: the major chooses (R170). -/
def parseWord (h : Hdr) (w : W32) : Except DecodeError Instr :=
  match (fld w 26 5).toNat with
  | 0 => decodeMisc h w
  | 1 => decodeSalu h w
  | 2 => decodeSimm h w
  | 3 => decodeLi h w
  | 4 => decodeBr h w
  | 5 => decodeJmp h w
  | 6 => decodeVint h w
  | 7 => decodeVimm h w
  | 8 => decodeVflt h w
  | 9 => decodeVcvt h w
  | 10 => decodeVsfu h w
  | 11 => decodeXlane h w
  | 12 => decodeKops h w
  | 13 => decodeRng h w
  | 14 => decodeLd h w
  | 15 => decodeSt h w
  | 16 => decodeSpm h w
  | 17 => decodeAtom h w
  | 18 => decodeRed h w
  | 19 => decodeSync h w
  | 20 => decodeMma h w
  | 21 => decodeMseq h w
  | 22 => decodeEng h w
  | 23 => decodeFab h w
  | 30 => decodePriv h w
  | 31 => .error .notAnInstruction
  | _ => .error .reservedMajor

/-- Is a word an extension word (R161)? -/
def isExt (w : W32) : Bool := (fld w 26 5).toNat == 31

/-- Is an extension word an immediate word? Otherwise it is a modifier word (R166). -/
def isImmWord (w : W32) : Bool := bit w 25

/-- The fields of a modifier word; bits [6:0] must be zero (R169). -/
def parseMod (w : W32) : Except DecodeError Mod :=
  if fld w 0 7 = 0 then
    .ok ⟨fld w 22 3, fld w 19 3, bit w 18, fld w 15 3, bit w 14, bit w 13, fld w 7 6⟩
  else .error .badModifier

/-- An instruction word with its bound modifier and immediate words. -/
def decode (modw immw : Option W32) (w : W32) : Except DecodeError Instr :=
  match (match modw with
         | none => Except.ok none
         | some m => (parseMod m).map some) with
  | .error e => .error e
  | .ok mm =>
    match parseWord ⟨bit w 31, mm, immw.map (fun x => fld x 0 25)⟩ w with
    | .error e => .error e
    | .ok i => if i.wf then .ok i else .error .notWellFormed

/-- An instruction read from a list of words: extension words first, then the instruction word, then the rest.
At most one extension word of each kind binds to an instruction (R163). -/
def decodeWords : List W32 → Except DecodeError (Instr × List W32)
  | [] => .error .notAnInstruction
  | w0 :: r0 =>
    if isExt w0 then
      match r0 with
      | [] => .error .notAnInstruction
      | w1 :: r1 =>
        if isExt w1 then
          match r1 with
          | [] => .error .notAnInstruction
          | w2 :: r2 =>
            if isExt w2 || isImmWord w0 == isImmWord w1 then .error .badModifier
            else
              (decode (some (if isImmWord w0 then w1 else w0)) (some (if isImmWord w0 then w0 else w1)) w2).map (·, r2)
        else if isImmWord w0 then (decode none (some w0) w1).map (·, r1)
        else (decode (some w0) none w1).map (·, r1)
    else (decode none none w0).map (·, r0)

end

/-! ### The encoder -/

/-- An instruction word: its fixed bits and fields, under its chain bit. -/
def mkWord (h : Hdr) (n : Nat) : W32 := BitVec.ofNat 32 (n + h.chain.toNat * 2147483648)

/-- The modifier word of R166. -/
def modWord (m : Mod) : W32 :=
  BitVec.ofNat 32 (0x7C000000 + m.k.toNat * 4194304 + m.p.toNat * 524288 + m.pn.toNat * 262144
    + m.rnd.toNat * 32768 + m.sat.toNat * 16384 + m.ec.toNat * 8192 + m.c.toNat * 128)

/-- The immediate word of R166. -/
def immWord (j : BitVec 25) : W32 := BitVec.ofNat 32 (0x7E000000 + j.toNat)

/-- The instruction word of an encoded instruction; a step of another agent has none. -/
def Instr.word : Instr → Option W32
  | .nop h => some (mkWord h (0x00000000))
  | .nap h => some (mkWord h (0x00000001))
  | .exitT h => some (mkWord h (0x00000002))
  | .brk h n => some (mkWord h (0x00000003 + n.toNat * 256))
  | .trapN h n => some (mkWord h (0x00000004 + n.toNat * 256))
  | .srd h d a => some (mkWord h (0x00000005 + d.toNat * 1048576 + a.toNat * 16384))
  | .swr h d a => some (mkWord h (0x00000006 + d.toNat * 1048576 + a.toNat * 16384))
  | .clkadd h a => some (mkWord h (0x00000007 + a.toNat * 16384))
  | .svc h d a b x => some (mkWord h (0x00000008 + d.toNat * 1048576 + a.toNat * 16384 + b.toNat * 256 + x.toNat * 128))
  | .add h d a b => some (mkWord h (0x04000000 + d.toNat * 1048576 + a.toNat * 16384 + b.toNat * 256))
  | .sub h d a b => some (mkWord h (0x04000001 + d.toNat * 1048576 + a.toNat * 16384 + b.toNat * 256))
  | .mul h d a b => some (mkWord h (0x04000002 + d.toNat * 1048576 + a.toNat * 16384 + b.toNat * 256))
  | .mulh h d a b => some (mkWord h (0x04000003 + d.toNat * 1048576 + a.toNat * 16384 + b.toNat * 256))
  | .mulhn h d a b => some (mkWord h (0x04000004 + d.toNat * 1048576 + a.toNat * 16384 + b.toNat * 256))
  | .div h d a b => some (mkWord h (0x04000005 + d.toNat * 1048576 + a.toNat * 16384 + b.toNat * 256))
  | .divn h d a b => some (mkWord h (0x04000006 + d.toNat * 1048576 + a.toNat * 16384 + b.toNat * 256))
  | .rem h d a b => some (mkWord h (0x04000007 + d.toNat * 1048576 + a.toNat * 16384 + b.toNat * 256))
  | .remn h d a b => some (mkWord h (0x04000008 + d.toNat * 1048576 + a.toNat * 16384 + b.toNat * 256))
  | .andS h d a b => some (mkWord h (0x04000009 + d.toNat * 1048576 + a.toNat * 16384 + b.toNat * 256))
  | .orS h d a b => some (mkWord h (0x0400000A + d.toNat * 1048576 + a.toNat * 16384 + b.toNat * 256))
  | .xorS h d a b => some (mkWord h (0x0400000B + d.toNat * 1048576 + a.toNat * 16384 + b.toNat * 256))
  | .andn h d a b => some (mkWord h (0x0400000C + d.toNat * 1048576 + a.toNat * 16384 + b.toNat * 256))
  | .shl h d a b => some (mkWord h (0x0400000D + d.toNat * 1048576 + a.toNat * 16384 + b.toNat * 256))
  | .shr h d a b => some (mkWord h (0x0400000E + d.toNat * 1048576 + a.toNat * 16384 + b.toNat * 256))
  | .sra h d a b => some (mkWord h (0x0400000F + d.toNat * 1048576 + a.toNat * 16384 + b.toNat * 256))
  | .rol h d a b => some (mkWord h (0x04000010 + d.toNat * 1048576 + a.toNat * 16384 + b.toNat * 256))
  | .ror h d a b => some (mkWord h (0x04000011 + d.toNat * 1048576 + a.toNat * 16384 + b.toNat * 256))
  | .minS h d a b => some (mkWord h (0x04000012 + d.toNat * 1048576 + a.toNat * 16384 + b.toNat * 256))
  | .maxS h d a b => some (mkWord h (0x04000013 + d.toNat * 1048576 + a.toNat * 16384 + b.toNat * 256))
  | .minn h d a b => some (mkWord h (0x04000014 + d.toNat * 1048576 + a.toNat * 16384 + b.toNat * 256))
  | .maxn h d a b => some (mkWord h (0x04000015 + d.toNat * 1048576 + a.toNat * 16384 + b.toNat * 256))
  | .clz h d a => some (mkWord h (0x04000016 + d.toNat * 1048576 + a.toNat * 16384))
  | .ctz h d a => some (mkWord h (0x04000017 + d.toNat * 1048576 + a.toNat * 16384))
  | .popc h d a => some (mkWord h (0x04000018 + d.toNat * 1048576 + a.toNat * 16384))
  | .brev h d a => some (mkWord h (0x04000019 + d.toNat * 1048576 + a.toNat * 16384))
  | .sext h d a b => some (mkWord h (0x0400001A + d.toNat * 1048576 + a.toNat * 16384 + b.toNat * 256))
  | .zext h d a b => some (mkWord h (0x0400001B + d.toNat * 1048576 + a.toNat * 16384 + b.toNat * 256))
  | .cmp h d a b => some (mkWord h (0x0400001C + d.toNat * 1048576 + a.toNat * 16384 + b.toNat * 256))
  | .clmul h d a b => some (mkWord h (0x0400001D + d.toNat * 1048576 + a.toNat * 16384 + b.toNat * 256))
  | .clmulh h d a b => some (mkWord h (0x0400001E + d.toNat * 1048576 + a.toNat * 16384 + b.toNat * 256))
  | .mov h d a => some (mkWord h (0x0400001F + d.toNat * 1048576 + a.toNat * 16384))
  | .addi h d a i => some (mkWord h (0x08000000 + d.toNat * 1048576 + a.toNat * 16384 + i.toNat))
  | .andi h d a i => some (mkWord h (0x08000800 + d.toNat * 1048576 + a.toNat * 16384 + i.toNat))
  | .ori h d a i => some (mkWord h (0x08001000 + d.toNat * 1048576 + a.toNat * 16384 + i.toNat))
  | .xori h d a i => some (mkWord h (0x08001800 + d.toNat * 1048576 + a.toNat * 16384 + i.toNat))
  | .shli h d a i => some (mkWord h (0x08002000 + d.toNat * 1048576 + a.toNat * 16384 + i.toNat))
  | .shri h d a i => some (mkWord h (0x08002800 + d.toNat * 1048576 + a.toNat * 16384 + i.toNat))
  | .srai h d a i => some (mkWord h (0x08003000 + d.toNat * 1048576 + a.toNat * 16384 + i.toNat))
  | .cmpi h d a i => some (mkWord h (0x08003800 + d.toNat * 1048576 + a.toNat * 16384 + i.toNat))
  | .li h d i => some (mkWord h (0x0C000000 + d.toNat * 1048576 + i.toNat))
  | .bt h u p o => some (mkWord h (0x10000000 + u.toNat * 8388608 + p.toNat * 1048576 + o.toNat))
  | .bw h q o => some (mkWord h (0x11000000 + q.toNat * 1048576 + o.toNat))
  | .call h o => some (mkWord h (0x12000000 + o.toNat))
  | .btn h u p o => some (mkWord h (0x13000000 + u.toNat * 8388608 + p.toNat * 1048576 + o.toNat))
  | .jr h a x => some (mkWord h (0x14000000 + a.toNat * 16384 + x.toNat * 128))
  | .callr h a x => some (mkWord h (0x14000001 + a.toNat * 16384 + x.toNat * 128))
  | .ret h => some (mkWord h (0x14000002))
  | .addI32 h d a b x y => some (mkWord h (0x18000000 + d.toNat * 1048576 + a.toNat * 16384 + b.toNat * 256 + x.toNat * 128 + y.toNat * 64))
  | .subI32 h d a b x y => some (mkWord h (0x18000001 + d.toNat * 1048576 + a.toNat * 16384 + b.toNat * 256 + x.toNat * 128 + y.toNat * 64))
  | .mulI32 h d a b x y => some (mkWord h (0x18000002 + d.toNat * 1048576 + a.toNat * 16384 + b.toNat * 256 + x.toNat * 128 + y.toNat * 64))
  | .mulhI32 h d a b x y => some (mkWord h (0x18000003 + d.toNat * 1048576 + a.toNat * 16384 + b.toNat * 256 + x.toNat * 128 + y.toNat * 64))
  | .mulhnI32 h d a b x y => some (mkWord h (0x18000004 + d.toNat * 1048576 + a.toNat * 16384 + b.toNat * 256 + x.toNat * 128 + y.toNat * 64))
  | .minI32 h d a b x y => some (mkWord h (0x18000005 + d.toNat * 1048576 + a.toNat * 16384 + b.toNat * 256 + x.toNat * 128 + y.toNat * 64))
  | .maxI32 h d a b x y => some (mkWord h (0x18000006 + d.toNat * 1048576 + a.toNat * 16384 + b.toNat * 256 + x.toNat * 128 + y.toNat * 64))
  | .minnI32 h d a b x y => some (mkWord h (0x18000007 + d.toNat * 1048576 + a.toNat * 16384 + b.toNat * 256 + x.toNat * 128 + y.toNat * 64))
  | .maxnI32 h d a b x y => some (mkWord h (0x18000008 + d.toNat * 1048576 + a.toNat * 16384 + b.toNat * 256 + x.toNat * 128 + y.toNat * 64))
  | .absI32 h d a x => some (mkWord h (0x18000009 + d.toNat * 1048576 + a.toNat * 16384 + x.toNat * 128))
  | .negI32 h d a x => some (mkWord h (0x1800000A + d.toNat * 1048576 + a.toNat * 16384 + x.toNat * 128))
  | .andI32 h d a b x y => some (mkWord h (0x1800000B + d.toNat * 1048576 + a.toNat * 16384 + b.toNat * 256 + x.toNat * 128 + y.toNat * 64))
  | .orI32 h d a b x y => some (mkWord h (0x1800000C + d.toNat * 1048576 + a.toNat * 16384 + b.toNat * 256 + x.toNat * 128 + y.toNat * 64))
  | .xorI32 h d a b x y => some (mkWord h (0x1800000D + d.toNat * 1048576 + a.toNat * 16384 + b.toNat * 256 + x.toNat * 128 + y.toNat * 64))
  | .andnI32 h d a b x y => some (mkWord h (0x1800000E + d.toNat * 1048576 + a.toNat * 16384 + b.toNat * 256 + x.toNat * 128 + y.toNat * 64))
  | .notI32 h d a x => some (mkWord h (0x1800000F + d.toNat * 1048576 + a.toNat * 16384 + x.toNat * 128))
  | .shlI32 h d a b x y => some (mkWord h (0x18000010 + d.toNat * 1048576 + a.toNat * 16384 + b.toNat * 256 + x.toNat * 128 + y.toNat * 64))
  | .shrI32 h d a b x y => some (mkWord h (0x18000011 + d.toNat * 1048576 + a.toNat * 16384 + b.toNat * 256 + x.toNat * 128 + y.toNat * 64))
  | .sraI32 h d a b x y => some (mkWord h (0x18000012 + d.toNat * 1048576 + a.toNat * 16384 + b.toNat * 256 + x.toNat * 128 + y.toNat * 64))
  | .clzI32 h d a x => some (mkWord h (0x18000013 + d.toNat * 1048576 + a.toNat * 16384 + x.toNat * 128))
  | .popcI32 h d a x => some (mkWord h (0x18000014 + d.toNat * 1048576 + a.toNat * 16384 + x.toNat * 128))
  | .brevI32 h d a x => some (mkWord h (0x18000015 + d.toNat * 1048576 + a.toNat * 16384 + x.toNat * 128))
  | .addsI32 h d a b x y => some (mkWord h (0x18000016 + d.toNat * 1048576 + a.toNat * 16384 + b.toNat * 256 + x.toNat * 128 + y.toNat * 64))
  | .subsI32 h d a b x y => some (mkWord h (0x18000017 + d.toNat * 1048576 + a.toNat * 16384 + b.toNat * 256 + x.toNat * 128 + y.toNat * 64))
  | .addsnI32 h d a b x y => some (mkWord h (0x18000018 + d.toNat * 1048576 + a.toNat * 16384 + b.toNat * 256 + x.toNat * 128 + y.toNat * 64))
  | .subsnI32 h d a b x y => some (mkWord h (0x18000019 + d.toNat * 1048576 + a.toNat * 16384 + b.toNat * 256 + x.toNat * 128 + y.toNat * 64))
  | .cmpeqI32 h d a b x y => some (mkWord h (0x1800001A + d.toNat * 1048576 + a.toNat * 16384 + b.toNat * 256 + x.toNat * 128 + y.toNat * 64))
  | .cmpneI32 h d a b x y => some (mkWord h (0x1800001B + d.toNat * 1048576 + a.toNat * 16384 + b.toNat * 256 + x.toNat * 128 + y.toNat * 64))
  | .cmpltI32 h d a b x y => some (mkWord h (0x1800001C + d.toNat * 1048576 + a.toNat * 16384 + b.toNat * 256 + x.toNat * 128 + y.toNat * 64))
  | .cmpleI32 h d a b x y => some (mkWord h (0x1800001D + d.toNat * 1048576 + a.toNat * 16384 + b.toNat * 256 + x.toNat * 128 + y.toNat * 64))
  | .cmpltnI32 h d a b x y => some (mkWord h (0x1800001E + d.toNat * 1048576 + a.toNat * 16384 + b.toNat * 256 + x.toNat * 128 + y.toNat * 64))
  | .cmplenI32 h d a b x y => some (mkWord h (0x1800001F + d.toNat * 1048576 + a.toNat * 16384 + b.toNat * 256 + x.toNat * 128 + y.toNat * 64))
  | .selI32 h d a b x y => some (mkWord h (0x18000020 + d.toNat * 1048576 + a.toNat * 16384 + b.toNat * 256 + x.toNat * 128 + y.toNat * 64))
  | .movI32 h d a x => some (mkWord h (0x18000021 + d.toNat * 1048576 + a.toNat * 16384 + x.toNat * 128))
  | .movsI32 h d a => some (mkWord h (0x18000022 + d.toNat * 1048576 + a.toNat * 16384))
  | .vclmul h d a b x y => some (mkWord h (0x18000023 + d.toNat * 1048576 + a.toNat * 16384 + b.toNat * 256 + x.toNat * 128 + y.toNat * 64))
  | .vclmulh h d a b x y => some (mkWord h (0x18000024 + d.toNat * 1048576 + a.toNat * 16384 + b.toNat * 256 + x.toNat * 128 + y.toNat * 64))
  | .madI32 h d a b x y => some (mkWord h (0x18000025 + d.toNat * 1048576 + a.toNat * 16384 + b.toNat * 256 + x.toNat * 128 + y.toNat * 64))
  | .addiI32 h d a i => some (mkWord h (0x1C000000 + d.toNat * 1048576 + a.toNat * 16384 + i.toNat))
  | .andiI32 h d a i => some (mkWord h (0x1C000800 + d.toNat * 1048576 + a.toNat * 16384 + i.toNat))
  | .oriI32 h d a i => some (mkWord h (0x1C001000 + d.toNat * 1048576 + a.toNat * 16384 + i.toNat))
  | .xoriI32 h d a i => some (mkWord h (0x1C001800 + d.toNat * 1048576 + a.toNat * 16384 + i.toNat))
  | .shliI32 h d a i => some (mkWord h (0x1C002000 + d.toNat * 1048576 + a.toNat * 16384 + i.toNat))
  | .shriI32 h d a i => some (mkWord h (0x1C002800 + d.toNat * 1048576 + a.toNat * 16384 + i.toNat))
  | .sraiI32 h d a i => some (mkWord h (0x1C003000 + d.toNat * 1048576 + a.toNat * 16384 + i.toNat))
  | .liiI32 h d i => some (mkWord h (0x1C003800 + d.toNat * 1048576 + i.toNat))
  | .addF32 h d a b x y => some (mkWord h (0x20000000 + d.toNat * 1048576 + a.toNat * 16384 + b.toNat * 256 + x.toNat * 128 + y.toNat * 64))
  | .subF32 h d a b x y => some (mkWord h (0x20000001 + d.toNat * 1048576 + a.toNat * 16384 + b.toNat * 256 + x.toNat * 128 + y.toNat * 64))
  | .mulF32 h d a b x y => some (mkWord h (0x20000002 + d.toNat * 1048576 + a.toNat * 16384 + b.toNat * 256 + x.toNat * 128 + y.toNat * 64))
  | .fmaF32 h d a b x y => some (mkWord h (0x20000003 + d.toNat * 1048576 + a.toNat * 16384 + b.toNat * 256 + x.toNat * 128 + y.toNat * 64))
  | .fmsF32 h d a b x y => some (mkWord h (0x20000004 + d.toNat * 1048576 + a.toNat * 16384 + b.toNat * 256 + x.toNat * 128 + y.toNat * 64))
  | .minF32 h d a b x y => some (mkWord h (0x20000005 + d.toNat * 1048576 + a.toNat * 16384 + b.toNat * 256 + x.toNat * 128 + y.toNat * 64))
  | .maxF32 h d a b x y => some (mkWord h (0x20000006 + d.toNat * 1048576 + a.toNat * 16384 + b.toNat * 256 + x.toNat * 128 + y.toNat * 64))
  | .absF32 h d a x => some (mkWord h (0x20000007 + d.toNat * 1048576 + a.toNat * 16384 + x.toNat * 128))
  | .negF32 h d a x => some (mkWord h (0x20000008 + d.toNat * 1048576 + a.toNat * 16384 + x.toNat * 128))
  | .cmpeqF32 h d a b x y => some (mkWord h (0x20000009 + d.toNat * 1048576 + a.toNat * 16384 + b.toNat * 256 + x.toNat * 128 + y.toNat * 64))
  | .cmpltF32 h d a b x y => some (mkWord h (0x2000000A + d.toNat * 1048576 + a.toNat * 16384 + b.toNat * 256 + x.toNat * 128 + y.toNat * 64))
  | .cmpleF32 h d a b x y => some (mkWord h (0x2000000B + d.toNat * 1048576 + a.toNat * 16384 + b.toNat * 256 + x.toNat * 128 + y.toNat * 64))
  | .cmpunF32 h d a b x y => some (mkWord h (0x2000000C + d.toNat * 1048576 + a.toNat * 16384 + b.toNat * 256 + x.toNat * 128 + y.toNat * 64))
  | .copysignF32 h d a b x y => some (mkWord h (0x2000000D + d.toNat * 1048576 + a.toNat * 16384 + b.toNat * 256 + x.toNat * 128 + y.toNat * 64))
  | .addH2 h d a b x y => some (mkWord h (0x20000010 + d.toNat * 1048576 + a.toNat * 16384 + b.toNat * 256 + x.toNat * 128 + y.toNat * 64))
  | .subH2 h d a b x y => some (mkWord h (0x20000011 + d.toNat * 1048576 + a.toNat * 16384 + b.toNat * 256 + x.toNat * 128 + y.toNat * 64))
  | .mulH2 h d a b x y => some (mkWord h (0x20000012 + d.toNat * 1048576 + a.toNat * 16384 + b.toNat * 256 + x.toNat * 128 + y.toNat * 64))
  | .fmaH2 h d a b x y => some (mkWord h (0x20000013 + d.toNat * 1048576 + a.toNat * 16384 + b.toNat * 256 + x.toNat * 128 + y.toNat * 64))
  | .minH2 h d a b x y => some (mkWord h (0x20000014 + d.toNat * 1048576 + a.toNat * 16384 + b.toNat * 256 + x.toNat * 128 + y.toNat * 64))
  | .maxH2 h d a b x y => some (mkWord h (0x20000015 + d.toNat * 1048576 + a.toNat * 16384 + b.toNat * 256 + x.toNat * 128 + y.toNat * 64))
  | .absH2 h d a x => some (mkWord h (0x20000016 + d.toNat * 1048576 + a.toNat * 16384 + x.toNat * 128))
  | .addBf2 h d a b x y => some (mkWord h (0x20000020 + d.toNat * 1048576 + a.toNat * 16384 + b.toNat * 256 + x.toNat * 128 + y.toNat * 64))
  | .subBf2 h d a b x y => some (mkWord h (0x20000021 + d.toNat * 1048576 + a.toNat * 16384 + b.toNat * 256 + x.toNat * 128 + y.toNat * 64))
  | .mulBf2 h d a b x y => some (mkWord h (0x20000022 + d.toNat * 1048576 + a.toNat * 16384 + b.toNat * 256 + x.toNat * 128 + y.toNat * 64))
  | .fmaBf2 h d a b x y => some (mkWord h (0x20000023 + d.toNat * 1048576 + a.toNat * 16384 + b.toNat * 256 + x.toNat * 128 + y.toNat * 64))
  | .minBf2 h d a b x y => some (mkWord h (0x20000024 + d.toNat * 1048576 + a.toNat * 16384 + b.toNat * 256 + x.toNat * 128 + y.toNat * 64))
  | .maxBf2 h d a b x y => some (mkWord h (0x20000025 + d.toNat * 1048576 + a.toNat * 16384 + b.toNat * 256 + x.toNat * 128 + y.toNat * 64))
  | .absBf2 h d a x => some (mkWord h (0x20000026 + d.toNat * 1048576 + a.toNat * 16384 + x.toNat * 128))
  | .cvtF32I32 h d a x => some (mkWord h (0x24000000 + d.toNat * 1048576 + a.toNat * 16384 + x.toNat * 128))
  | .cvtI32F32 h d a x => some (mkWord h (0x24000001 + d.toNat * 1048576 + a.toNat * 16384 + x.toNat * 128))
  | .cvtF32N32 h d a x => some (mkWord h (0x24000002 + d.toNat * 1048576 + a.toNat * 16384 + x.toNat * 128))
  | .cvtN32F32 h d a x => some (mkWord h (0x24000003 + d.toNat * 1048576 + a.toNat * 16384 + x.toNat * 128))
  | .cvtBf2F32 h d a x => some (mkWord h (0x24000004 + d.toNat * 1048576 + a.toNat * 16384 + x.toNat * 128))
  | .cvtF32Bf h d a x => some (mkWord h (0x24000005 + d.toNat * 1048576 + a.toNat * 16384 + x.toNat * 128))
  | .cvtH2F32 h d a x => some (mkWord h (0x24000006 + d.toNat * 1048576 + a.toNat * 16384 + x.toNat * 128))
  | .cvtF32H h d a x => some (mkWord h (0x24000007 + d.toNat * 1048576 + a.toNat * 16384 + x.toNat * 128))
  | .cvtE4x4F32 h d a x => some (mkWord h (0x24000008 + d.toNat * 1048576 + a.toNat * 16384 + x.toNat * 128))
  | .cvtF32E4 h d a x => some (mkWord h (0x24000009 + d.toNat * 1048576 + a.toNat * 16384 + x.toNat * 128))
  | .cvtE5x4F32 h d a x => some (mkWord h (0x2400000A + d.toNat * 1048576 + a.toNat * 16384 + x.toNat * 128))
  | .cvtF32E5 h d a x => some (mkWord h (0x2400000B + d.toNat * 1048576 + a.toNat * 16384 + x.toNat * 128))
  | .cvtQ4F32 h d a b x y => some (mkWord h (0x2400000C + d.toNat * 1048576 + a.toNat * 16384 + b.toNat * 256 + x.toNat * 128 + y.toNat * 64))
  | .cvtF32Q4 h d a b x y => some (mkWord h (0x2400000D + d.toNat * 1048576 + a.toNat * 16384 + b.toNat * 256 + x.toNat * 128 + y.toNat * 64))
  | .rintF32 h d a x => some (mkWord h (0x2400000E + d.toNat * 1048576 + a.toNat * 16384 + x.toNat * 128))
  | .rcp h d a x => some (mkWord h (0x28000000 + d.toNat * 1048576 + a.toNat * 16384 + x.toNat * 128))
  | .sqrt h d a x => some (mkWord h (0x28000001 + d.toNat * 1048576 + a.toNat * 16384 + x.toNat * 128))
  | .rsqrt h d a x => some (mkWord h (0x28000002 + d.toNat * 1048576 + a.toNat * 16384 + x.toNat * 128))
  | .exp2 h d a x => some (mkWord h (0x28000003 + d.toNat * 1048576 + a.toNat * 16384 + x.toNat * 128))
  | .log2 h d a x => some (mkWord h (0x28000004 + d.toNat * 1048576 + a.toNat * 16384 + x.toNat * 128))
  | .sinpi h d a x => some (mkWord h (0x28000005 + d.toNat * 1048576 + a.toNat * 16384 + x.toNat * 128))
  | .cospi h d a x => some (mkWord h (0x28000006 + d.toNat * 1048576 + a.toNat * 16384 + x.toNat * 128))
  | .shfl h d a b x y => some (mkWord h (0x2C000000 + d.toNat * 1048576 + a.toNat * 16384 + b.toNat * 256 + x.toNat * 128 + y.toNat * 64))
  | .shfli h d a n x => some (mkWord h (0x2C000001 + d.toNat * 1048576 + a.toNat * 16384 + n.toNat * 256 + x.toNat * 128))
  | .bfly h d a n x => some (mkWord h (0x2C000002 + d.toNat * 1048576 + a.toNat * 16384 + n.toNat * 256 + x.toNat * 128))
  | .bcast h d a b x => some (mkWord h (0x2C000003 + d.toNat * 1048576 + a.toNat * 16384 + b.toNat * 256 + x.toNat * 128))
  | .xredAdd h d a x => some (mkWord h (0x2C000004 + d.toNat * 1048576 + a.toNat * 16384 + x.toNat * 128))
  | .xredAddf h d a x => some (mkWord h (0x2C000005 + d.toNat * 1048576 + a.toNat * 16384 + x.toNat * 128))
  | .xredMin h d a x => some (mkWord h (0x2C000006 + d.toNat * 1048576 + a.toNat * 16384 + x.toNat * 128))
  | .xredMax h d a x => some (mkWord h (0x2C000007 + d.toNat * 1048576 + a.toNat * 16384 + x.toNat * 128))
  | .xredMinf h d a x => some (mkWord h (0x2C000008 + d.toNat * 1048576 + a.toNat * 16384 + x.toNat * 128))
  | .xredMaxf h d a x => some (mkWord h (0x2C000009 + d.toNat * 1048576 + a.toNat * 16384 + x.toNat * 128))
  | .xredAnd h d a x => some (mkWord h (0x2C00000A + d.toNat * 1048576 + a.toNat * 16384 + x.toNat * 128))
  | .xredOr h d a x => some (mkWord h (0x2C00000B + d.toNat * 1048576 + a.toNat * 16384 + x.toNat * 128))
  | .xredXor h d a x => some (mkWord h (0x2C00000C + d.toNat * 1048576 + a.toNat * 16384 + x.toNat * 128))
  | .scanAdd h d a x => some (mkWord h (0x2C00000D + d.toNat * 1048576 + a.toNat * 16384 + x.toNat * 128))
  | .scanAddf h d a x => some (mkWord h (0x2C00000E + d.toNat * 1048576 + a.toNat * 16384 + x.toNat * 128))
  | .scanXor h d a x => some (mkWord h (0x2C00000F + d.toNat * 1048576 + a.toNat * 16384 + x.toNat * 128))
  | .scanMax h d a x => some (mkWord h (0x2C000010 + d.toNat * 1048576 + a.toNat * 16384 + x.toNat * 128))
  | .matchB h d a x => some (mkWord h (0x2C000011 + d.toNat * 1048576 + a.toNat * 16384 + x.toNat * 128))
  | .matchf h d a x => some (mkWord h (0x2C000012 + d.toNat * 1048576 + a.toNat * 16384 + x.toNat * 128))
  | .ballot h d a => some (mkWord h (0x2C000013 + d.toNat * 1048576 + a.toNat * 16384))
  | .voteAny h d a => some (mkWord h (0x2C000014 + d.toNat * 1048576 + a.toNat * 16384))
  | .voteAll h d a => some (mkWord h (0x2C000015 + d.toNat * 1048576 + a.toNat * 16384))
  | .kand h d a b => some (mkWord h (0x30000000 + d.toNat * 1048576 + a.toNat * 16384 + b.toNat * 256))
  | .kor h d a b => some (mkWord h (0x30000001 + d.toNat * 1048576 + a.toNat * 16384 + b.toNat * 256))
  | .kxor h d a b => some (mkWord h (0x30000002 + d.toNat * 1048576 + a.toNat * 16384 + b.toNat * 256))
  | .knot h d a => some (mkWord h (0x30000003 + d.toNat * 1048576 + a.toNat * 16384))
  | .kmov h d a => some (mkWord h (0x30000004 + d.toNat * 1048576 + a.toNat * 16384))
  | .kfromp h d a => some (mkWord h (0x30000005 + d.toNat * 1048576 + a.toNat * 16384))
  | .ktop h d a => some (mkWord h (0x30000006 + d.toNat * 1048576 + a.toNat * 16384))
  | .kpop h d a => some (mkWord h (0x30000007 + d.toNat * 1048576 + a.toNat * 16384))
  | .kfirst h d a => some (mkWord h (0x30000008 + d.toNat * 1048576 + a.toNat * 16384))
  | .kfs h d a => some (mkWord h (0x30000009 + d.toNat * 1048576 + a.toNat * 16384))
  | .ksk h d a => some (mkWord h (0x3000000A + d.toNat * 1048576 + a.toNat * 16384))
  | .draw h d b => some (mkWord h (0x34000000 + d.toNat * 1048576 + b.toNat * 256))
  | .rhash h d a b x y => some (mkWord h (0x34000001 + d.toNat * 1048576 + a.toNat * 16384 + b.toNat * 256 + x.toNat * 128 + y.toNat * 64))
  | .sdiset h a x => some (mkWord h (0x34000002 + a.toNat * 16384 + x.toNat * 128))
  | .sdiget h d => some (mkWord h (0x34000003 + d.toNat * 1048576))
  | .ldB h d s n r g => some (mkWord h (0x38000000 + d.toNat * 1048576 + s.toNat * 16384 + n.toNat * 256 + r.toNat * 8 + g.toNat))
  | .ldBn h d s n r g => some (mkWord h (0x38000020 + d.toNat * 1048576 + s.toNat * 16384 + n.toNat * 256 + r.toNat * 8 + g.toNat))
  | .ldH h d s n r g => some (mkWord h (0x38000040 + d.toNat * 1048576 + s.toNat * 16384 + n.toNat * 256 + r.toNat * 8 + g.toNat))
  | .ldHn h d s n r g => some (mkWord h (0x38000060 + d.toNat * 1048576 + s.toNat * 16384 + n.toNat * 256 + r.toNat * 8 + g.toNat))
  | .ldW h d s n r g => some (mkWord h (0x38000080 + d.toNat * 1048576 + s.toNat * 16384 + n.toNat * 256 + r.toNat * 8 + g.toNat))
  | .ldD h d s n r g => some (mkWord h (0x380000A0 + d.toNat * 1048576 + s.toNat * 16384 + n.toNat * 256 + r.toNat * 8 + g.toNat))
  | .ldDec h d s n r g => some (mkWord h (0x380000C0 + d.toNat * 1048576 + s.toNat * 16384 + n.toNat * 256 + r.toNat * 8 + g.toNat))
  | .ldRaw h d s n r g => some (mkWord h (0x380000E0 + d.toNat * 1048576 + s.toNat * 16384 + n.toNat * 256 + r.toNat * 8 + g.toNat))
  | .stB h d s n r g => some (mkWord h (0x3C000000 + d.toNat * 1048576 + s.toNat * 16384 + n.toNat * 256 + r.toNat * 8 + g.toNat))
  | .stH h d s n r g => some (mkWord h (0x3C000020 + d.toNat * 1048576 + s.toNat * 16384 + n.toNat * 256 + r.toNat * 8 + g.toNat))
  | .stW h d s n r g => some (mkWord h (0x3C000040 + d.toNat * 1048576 + s.toNat * 16384 + n.toNat * 256 + r.toNat * 8 + g.toNat))
  | .stD h d s n r g => some (mkWord h (0x3C000060 + d.toNat * 1048576 + s.toNat * 16384 + n.toNat * 256 + r.toNat * 8 + g.toNat))
  | .stRaw h d s n r g => some (mkWord h (0x3C000080 + d.toNat * 1048576 + s.toNat * 16384 + n.toNat * 256 + r.toNat * 8 + g.toNat))
  | .sldW h d a b x => some (mkWord h (0x40000000 + d.toNat * 1048576 + a.toNat * 16384 + b.toNat * 256 + x.toNat * 128))
  | .sldH h d a b x => some (mkWord h (0x40000001 + d.toNat * 1048576 + a.toNat * 16384 + b.toNat * 256 + x.toNat * 128))
  | .sldB h d a b x => some (mkWord h (0x40000002 + d.toNat * 1048576 + a.toNat * 16384 + b.toNat * 256 + x.toNat * 128))
  | .sstW h d a b x => some (mkWord h (0x40000003 + d.toNat * 1048576 + a.toNat * 16384 + b.toNat * 256 + x.toNat * 128))
  | .sstH h d a b x => some (mkWord h (0x40000004 + d.toNat * 1048576 + a.toNat * 16384 + b.toNat * 256 + x.toNat * 128))
  | .sstB h d a b x => some (mkWord h (0x40000005 + d.toNat * 1048576 + a.toNat * 16384 + b.toNat * 256 + x.toNat * 128))
  | .bdecl h a b => some (mkWord h (0x40000006 + a.toNat * 16384 + b.toNat * 256))
  | .bsetEmpty h a => some (mkWord h (0x40000007 + a.toNat * 16384))
  | .bsetFull h a => some (mkWord h (0x40000107 + a.toNat * 16384))
  | .bstat h d a => some (mkWord h (0x40000008 + d.toNat * 1048576 + a.toNat * 16384))
  | .sldDec h d a b x => some (mkWord h (0x40000009 + d.toNat * 1048576 + a.toNat * 16384 + b.toNat * 256 + x.toNat * 128))
  | .atomAdd h d s n g => some (mkWord h (0x44000000 + d.toNat * 1048576 + s.toNat * 16384 + n.toNat * 256 + g.toNat * 2))
  | .atomAddD h d s n g => some (mkWord h (0x44000010 + d.toNat * 1048576 + s.toNat * 16384 + n.toNat * 256 + g.toNat * 2))
  | .atomMin h d s n g => some (mkWord h (0x44000020 + d.toNat * 1048576 + s.toNat * 16384 + n.toNat * 256 + g.toNat * 2))
  | .atomMax h d s n g => some (mkWord h (0x44000030 + d.toNat * 1048576 + s.toNat * 16384 + n.toNat * 256 + g.toNat * 2))
  | .atomMinn h d s n g => some (mkWord h (0x44000040 + d.toNat * 1048576 + s.toNat * 16384 + n.toNat * 256 + g.toNat * 2))
  | .atomMaxn h d s n g => some (mkWord h (0x44000050 + d.toNat * 1048576 + s.toNat * 16384 + n.toNat * 256 + g.toNat * 2))
  | .atomAnd h d s n g => some (mkWord h (0x44000060 + d.toNat * 1048576 + s.toNat * 16384 + n.toNat * 256 + g.toNat * 2))
  | .atomOr h d s n g => some (mkWord h (0x44000070 + d.toNat * 1048576 + s.toNat * 16384 + n.toNat * 256 + g.toNat * 2))
  | .atomXor h d s n g => some (mkWord h (0x44000080 + d.toNat * 1048576 + s.toNat * 16384 + n.toNat * 256 + g.toNat * 2))
  | .atomXchg h d s n g => some (mkWord h (0x44000090 + d.toNat * 1048576 + s.toNat * 16384 + n.toNat * 256 + g.toNat * 2))
  | .atomCas h d s n g => some (mkWord h (0x440000A0 + d.toNat * 1048576 + s.toNat * 16384 + n.toNat * 256 + g.toNat * 2))
  | .atomCasD h d s n g => some (mkWord h (0x440000B0 + d.toNat * 1048576 + s.toNat * 16384 + n.toNat * 256 + g.toNat * 2))
  | .atomFadd h d s n g => some (mkWord h (0x440000C0 + d.toNat * 1048576 + s.toNat * 16384 + n.toNat * 256 + g.toNat * 2))
  | .atomFaddBf2 h d s n g => some (mkWord h (0x440000D0 + d.toNat * 1048576 + s.toNat * 16384 + n.toNat * 256 + g.toNat * 2))
  | .atomFmin h d s n g => some (mkWord h (0x440000E0 + d.toNat * 1048576 + s.toNat * 16384 + n.toNat * 256 + g.toNat * 2))
  | .atomFmax h d s n g => some (mkWord h (0x440000F0 + d.toNat * 1048576 + s.toNat * 16384 + n.toNat * 256 + g.toNat * 2))
  | .redAdd h d s n g => some (mkWord h (0x48000000 + d.toNat * 1048576 + s.toNat * 16384 + n.toNat * 256 + g.toNat * 2))
  | .redAddD h d s n g => some (mkWord h (0x48000010 + d.toNat * 1048576 + s.toNat * 16384 + n.toNat * 256 + g.toNat * 2))
  | .redMin h d s n g => some (mkWord h (0x48000020 + d.toNat * 1048576 + s.toNat * 16384 + n.toNat * 256 + g.toNat * 2))
  | .redMax h d s n g => some (mkWord h (0x48000030 + d.toNat * 1048576 + s.toNat * 16384 + n.toNat * 256 + g.toNat * 2))
  | .redMinn h d s n g => some (mkWord h (0x48000040 + d.toNat * 1048576 + s.toNat * 16384 + n.toNat * 256 + g.toNat * 2))
  | .redMaxn h d s n g => some (mkWord h (0x48000050 + d.toNat * 1048576 + s.toNat * 16384 + n.toNat * 256 + g.toNat * 2))
  | .redAnd h d s n g => some (mkWord h (0x48000060 + d.toNat * 1048576 + s.toNat * 16384 + n.toNat * 256 + g.toNat * 2))
  | .redOr h d s n g => some (mkWord h (0x48000070 + d.toNat * 1048576 + s.toNat * 16384 + n.toNat * 256 + g.toNat * 2))
  | .redXor h d s n g => some (mkWord h (0x48000080 + d.toNat * 1048576 + s.toNat * 16384 + n.toNat * 256 + g.toNat * 2))
  | .redFadd h d s n g => some (mkWord h (0x48000090 + d.toNat * 1048576 + s.toNat * 16384 + n.toNat * 256 + g.toNat * 2))
  | .redFaddBf2 h d s n g => some (mkWord h (0x480000A0 + d.toNat * 1048576 + s.toNat * 16384 + n.toNat * 256 + g.toNat * 2))
  | .fenceAcq h g => some (mkWord h (0x4C000000 + g.toNat * 2048))
  | .fenceRel h g => some (mkWord h (0x4C000100 + g.toNat * 2048))
  | .fenceFull h g => some (mkWord h (0x4C000200 + g.toNat * 2048))
  | .ifb h => some (mkWord h (0x4C000300))
  | .bar h a => some (mkWord h (0x4C000001 + a.toNat * 16384))
  | .barArv h a => some (mkWord h (0x4C000002 + a.toNat * 16384))
  | .barWt h a => some (mkWord h (0x4C000003 + a.toNat * 16384))
  | .semSig h a b => some (mkWord h (0x4C000004 + a.toNat * 16384 + b.toNat * 256))
  | .semWait h a b => some (mkWord h (0x4C000005 + a.toNat * 16384 + b.toNat * 256))
  | .tlwait h g a b => some (mkWord h (0x4C000006 + g.toNat * 1048576 + a.toNat * 16384 + b.toNat * 256))
  | .txb h d => some (mkWord h (0x4C000007 + d.toNat * 1048576))
  | .txe h => some (mkWord h (0x4C000008))
  | .txa h a => some (mkWord h (0x4C000009 + a.toNat * 16384))
  | .wlput h d a b x y => some (mkWord h (0x4C00000A + d.toNat * 1048576 + a.toNat * 16384 + b.toNat * 256 + x.toNat * 128 + y.toNat * 64))
  | .wlget h d => some (mkWord h (0x4C00000B + d.toNat * 1048576))
  | .amrecv h d a => some (mkWord h (0x4C00000C + d.toNat * 1048576 + a.toNat * 16384))
  | .bwaitDrained h a => some (mkWord h (0x4C00000D + a.toNat * 16384))
  | .bwaitFull h a => some (mkWord h (0x4C00010D + a.toNat * 16384))
  | .mmaBf h d a b x y => some (mkWord h (0x50000000 + d.toNat * 1048576 + a.toNat * 16384 + b.toNat * 256 + x.toNat * 128 + y.toNat * 64))
  | .mmaH h d a b x y => some (mkWord h (0x50000001 + d.toNat * 1048576 + a.toNat * 16384 + b.toNat * 256 + x.toNat * 128 + y.toNat * 64))
  | .mmaE4 h d a b x y => some (mkWord h (0x50000002 + d.toNat * 1048576 + a.toNat * 16384 + b.toNat * 256 + x.toNat * 128 + y.toNat * 64))
  | .mmaE5 h d a b x y => some (mkWord h (0x50000003 + d.toNat * 1048576 + a.toNat * 16384 + b.toNat * 256 + x.toNat * 128 + y.toNat * 64))
  | .mmaE4e5 h d a b x y => some (mkWord h (0x50000004 + d.toNat * 1048576 + a.toNat * 16384 + b.toNat * 256 + x.toNat * 128 + y.toNat * 64))
  | .mmaQ4 h d a b x y => some (mkWord h (0x50000005 + d.toNat * 1048576 + a.toNat * 16384 + b.toNat * 256 + x.toNat * 128 + y.toNat * 64))
  | .mmaI8 h d a b x y => some (mkWord h (0x50000006 + d.toNat * 1048576 + a.toNat * 16384 + b.toNat * 256 + x.toNat * 128 + y.toNat * 64))
  | .mzero h d => some (mkWord h (0x50000007 + d.toNat * 1048576))
  | .mld h d a b => some (mkWord h (0x50000008 + d.toNat * 1048576 + a.toNat * 16384 + b.toNat * 256))
  | .mstReg h d a => some (mkWord h (0x50000009 + d.toNat * 1048576 + a.toNat * 16384))
  | .mstBuf h d a b => some (mkWord h (0x50000009 + d.toNat * 1048576 + a.toNat * 16384 + b.toNat * 256))
  | .mwait h a => some (mkWord h (0x5000000A + a.toNat * 16384))
  | .mloop h d a b => some (mkWord h (0x54000000 + d.toNat * 1048576 + a.toNat * 16384 + b.toNat * 256))
  | .mconv h d a b => some (mkWord h (0x54000001 + d.toNat * 1048576 + a.toNat * 16384 + b.toNat * 256))
  | .kick h d a b => some (mkWord h (0x58000000 + d.toNat * 1048576 + a.toNat * 16384 + b.toNat * 256))
  | .vchain h d a b => some (mkWord h (0x58000001 + d.toNat * 1048576 + a.toNat * 16384 + b.toNat * 256))
  | .pair h d a b => some (mkWord h (0x58000002 + d.toNat * 1048576 + a.toNat * 16384 + b.toNat * 256))
  | .pairResume h d a b => some (mkWord h (0x58000003 + d.toNat * 1048576 + a.toNat * 16384 + b.toNat * 256))
  | .lnch h d a b => some (mkWord h (0x58000004 + d.toNat * 1048576 + a.toNat * 16384 + b.toNat * 256))
  | .estat h d a n => some (mkWord h (0x58000005 + d.toNat * 1048576 + a.toNat * 16384 + n.toNat * 256))
  | .csend h d a b => some (mkWord h (0x5C000000 + d.toNat * 1048576 + a.toNat * 16384 + b.toNat * 256))
  | .crecv h d a b => some (mkWord h (0x5C000001 + d.toNat * 1048576 + a.toNat * 16384 + b.toNat * 256))
  | .cred h d a b => some (mkWord h (0x5C000002 + d.toNat * 1048576 + a.toNat * 16384 + b.toNat * 256))
  | .amsend h d a b x => some (mkWord h (0x5C000003 + d.toNat * 1048576 + a.toNat * 16384 + b.toNat * 256 + x.toNat * 128))
  | .rfe h a => some (mkWord h (0x78000000 + a.toNat * 16384))
  | .resume h a => some (mkWord h (0x78000001 + a.toNat * 16384))
  | .ctxrd h d a b => some (mkWord h (0x78000002 + d.toNat * 1048576 + a.toNat * 16384 + b.toNat * 256))
  | .ctxwr h d a b => some (mkWord h (0x78000003 + d.toNat * 1048576 + a.toNat * 16384 + b.toNat * 256))
  | .tlbinv h d a b => some (mkWord h (0x78000004 + d.toNat * 1048576 + a.toNat * 16384 + b.toNat * 256))
  | .psrd h d a => some (mkWord h (0x78000005 + d.toNat * 1048576 + a.toNat * 16384))
  | .pswr h a b => some (mkWord h (0x78000006 + a.toNat * 16384 + b.toNat * 256))
  | .idle h a => some (mkWord h (0x78000007 + a.toNat * 16384))
  | .rtwr h d a => some (mkWord h (0x78000008 + d.toNat * 1048576 + a.toNat * 16384))
  | .sealBlock h a => some (mkWord h (0x78000009 + a.toNat * 16384))
  | .halt h a => some (mkWord h (0x7800000A + a.toNat * 16384))
  | .wake h a => some (mkWord h (0x7800000B + a.toNat * 16384))
  | .memoryWritePerform _ => none
  | .atomicPerform _ _ _ _ => none
  | .txCommitValidate _ _ _ => none
  | .wlputAnswer _ _ => none
  | .launchQuiet _ => none
  | .mstBufferComplete _ => none
  | .matrixOpComplete _ => none
  | .streamStartPhaseEnd _ _ => none
  | .copyJobStart _ _ _ => none
  | .fillSectorArrival _ _ _ _ => none
  | .copyJobRetire _ _ _ => none
  | .chainJobRetire _ _ _ => none
  | .pairJobStart _ => none
  | .pairJobSuspend _ _ _ => none
  | .pairJobRetire _ _ _ => none
  | .fabricInstanceComplete _ _ _ => none
  | .amArrival _ => none
  | .amsendJobRetire _ _ _ => none
  | .packetDecode _ _ _ => none
  | .waveSwap _ _ => none
  | .forcedSwap _ => none
  | .replyWrite _ _ _ _ _ => none
  | .regLineFill _ _ _ => none
  | .pageWalk _ _ _ _ => none
  | .commitTokenHandoff _ => none
  | .asyncCauseTake _ => none
  | .qtailWrite _ _ _ _ _ => none
  | .queueEnable _ _ _ _ _ => none
  | .queueDisable _ _ _ _ _ => none
  | .queueRetry _ _ _ _ _ => none
  | .queueSkip _ _ _ _ _ => none
  | .launchTake _ _ _ => none
  | .blockPlace _ _ => none
  | .blockEnd _ => none
  | .launchComplete _ => none
  | .preempt _ => none
  | .blockHalt _ _ => none
  | .blockStopped _ => none
  | .droneWrite _ _ _ _ _ => none
  | .dronePlace _ _ => none
  | .watchdog _ => none
  | .externalStall _ _ => none
  | .repeatTrap _ => none
  | .flitDrop _ _ _ _ => none
  | .tlbinvJobComplete _ _ _ => none
  | .contextTeardown _ => none
  | .splitcfgWrite _ _ _ _ => none
  | .semownWrite _ _ _ _ => none
  | .pstateCmdRun _ _ _ => none
  | .pstateCmdFreeze _ _ _ => none
  | .pstateCmdStop _ _ _ => none
  | .pstateCmdDrain _ _ _ => none
  | .pstateCmdFlush _ _ _ => none
  | .pstateCmdRemap _ _ _ => none
  | .quiesceStateDone _ => none
  | .tileProbe _ _ => none
  | .shapereqGrow _ _ => none
  | .shapereqShrink _ _ => none
  | .shapereqCompact _ _ => none
  | .shapereqMigrate _ _ => none
  | .doorbell _ _ => none
  | .killWave _ _ => none
  | .killBlock _ _ => none
  | .partitionReset _ => none
  | .partitionResetComplete _ => none
  | .ldReset _ => none
  | .stopInterface _ => none
  | .msixUnmask _ _ => none
  | .inboundMemoryRequest _ => none
  | .feataccWrite _ _ _ => none
  | .keyCreate _ _ => none
  | .keyDestroy _ _ => none
  | .edgeReqOff _ _ _ => none
  | .edgeReqCxl _ _ _ => none
  | .edgeReqUalink _ _ _ => none
  | .edgeReqUltraEthernet _ _ _ => none
  | .edgeDrainComplete _ => none
  | .edgeTrainComplete _ _ _ => none
  | .edgeTrainTimeout _ => none
  | .edgeEnumComplete _ => none
  | .linkLost _ => none
  | .hbmReset _ _ _ => none
  | .hbmZqcal _ _ _ => none
  | .hbmCatrain _ _ _ => none
  | .hbmRdtrain _ _ _ => none
  | .hbmWrtrain _ _ _ => none
  | .hbmRepair _ _ _ => none
  | .hbmMemtest _ _ _ => none
  | .hbmEnable _ _ _ => none
  | .hbmOpComplete _ _ _ => none
  | .patrolScrub _ _ _ => none
  | .bistGo _ _ => none
  | .bistComplete _ => none
  | .timeRun _ _ => none
  | .freqChangeRequest _ _ => none
  | .freqChangeApply => none
  | .limiterCheck _ _ => none
  | .thermalTrip _ _ => none
  | .railWrite _ _ _ => none
  | .railPgood _ _ => none
  | .idcheck _ _ => none
  | .verifyxip _ _ => none
  | .securityOpComplete _ _ => none
  | .xipLock _ _ => none
  | .loadgo _ _ => none
  | .rimrun _ _ => none
  | .moduleReset => none
  | .mepRead _ => none
  | .mepWrite _ => none
  | .mepReset _ => none
  | .getVersion _ _ => none
  | .getCapabilities _ _ => none
  | .negotiateAlgorithms _ _ => none
  | .getDigests _ _ => none
  | .getCertificate _ _ => none
  | .challenge _ _ => none
  | .getMeasurements _ _ _ => none
  | .setCertificate _ _ => none
  | .registerWrite _ _ _ => none
  | .reservedEncodingIssue _ => none
  | .powerOn => none
  | .idleTimeReached _ _ => none
  | .ualinkSemaphoreDoorbell _ _ => none
  | .mepBadcmd _ => none
  | .tdispLockInterface _ => none
  | .tdispStartInterface _ => none

/-- The words of an instruction: the modifier word if there is one, then the immediate word if there is one, then the
instruction word (R179). -/
def encode (i : Instr) : List W32 :=
  match i.word with
  | none => []
  | some w => (i.hdr.modw.map modWord).toList ++ (i.hdr.imm.map immWord).toList ++ [w]

noncomputable section

/-- The instruction that the decoder reads from a word of the opcode table (no extension words bound): every row is one
32-bit word, so the bits above `nbits` of what stands there are those of the words after it. -/
def decodeTableWord (nbits w : Nat) : Option Instr :=
  match decodeWords [BitVec.ofNat 32 (w % 2 ^ nbits), 0, 0] with
  | .error _ => none
  | .ok (i, _) => some i

end

end Sys2Proof
end

