-- ==== Sys2Proof/Machine/Packet.lean ====
section
/-! DEFINITION. Packets (07 R160 to R165, R171, R479): the words that a thread's PC enters, the checks of a packet, its issue groups,
and the words that are no instruction. -/

namespace Sys2Proof.Machine

/-! ### The issue stage -/

/-- Loads a wave into the issue stage, its issued lanes already standing after the group. -/
def State.load (s : State) (uid wid : Nat) (lanes : Lanes) (pc next : Nat) : State :=
  let b := s.blocks.get uid {}
  let w := b.waves[wid]?.getD {}
  { s with wv := w.setPcs lanes next, pre := w, bk := b,
           cur := { on := true, uid := uid, wid := wid, lanes := lanes, pc := pc, wordPc := pc, next := next } }

/-- Stores the issue stage back. -/
def State.store (s : State) : State :=
  let b := { s.bk with waves := s.bk.waves.set s.cur.wid s.wv }
  { s with blocks := s.blocks.set s.cur.uid b {}, wv := {}, pre := {}, bk := {}, cur := {} }

/-- The faults that every issued lane takes before its group runs. -/
def State.allLanesFault (s : State) (c : Cause) (ebad : Nat → W64) : State :=
  if s.wv.skidding then s.stopSkid
  else s.takeFaults ((lanesOf s.cur.lanes).map (fun L => ⟨L, c, ebad L, true, none⟩))

/-- May a wave issue now (R36, R358)? A held cause is taken before any issue, but not while the block stops for another (R300, R357). A cause
that another wave met at issue in this clk does not keep a wave from issuing in it (R357). -/
def State.mayIssue (s : State) (uid wid : Nat) : Bool :=
  let b := s.blocks.get uid {}
  let w := b.waves[wid]?.getD {}
  !w.ended && !w.stopped && !w.refence && w.active && b.resident && b.state == .running &&
    (((b.stopping == .no || b.trapsAt s.clk) && b.held.isEmpty) || (b.stopping != .no && b.broadcast && w.skidding))

/-! ### Packets and groups -/

/-- Has a packet one of the first four faults of R163? -/
def packetBad (ws : List W32) : Bool :=
  let w := fun i => ws.getD i 0
  let ext := fun i => isExt (w i)
  ext 2 || (ext 0 && bit (w 0) 31) || (ext 1 && bit (w 1) 31) || bit (w 2) 31 ||
    (ext 0 && ext 1 && isImmWord (w 0) == isImmWord (w 1))

/-- Is a word the first of an issue group in its packet (R165)? -/
def startsGroup (ws : List W32) (i : Nat) : Bool :=
  i == 0 || !(isExt (ws.getD (i - 1) 0) || bit (ws.getD (i - 1) 0) 31)

/-- Is the instruction word `nop` (R171)? -/
def isNop (w : W32) : Bool := w &&& 0x7FFFFFFF == 0

/-- The least unassigned minor of a major, where the minors below it are all assigned (R171); 64 where none is unassigned. -/
def minorsOf (m : Nat) : Nat :=
  match m with
  | 0 => 9 | 1 => 32 | 5 => 3 | 6 => 38 | 9 => 15 | 10 => 7 | 11 => 22 | 12 => 11 | 13 => 4 | 16 => 10 | 19 => 14
  | 20 => 11 | 21 => 2 | 22 => 6 | 23 => 4 | 30 => 12 | _ => 64

/-- Is a word of an assigned major and minor (R170, R171)? -/
def assigned (w : W32) : Bool :=
  let m := (fld w 26 5).toNat
  let n := (fld w 0 6).toNat
  if 24 ≤ m ∧ m ≤ 29 then false
  else if m = 8 then n ≤ 13 || (16 ≤ n && n ≤ 22) || (32 ≤ n && n ≤ 38)
  else if m = 15 then (fld w 5 3).toNat ≤ 4
  else if m = 18 then (fld w 4 4).toNat ≤ 10
  else n < minorsOf m

/-- The pipe of a word (R162); a reserved major and an unassigned minor have none. -/
def wordPipe (w : W32) : Option Pipe :=
  let m := (fld w 26 5).toNat
  if !assigned w then none
  else if m = 0 then (if (fld w 0 6).toNat = 0 then none else if (fld w 0 6).toNat = 8 then some .m else some .s)
  else if m ≤ 5 ∨ m = 12 ∨ m = 30 then some .s
  else if m = 9 ∨ m = 10 then some .f
  else if m ≤ 8 ∨ m = 11 ∨ m = 13 then some .v
  else if m ≤ 19 then some .m
  else some .x

/-- The instruction words of the issue group that stands first (R161). -/
def groupWords : List W32 → List W32
  | [] => []
  | w :: r => if isExt w then groupWords r else if bit w 31 then w :: groupWords r else [w]

/-- Do two instructions of a group go to one pipe (R163, check 5)? -/
def pipesClash : List W32 → Bool
  | [] => false
  | w :: r => (wordPipe w).isSome && r.any (fun x => wordPipe x == wordPipe w) || pipesClash r

/-- Does a group of a packet hold two instructions of one pipe? -/
def anyClash : List W32 → Bool
  | [] => false
  | w :: r => pipesClash (groupWords (w :: r)) || anyClash r

/-- The kind that a word's major and minor give (R170); a word of neither is per-thread. -/
def wordKind (w : W32) : Kind :=
  let m := (fld w 26 5).toNat
  let n := (fld w 0 6).toNat
  if !assigned w then .perThread
  else if m = 11 then .memberMasked
  else if (1 ≤ m ∧ m ≤ 3) ∨ m = 12 ∨ m ≥ 20 then .waveLevel
  else if m = 0 ∧ (n = 1 ∨ n = 6 ∨ n = 7) then .waveLevel
  else if m = 0 ∧ n = 5 ∧ laneHeld (fld w 14 6).toNat = false then .waveLevel
  else if m = 4 ∧ ((fld w 24 2).toNat = 1 ∨ ((fld w 24 2).toNat ≠ 2 ∧ bit w 23 = true)) then .waveLevel
  else if m = 16 ∧ 6 ≤ n ∧ n ≤ 8 then .waveLevel
  else if m = 19 ∧ 1 ≤ n ∧ n ≤ 5 then .waveLevel
  else .perThread

/-! ### Destinations (R164) -/

/-- The keys of a span of vector registers; they lie above the keys of everything else. -/
def vecKeys (w : Wave) (d : BitVec 6) (n : Nat) : List Nat := (List.range n).map (fun i => 10000 + w.vnum d + i)
/-- The key of a scalar register, none for s0. -/
def scalKey (d : BitVec 6) : List Nat := if d = 0 then [] else [2000 + d.toNat]
/-- The key of a predicate, none for p7. -/
def predKey (d : BitVec 6) : List Nat := if d = 7 then [] else [3000 + d.toNat]
/-- The keys of a mask, none for k0, and of KZ. -/
def maskKeys (d : BitVec 6) (kz : Bool) : List Nat := (if d = 0 then [] else [4000 + d.toNat]) ++ (if kz then [4100] else [])
/-- The key of a special register. -/
def srKey (n : Nat) : List Nat := [5000 + n]
/-- The key of the condition codes. -/
def codeKey : List Nat := [6000]

/-- The destinations of an instruction, by the major and the fields of its word. -/
def destKeys (w : Wave) (x : W32) : List Nat :=
  let d := fld x 20 6
  let n := (fld x 0 6).toNat
  match (fld x 26 5).toNat with
  | 0 =>
    (match n with
      | 5 => if laneHeld (fld x 14 6).toNat then vecKeys w d 1 else scalKey d
      | 6 => srKey d.toNat
      | 7 => srKey 5
      | 8 => vecKeys w d 2
      | _ => [])
  | 1 => scalKey d ++ (if n = 28 then codeKey else [])
  | 2 => scalKey d ++ (if (fld x 11 3).toNat = 7 then codeKey else [])
  | 3 => scalKey d
  | 6 => if 26 ≤ n ∧ n ≤ 31 then predKey d else vecKeys w d 1
  | 7 => vecKeys w d 1
  | 8 => if 9 ≤ n ∧ n ≤ 12 then predKey d else vecKeys w d 1
  | 9 => vecKeys w d (if n = 5 ∨ n = 7 then 2 else if n = 9 ∨ n = 11 ∨ n = 13 then 4 else 1)
  | 10 => vecKeys w d 1
  | 11 => if n = 19 then maskKeys d false else if n ≥ 20 then predKey d else vecKeys w d (if n ≥ 17 then 2 else 1)
  | 12 =>
    (match n with
      | 6 => predKey d
      | 7 => scalKey d
      | 8 => scalKey d
      | _ => maskKeys d true)
  | 13 =>
    (match n with
      | 0 => vecKeys w d (fld x 8 6).toNat ++ srKey 6
      | 2 => srKey 6
      | _ => vecKeys w d 1)
  | 14 => vecKeys w d (if (fld x 5 3).toNat = 5 ∨ (fld x 5 3).toNat = 6 then 2 else 1)
  | 16 => if n ≤ 2 then vecKeys w d 1 else if n = 8 then scalKey d else if n = 9 then vecKeys w d 2 else []
  | 17 => vecKeys w d (if (fld x 4 4).toNat = 1 ∨ (fld x 4 4).toNat = 11 then 2 else 1)
  | 19 =>
    (match n with
      | 7 => predKey d
      | 10 => predKey d
      | 11 => vecKeys w d 3
      | 12 => vecKeys w d 3
      | _ => [])
  | 20 => if n = 9 ∧ fld x 8 6 = 0 then vecKeys w d 48 else []
  | 22 => scalKey d
  | 23 => if n = 1 then vecKeys w d 1 else scalKey d
  | 30 => if n = 2 ∨ n = 4 ∨ n = 5 ∨ n = 8 then scalKey d else []
  | _ => []

/-- RESERVED_ENCODING_ISSUE: ILLEGAL_INSTRUCTION for every lane that the group issues for (R171, R183). -/
def execReservedEncodingIssue (word : W32) (s : State) : Out := .next <|
  if s.wv.skidding then s.stopSkid
  else
    s.takeFaults ((lanesOf s.cur.lanes).map (fun L =>
      ⟨L, .illegalInstruction, word.zeroExtend 64, decide (wordKind word = .perThread), none⟩))

/-! ### Entering a packet (R163, R479) -/

/-- The line of the image that holds an address. -/
def State.lineAt (s : State) (a : Nat) : Nat := (a - s.xipBase) / 192

/-- A rim core checks the lines of a packet of the image before it uses them: the state with what it verified, or the line that
failed. -/
def State.verifyPacket (s : State) (b : Block) (p : Nat) : Except Nat State :=
  if b.die ≠ 64 ∨ p ≥ 2 ^ 48 then .ok s
  else
    match s.verifyLine (s.lineAt p) with
    | none => .error (s.lineAt p)
    | some t =>
      match t.verifyLine (t.lineAt (p + 11)) with
      | none => .error (t.lineAt (p + 11))
      | some u => .ok u

/-- What stops lanes that enter the packet at `p`: nothing, a wait, or a fault with its `ebad`. -/
def State.packetStop (s : State) (w : Who) (p : Nat) : Option Stop :=
  match s.packet w p with
  | .error x => some x
  | .ok ws =>
    if packetBad ws || anyClash ws then
      some (.fault .illegalEncoding (BitVec.ofNat 64 p))
    else none

/-- The lines of a packet's words are kept in the quarter's instruction cache. -/
def State.keepPacket (s : State) (w : Who) (p : Nat) : State := [p, p + 4, p + 8].foldl (State.keepCode · w ·) s

/-- PACKET_DECODE: the threads at a lane's PC enter its packet; its lines are kept for their fetches (R156). -/
def execPacketDecode (uid wid lane : Nat) (s : State) : Out := .next <|
  let b := s.block uid
  let w := s.wave uid wid
  let pc := w.pcOf lane
  let p := packetOf pc
  if !s.mayIssue uid wid || !laneIn w.live lane then s
  else
    match s.packetStop (b.who w) p with
    | some (.fault c e) =>
      ((s.load uid wid (maskOf (fun L => laneIn w.live L && w.pcOf L == pc)) pc pc).allLanesFault c (fun _ => e)).store
    | some (.walk va) => s.want (b.who w) va
    | some _ => s
    | none =>
      match s.verifyPacket b p with
      | .error n => s.xipFail n
      | .ok t => t.keepPacket (b.who w) p

end Sys2Proof.Machine
end

