-- ==== Sys2Proof/Machine/Replies.lean ====
section
/-! DEFINITION. The memory system's own steps: writes on their way to the home (R132), atomics performed and replies written
(R66, R70, R142, R143, R232), commits validated (R149), answers to `wlput`, quiet launches (R46, R249), the commit token (R51). -/

namespace Sys2Proof.Machine

/-! ### Writes -/

/-- MEMORY_WRITE_PERFORM: a write in flight is performed one level further out, where nothing stands before it; or it comes to be held behind
others at a locked frame (R155). One that the memory agent drops on its way from the core is lost (R419); one performed at its home changes a
register line that stands there (R364). -/
def execMemoryWritePerform (id : Nat) (s : State) : Out := .next <|
  match s.writes.find? (·.id == id) with
  | none => s
  | some w =>
    if s.mayRaise w then
      if w.level = 1 ∧ w.lane < 48 ∧ s.outside w.ctxn w.pa = true then
        ({ s with writes := s.writes.filter (fun u => u.id != w.id) }).dropMem w.uid w.wid w.lane w.va w.pa
      else
        let t := s.raise w
        if t.writes.any (fun u => u.id == w.id) || !s.lands w.pa then t else s.storeLines w.pa w.bytes t
    else if s.mayHold w then s.holdWrite w else s

/-! ### Atomics -/

/-- The requests of an atomic's slot for one location that are not performed. -/
def Slot.openAt (x : Slot) (pa : Nat) : List Req :=
  if x.kind = .atomic then
    (allLanes.flatMap (fun L => x.reqs.filter (fun q => q.lane == L && q.pa == pa && q.open_)))
  else []

/-- The scope at which an atomic is performed: its own, or the nearest that covers the location (R233). -/
def Req.atomScope (q : Req) : Nat := coverScope q.scope q.pa

/-- The level at which an atomic is performed: its scope's visibility point, or the home. -/
def Req.atomLevel (q : Req) : Nat := let l := scopeLevel q.atomScope; if l ≥ 4 then 5 else l

/-- May an atomic be performed now: its release and every earlier one of its thread are complete (R137, R142), no write of the same bytes that its thread made or saw
is still nearer, no atomic performed elsewhere is on its way there, its frame is not locked (R155)? -/
def State.atomReady (s : State) (uid wid : Nat) (q : Req) : Bool :=
  let v := s.viewOf uid wid q.lane
  let lvl := q.atomLevel
  let seen := s.observed.get v.key []
  s.released uid wid q.lane q.atomScope && (s.depsOf v.key).isEmpty && (s.lockOf q.pa).isNone &&
    s.writes.all fun w => !w.hits q.pa q.width ||
      ((decide (lvl ≤ w.level) || !((w.uid == uid && w.wid == wid && w.lane == q.lane) || seen.any (·.1 == w.id))) &&
        (!w.rmw || (decide (lvl ≤ w.level) && w.seenBy v)) && (lvl != 5 || isHbm q.pa))

/-- One lane's step: the old value, unless it is uncorrectable and nothing is performed (R481). -/
def State.atomLane (s : State) (uid wid : Nat) (q : Req) : State × Option Nat :=
  let v := s.viewOf uid wid q.lane
  let lvl := q.atomLevel
  if lvl = 5 then s.atomHome v.die v.tile q.aux q.pa q.opnd q.sent
  else
    let s1 := s.recall q.pa q.width
    let rs := (List.range q.width).map (fun i => s1.readFrom v 0 (q.pa + i) (levelsFrom lvl))
    let s2 := rs.foldl (fun s r => s.observe v.key r) s1
    if rs.any (·.bad) then (s2, none)
    else
      let old := leNat (rs.map (·.byte))
      let new := atomNew q.aux old (atomArgs q.aux q.opnd).1 (atomArgs q.aux q.opnd).2
      (s2.send v lvl (s.block uid).ctxn q.va q.pa (leBytes new q.width) [] true, some old)

/-- One lane's step at the location, or at the register line that stands for it (R364). -/
def State.atomAt (s : State) (uid wid : Nat) (q : Req) : State × Option Nat :=
  let r := (s.throughLines q.pa q.width).atomLane uid wid q
  if q.atomLevel = 5 then (s.storeLines q.pa (r.1.homeBytes q.pa q.width) r.1, r.2) else r

/-- A performed lane: its reply is fixed, and it acquires at its scope. One that the memory agent drops is not performed (R419). -/
def State.atomDone (s : State) (uid wid i : Nat) (q : Req) : State :=
  if s.outside (s.block uid).ctxn q.pa then s.dropMem uid wid q.lane q.va q.pa
  else
  let r := s.atomAt uid wid q
  let q1 := match r.2 with
    | some old => { q with val := some (atomWords q.aux old) }
    | none => { q with err := true }
  (r.1.setWave uid wid ((r.1.wave uid wid).setReq i q1)).acquireFor uid wid (BitVec.ofNat 48 (2 ^ q.lane)) q.atomScope

/-- ATOMIC_PERFORM: the lanes of one atomic that name a location are performed together, in ascending lane order (R143). -/
def State.performAtomic (s : State) (uid wid slot pa : Nat) : State :=
  let qs := ((s.wave uid wid).slot slot).openAt pa
  if qs.all (s.atomReady uid wid) then qs.foldl (fun s q => s.atomDone uid wid slot q) s else s

def execAtomicPerform (uid wid slot pa : Nat) (s : State) : Out := .next (s.performAtomic uid wid slot pa)

/-! ### Replies -/

/-- Before a load takes its value, the lane's older loads of the same bytes take theirs (R131). -/
def State.fixOlder (s : State) (uid wid i L : Nat) : State :=
  let sl := (s.wave uid wid).slot i
  match sl.reqs.find? (fun q => q.lane == L) with
  | none => s
  | some q =>
    (s.wave uid wid).slotsByAge.foldl (fun s e =>
      if e.2.ord < sl.ord ∧ (e.2.reqs.any (fun r => r.lane == L && (r.reads q.pa q.width || q.reads r.pa r.width))) = true then
        s.fixLane uid wid e.1 L 0
      else s) s

/-- What a reply needs first: a load's value, a message for an `amrecv`. -/
def State.readyReply (s : State) (uid wid i L stale : Nat) : State :=
  match ((s.wave uid wid).slot i).kind with
  | .load =>
    match ((s.wave uid wid).slot i).reqs.find? (fun q => q.lane == L) with
    | some q => ((s.throughLines q.pa q.width).fixOlder uid wid i L).fixLane uid wid i L stale
    | none => s
  | .amrecv =>
    match s.amWaits.find? (fun w => w.uid == uid && w.wid == wid && w.slot == i && w.lane == L) with
    | some w => s.deliver w.key (s.inbox w.key).length
    | none => s
  | _ => s

/-- The reply of one lane, once its value is known: the registers, or the mark of an uncorrectable error. For an atomic, `stale` ≠ 0 says
that the error arose in the reply alone: the atomic stands (R232, R481). A load that the memory agent drops gets none (R419). -/
def State.replyLane (s : State) (uid wid i L stale : Nat) : State :=
  match s.dropReq uid wid i L with
  | some q => s.dropMem uid wid L q.va q.pa
  | none =>
  let s1 := s.readyReply uid wid i L stale
  let w := s1.wave uid wid
  match (w.slot i).reqs.find? (fun q => q.lane == L) with
  | none => s1
  | some q =>
    let lost := (w.slot i).kind == .atomic && q.val.isSome && decide (stale ≠ 0)
    if q.err || lost then s1.setWave uid wid (w.replyBad i L q.va)
    else
      match q.val with
      | some xs => s1.setWave uid wid (w.reply i L xs)
      | none => s1

/-- REPLY_WRITE: replies of lanes of a slot, with how old a copy a load may return (R134), or whether an atomic's reply is lost (R232); a wave that has left its core finds them in its
image (R70). -/
def execReplyWrite (uid wid slot : Nat) (lanes : Lanes) (stale : Nat) (s : State) : Out := .next
  (((lanesOf lanes).foldl (fun s L => s.replyLane uid wid slot L stale) s).saveRegs (s.block uid) wid
    ((s.wave uid wid).slot slot).reg ((s.wave uid wid).slot slot).span)

/-! ### Commits -/

/-- Puts the bytes of a write set at the home; every copy of its words goes, so that no agent sees some of them without the rest (R149); a word
that it covers whole loses its mark. -/
def State.commitData (s : State) (data : List (Nat × Byte)) : State :=
  let words := (data.map (fun e => e.1 / 8)).eraseDups
  let covered := words.filter (fun g => (List.range 8).all (fun i => data.any (fun e => e.1 == 8 * g + i)))
  let s1 := data.foldl (fun s e => (s.recall e.1 1).putByte e.1 e.2) s
  { s1 with marks := s1.marks.filter (fun g => !covered.contains g), stale := s1.stale.filter (fun e => !words.contains (e.1 % 2 ^ 48 / 8)) }

/-- May a commit be decided: the thread's release is complete, no write of its sectors that the thread or the die could have seen is on its
way to the home, nor an atomic, no page of its write set is locked, and in a DET launch its wave holds the token? -/
def State.commitReady (s : State) (uid wid L : Nat) (t : Tx) : Bool :=
  let b := s.block uid
  let v := s.viewOf uid wid L
  let clash := fun (pa : Nat) => s.writes.any (fun w => w.hits pa 1 && (w.rmw || w.seenBy v))
  s.released uid wid L 3 && (s.depsOf v.key).isEmpty && t.data.all (fun e => (s.lockOf e.1).isNone && !clash e.1) && t.seen.all (fun e => !clash e.1) &&
    (!(s.launch b.launch).rcd.det || s.tokenAt uid wid (s.wave uid wid).wclk.toNat)

/-- Does every value that a transaction read still stand? -/
def State.stillSeen (s : State) (t : Tx) : Bool :=
  let s1 := t.seen.foldl (fun s e => (s.throughLines e.1 1).recall e.1 1) s
  t.seen.all (fun e => s1.homeByte e.1 == e.2)

/-- A wave whose lane has committed: it stands at its `txe`, which then passes. -/
def Wave.committed (w : Wave) (L : Nat) : Wave :=
  ((w.untx L).setTstat L 0).setTx L none

/-- In a DET launch the threads of one instruction commit in ascending lane order (R48): is a lower lane of the wave still to be decided? -/
def State.lowerCommits (s : State) (uid wid L : Nat) : Bool :=
  (s.launch (s.block uid).launch).rcd.det &&
    (List.range L).any (fun K => (((s.wave uid wid).txOf K).map (·.validating)).getD false)

/-- TX_COMMIT_VALIDATE: the read set is validated by value at the homes, and the write set written at once, or the transaction
aborts with CONFLICT, which adds nothing to `wclk` (assumption 115). -/
def State.validateCommit (s : State) (uid wid lane : Nat) : State :=
  let w := s.wave uid wid
  match w.txOf lane with
  | none => s
  | some t =>
    if !t.validating || !s.commitReady uid wid lane t || s.lowerCommits uid wid lane then s
    else if s.stillSeen t then
      let s0 := (t.seen.foldl (fun s e => s.recall e.1 1) s).commitData t.data
      let s1 := t.data.foldl (fun u e => u.storeLineByte (s.imageLineAt e.1) e.2) s0
      (s1.setWave uid wid ((s1.wave uid wid).committed lane)).acquireFor uid wid (BitVec.ofNat 48 (2 ^ lane)) 3
    else s.setWave uid wid (w.txAbort lane 1 0)

def execTxCommitValidate (uid wid lane : Nat) (s : State) : Out := .next (s.validateCommit uid wid lane)

/-! ### The end of an invalidation (R155, R389, R392) -/

/-- The atomics held at a locked frame: block, wave, slot, lane. -/
def State.heldAtomics (s : State) (l : MigLock) : List (Nat × Nat × Nat × Nat) :=
  (s.reqsOf .atomic (fun _ q => q.open_ && decide (l.frame ≤ q.pa) && decide (q.pa < l.frame + l.size))).map
    (fun e => (e.1, e.2.1, e.2.2.1, e.2.2.2.2.lane))

/-- The commits held there: block, wave, lane. -/
def State.heldCommits (s : State) (l : MigLock) : List (Nat × Nat × Nat) :=
  s.uids.flatMap fun u => (List.range (s.block u).waves.length).flatMap fun i =>
    (s.wave u i).tx.filterMap fun e => match e.2 with
      | some t => if t.validating && t.data.any (fun x => decide (l.frame ≤ x.1) && decide (x.1 < l.frame + l.size)) then some (u, i, e.1) else none
      | none => none

/-- The switch: what was held is performed on the frame that the leaf names, the writes in their order of arrival, then the atomics and the commits
(assumption 125). -/
def State.switchFrame (s : State) (l : MigLock) : State :=
  let s1 := (s.heldAtomics l).foldl (fun t e =>
    match ((t.wave e.1 e.2.1).slot e.2.2.1).reqs.find? (fun q => q.lane == e.2.2.2 && q.open_) with
    | some q => t.performAtomic e.1 e.2.1 e.2.2.1 q.pa
    | none => t) (s.switchWrites l)
  (s.heldCommits l).foldl (fun t e => t.validateCommit e.1 e.2.1 e.2.2) s1

/-- Step 4 for a page: nothing, a lock (`none` while its home holds 32, or a modified line is on its way there), or a switch. -/
def State.migrate (s : State) (ctxn va : Nat) : Option State :=
  match (s.ctxPid ctxn).bind (fun pid => s.walk ctxn pid va), s.lockFor ctxn va with
  | some p, none =>
    let frame := leafPa p.leaf
    if leafMig p.leaf && !s.locks.any (fun l => decide (l.frame < frame + p.bytes) && decide (frame < l.frame + l.size)) then
      if (s.locks.filter (fun l => homeOf l.frame == homeOf (leafPa p.leaf))).length ≥ 32 then none else s.lockFrame ctxn p
    else some s
  | some p, some l => if leafMig p.leaf then some s else some (s.switchFrame l)
  | none, some l => some (s.switchFrame l)
  | none, none => some s

/-- TLBINV_JOB_COMPLETE, in the steps of R389: first the entries go; later, once nothing covered stands, the migration step, and the
job retires. -/
def execTlbinvJobComplete (ctxn handle num : Nat) (s : State) : Out := .next <|
  match s.job ctxn handle num with
  | none => s
  | some j =>
    match j.work with
    | .tlbinv kind va c =>
      if j.phase = .queued then (if s.depsDone j.deps then s.tlbStart j else s)
      else if s.tlbWaits j then s
      else if kind = 0 then
        match s.migrate c va with
        | some s1 => s1.retireJob j 0 0
        | none => s
      else
        let s1 := s.retireJob j 0 0
        if kind = 2 then { s1 with leaving := s1.leaving.map (fun l => if s1.ctxPid c = some l.pid then { l with inv := true } else l) }
        else s1
    | _ => s

/-! ### Work lists -/

/-- A lane of a `wlput` is answered: its predicate, and its share of the slot. -/
def Wave.wlAnswered (w : Wave) (i L : Nat) (ok : Bool) : Wave :=
  let sl := w.slot i
  let bit := BitVec.ofNat 48 (2 ^ L)
  if sl.kind = .wlput ∧ laneIn sl.lanes L = true then
    (w.setPred (BitVec.ofNat 3 sl.reg) bit (if ok then bit else 0)).setSlot i ({ sl with lanes := setLane sl.lanes L false }).tidy
  else w

/-- Does an earlier item on its way stand before item `index`: of the same thread's wave and list, or, in a DET launch, of the
same list (R51, R249)? -/
def Launch.itemWaits (l : Launch) (index : Nat) (x : WlItem) : Bool :=
  (l.inFlight.take index).any (fun e => e.vcid == x.vcid && (l.rcd.det || (e.uid == x.uid && e.wid == x.wid)))

/-- WLPUT_ANSWER: an item reaches its list, after what its release covers is performed; a quiet launch discards it. -/
def execWlputAnswer (launch index : Nat) (s : State) : Out := .next <|
  let l := s.launch launch
  match l.inFlight[index]? with
  | none => s
  | some x =>
    let s1 := s.setLaunch launch { l with inFlight := l.inFlight.eraseIdx index }
    let tell := fun (s : State) (ok : Bool) =>
      (s.setWave x.uid x.wid ((s.wave x.uid x.wid).wlAnswered x.slot x.lane ok)).saveChanges (s.block x.uid) (x.wid + 1)
    if l.quiet then tell s1 false
    else if l.itemWaits index x || !s.released x.uid x.wid x.lane 2 ||
        !(s.depsOf (tkey x.uid x.wid x.lane)).isEmpty || decide ((l.lists.get x.vcid []).length ≥ 2 ^ s.listLog l) then s
    else (tell (s1.appendItem launch x.vcid x.item) true).pairUp launch x.vcid 1

/-- Does a registered worker leave its launch quiet (R46): it has ended, or a thread is blocked in `wlget`? Whether another of its threads
is ready, or waits for something on its way, `step` asks besides. -/
def State.workerRests (s : State) (u i : Nat) : Bool :=
  let w := s.wave u i
  w.ended || w.wlgetBlocked &&& w.live != 0

/-- LAUNCH_QUIET: every list is empty, no item is on its way, every registered worker rests; every blocked `wlget` gets QUIET. -/
def execLaunchQuiet (launch : Nat) (s : State) : Out := .next <|
  let l := s.launch launch
  if l.quiet || !l.ownsArea || !l.lists.isEmpty || !l.inFlight.isEmpty || l.workers.isEmpty ||
      !l.workers.all (fun e => s.workerRests e.1 e.2) then s
  else
    let s1 := s.setLaunch launch { l with quiet := true, getters := [] }
    l.getters.foldl (fun s g => s.answer g.uid g.wid g.slot g.lane [0, 0, 1]) s1

/-! ### The commit token -/

/-- COMMIT_TOKEN_HANDOFF: the token reaches the counted wave of the least pair. -/
def execCommitTokenHandoff (launch : Nat) (s : State) : Out := .next <|
  let l := s.launch launch
  let least := leastId (s.tokens launch l.rcd.waves)
  if !l.rcd.det || least == none || l.token == least then s
  else (s.setLaunch launch { l with token := least }).bumpDie l.die 0x83 1

end Sys2Proof.Machine
end

