-- ==== Sys2Proof/Machine/Sfu.lean ====
section
/-! DEFINITION. Major 10 (09 R212): the special functions, which reply later. -/

namespace Sys2Proof.Machine

/-- `op vD, vA` (R212): vD is marked empty and one pending-reply slot taken; the reply carries the result. -/
def sfuOp (h : Hdr) (d a : BitVec 6) (x : Bool) (f : Sfu) (s : State) : State :=
  let D := s.pre.op d 1
  perThread h s (fun L => longCheck s L [D] [s.pre.op a 1 x]) fun m s =>
    s.setW (s.wv.openSlot .sfu D m ((lanesOf m).map fun L =>
      { lane := L, val := some [f.code s.pre.ftz (s.pre.src a L)] }))

def execRcp (h : Hdr) (d a : BitVec 6) (x : Bool) (s : State) : Out := .next (sfuOp h d a x .rcp s)
def execSqrt (h : Hdr) (d a : BitVec 6) (x : Bool) (s : State) : Out := .next (sfuOp h d a x .sqrt s)
def execRsqrt (h : Hdr) (d a : BitVec 6) (x : Bool) (s : State) : Out := .next (sfuOp h d a x .rsqrt s)
def execExp2 (h : Hdr) (d a : BitVec 6) (x : Bool) (s : State) : Out := .next (sfuOp h d a x .exp2 s)
def execLog2 (h : Hdr) (d a : BitVec 6) (x : Bool) (s : State) : Out := .next (sfuOp h d a x .log2 s)
def execSinpi (h : Hdr) (d a : BitVec 6) (x : Bool) (s : State) : Out := .next (sfuOp h d a x .sinpi s)
def execCospi (h : Hdr) (d a : BitVec 6) (x : Bool) (s : State) : Out := .next (sfuOp h d a x .cospi s)

end Sys2Proof.Machine
end

