-- ==== Sys2Proof/Machine/Spm.lean ====
section
/-! DEFINITION. Major 16 (10 R235 to R238) and `bwait` (R239): scratchpad loads and stores, declarations and states of
buffers. -/

namespace Sys2Proof.Machine

/-! ### Parked threads (R124, R125, R239) -/

/-- A lane parks on a buffer, or waits in `bwait`, from now: it keeps the failed fills that the buffer has counted. -/
def State.park (s : State) (id : Nat) (m : Lanes) : State :=
  let new := (lanesOf m).filter (fun L => s.wv.parked.get L none == none)
  if new = [] then s
  else
    let w := new.foldl (fun (w : Wave) L => { w with parked := w.parked.set L (some (id, (s.bk.buf id).fails)) none }) s.wv
    { s.setW w with cur := { s.cur with acted := true } }

/-- A lane parked on a buffer a fill of which has failed since is released with BUF_STATE (R125). -/
def State.parkFault (s : State) (L id off : Nat) : Option Stop :=
  match s.wv.parked.get L none with
  | none => none
  | some (i, n) => if i = id ∧ n ≠ (s.bk.buf id).fails then some (.fault .bufState (bufBad id off)) else none

def Wave.unpark (w : Wave) (m : Lanes) : Wave :=
  { w with parked := (lanesOf m).foldl (fun t L => t.set L none none) w.parked }

/-! ### Scratchpad accesses (R126, R235) -/

/-- Buffer id and offset of a lane. -/
def State.spmAt (s : State) (a b : BitVec 6) (L : Nat) : Nat × Nat :=
  (field (s.pre.sreg b) 37 32, field (s.pre.sreg b) 31 0 + (s.pre.vreg (s.pre.vnum a) L).toNat)

/-- The words that a scratchpad load writes: forms 0 word, 1 half, 2 byte, 9 decoded. -/
def Block.spmLoad (b : Block) (form id off : Nat) : List W32 :=
  let u := b.buf id
  let at_ := fun (o n : Nat) => leNat (b.bufBytes id o n)
  if form = 9 then
    if u.fmt = 6 then
      match q4BufScales u.geo u.size off with
      | none => [0, 0]
      | some (r, c0, c1) => [q4f32 (at_ r 1) (at_ c0 1) (at_ off 1 % 16), q4f32 (at_ r 1) (at_ c1 1) (at_ off 1 / 16)]
    else [elem32 u.fmt (at_ off u.decWidth)]
  else [BitVec.ofNat 32 (at_ off (if form = 0 then 4 else if form = 1 then 2 else 1))]

def State.spmWidth (s : State) (form id : Nat) : Nat :=
  match form with
  | 0 => 4
  | 1 => 2
  | 2 => 1
  | 3 => 4
  | 4 => 2
  | 5 => 1
  | _ => (s.bk.buf id).decWidth

def State.sldCheck (s : State) (L form : Nat) (d a b : BitVec 6) (x : Bool) : Option Stop :=
  let D := s.pre.op d (if form = 9 then 2 else 1)
  let A := s.pre.op a 1 x
  let at_ := s.spmAt a b L
  let span := if form = 9 ∧ (s.bk.buf at_.1).fmt ≠ 6 then 1 else D.span
  firstStop [boundsCheck s.pre [D, A], longCheck s L [] [A], s.parkFault L at_.1 at_.2,
    s.bk.spmCheck false (form == 9) at_.1 at_.2 (s.spmWidth form at_.1),
    await (!dstWaits s.pre L { D with span := span })]

/-- Does a lane's load wait on an absent line? -/
def State.mustPark (s : State) (L form : Nat) (d a b : BitVec 6) (x : Bool) : Bool :=
  let at_ := s.spmAt a b L
  (longCheck s L [] [s.pre.op a 1 x]).isNone && (boundsCheck s.pre [s.pre.op d (if form = 9 then 2 else 1)]).isNone &&
    s.bk.spmCheck false (form == 9) at_.1 at_.2 (s.spmWidth form at_.1) == some .wait

/-- Threads that see presence bits of a buffer set acquire at `core` scope (R124, R138). -/
def State.sawPresent (s : State) (id : Nat) (m : Lanes) : State :=
  if (s.bk.buf id).state = .empty then s else s.acquireHere m 0

/-- Does a load read an uncorrectable word of the scratchpad, a scale byte of its Q4 unit among them (R481)? -/
def State.spmMarked (s : State) (form id off : Nat) : Bool :=
  let u := s.bk.buf id
  s.bk.bufMarked id off (s.spmWidth form id) ||
    (form == 9 && u.fmt == 6 && (match q4BufScales u.geo u.size off with
      | none => false
      | some x => s.bk.bufMarked id x.1 1 || s.bk.bufMarked id x.2.1 1 || s.bk.bufMarked id x.2.2 1))

/-- `sld`: the bytes are read at issue, and the reply writes them, or the mark of an uncorrectable one. A lane whose line is absent parks. -/
def sldOp (h : Hdr) (d a b : BitVec 6) (x : Bool) (form : Nat) (s : State) : State :=
  let id := (s.spmAt a b 0).1
  let s1 := perThread h s (fun L => s.sldCheck L form d a b x) fun m s =>
    let reqs := (lanesOf m).map fun L =>
      let bad := s.spmMarked form id (s.spmAt a b L).2
      let q : Req := { lane := L, va := if bad then (bufBad id (s.spmAt a b L).2).toNat else 0, aux := form,
                       val := if bad then none else some (s.bk.spmLoad form id (s.spmAt a b L).2), err := bad }
      q
    let span := if form = 9 ∧ (s.bk.buf id).fmt = 6 then 2 else 1
    (s.sawPresent id m).setW ((s.wv.openSlot .load (s.pre.op d span) m reqs).unpark m)
  if s1.wv.stopped then s1
  else s1.park id (maskOf (fun L => laneIn s1.cur.held L && h.guard s.pre L && s.mustPark L form d a b x))

/-- `sst`: lanes ascending. -/
def sstOp (h : Hdr) (d a b : BitVec 6) (x : Bool) (form : Nat) (s : State) : State :=
  perThread h s
    (fun L => firstStop [opCheck s.pre L [] [s.pre.op a 1 x, s.pre.op d 1],
      s.bk.spmCheck true false (s.spmAt a b L).1 (s.spmAt a b L).2 (s.spmWidth form 0)])
    fun m s => (lanesOf m).foldl (fun s L =>
      let at_ := s.spmAt a b L
      let bs := leBytes (s.pre.vreg (s.pre.vnum d) L).toNat (s.spmWidth form 0)
      { s with bk := s.bk.putBuf at_.1 at_.2 bs }) s

def execSldW (h : Hdr) (d a b : BitVec 6) (x : Bool) (s : State) : Out := .next (sldOp h d a b x 0 s)
def execSldH (h : Hdr) (d a b : BitVec 6) (x : Bool) (s : State) : Out := .next (sldOp h d a b x 1 s)
def execSldB (h : Hdr) (d a b : BitVec 6) (x : Bool) (s : State) : Out := .next (sldOp h d a b x 2 s)
def execSldDec (h : Hdr) (d a b : BitVec 6) (x : Bool) (s : State) : Out := .next (sldOp h d a b x 9 s)
def execSstW (h : Hdr) (d a b : BitVec 6) (x : Bool) (s : State) : Out := .next (sstOp h d a b x 3 s)
def execSstH (h : Hdr) (d a b : BitVec 6) (x : Bool) (s : State) : Out := .next (sstOp h d a b x 4 s)
def execSstB (h : Hdr) (d a b : BitVec 6) (x : Bool) (s : State) : Out := .next (sstOp h d a b x 5 s)

/-! ### Buffer instructions (R121, R236 to R238) -/

/-- The buffer id that a scalar names. -/
def State.bufId (s : State) (a : BitVec 6) : Nat := field (s.pre.sreg a) 5 0

/-- The entry that `bdecl` declares. -/
def State.declEntry (s : State) (b : BitVec 6) : Buf := Buf.ofWords (s.pre.sreg b) (s.pre.sreg (b + 1))

/-- Does a declared buffer's state refuse `bdecl` (R121)? -/
def Buf.refusesDecl (u : Buf) : Bool := u.decl && (u.state != .empty || u.heldN != 0)

/-- Does an entry cover a line of another declared buffer (R118)? -/
def Block.overlapsOther (b : Block) (id : Nat) (u : Buf) : Bool :=
  (List.range 64).any (fun i => i != id && (b.buf i).decl && u.overlaps (b.buf i))

/-- `bdecl` (R236). A BUF_STATE of an instruction without an offset has offset 0 in `ebad` (assumption 113). -/
def execBdecl (_h : Hdr) (a b : BitVec 6) (s : State) : Out := .next <|
  let id := s.bufId a
  let u := s.declEntry b
  let key := BitVec.ofNat 64 u.key
  let ok := u.entryOk s.bk.spmb (s.feature 3) && field (s.pre.sreg (b + 1)) 63 48 == 0 &&
    !s.bk.overlapsOther id u && !(s.bk.buf id).refusesDecl
  waveLevel s
    (firstStop [need ok .bufState (bufBad id 0), need (!u.isSealed || (s.keysOf s.bk.pid).contains u.key) .access key,
      need (!u.isSealed || s.sealed s.bk.pid || s.ctxSealimg s.bk.ctxn) .access key])
    fun s => { s with bk := s.bk.declare id u }

/-- Does a declared buffer refuse `bset` (R121)? -/
def Buf.refusesSet (u : Buf) : Bool := !u.decl || u.state == .filling || u.state == .draining || u.heldN != 0

/-- `bset sA, empty` (R237). -/
def execBsetEmpty (_h : Hdr) (a : BitVec 6) (s : State) : Out := .next <|
  let id := s.bufId a
  waveLevel s (need (!(s.bk.buf id).refusesSet) .bufState (bufBad id 0)) fun s =>
    { s with bk := s.bk.setBuf id { s.bk.buf id with state := .empty } }

/-- `bset sA, full` (R237): from EMPTY every presence bit is set; the release at `core` scope of scratchpad stores holds of
itself, since a store is performed as it issues. -/
def execBsetFull (_h : Hdr) (a : BitVec 6) (s : State) : Out := .next <|
  let id := s.bufId a
  waveLevel s (need (!(s.bk.buf id).refusesSet) .bufState (bufBad id 0)) fun s =>
    if (s.bk.buf id).state = .full then s else { s with bk := s.bk.fillDone id }

/-- The snapshot of a buffer (R238). -/
def Buf.stat (u : Buf) : W64 :=
  BitVec.ofNat 64 (u.state.code + (u.flags % 2) * 4 + (u.flags / 4 % 2) * 8 + u.heldN % 1024 * 2 ^ 12 +
    u.outs % 1024 * 2 ^ 22 + u.bytes % 2 ^ 32 * 2 ^ 32)

/-- `bstat` (R238). One that reads FULL is an acquire at `core` scope by every live thread (R138). -/
def execBstat (_h : Hdr) (d a : BitVec 6) (s : State) : Out := .next <|
  let id := s.bufId a
  waveLevel s (need (s.bk.buf id).decl .bufState (bufBad id 0)) fun s =>
    let s1 := s.setW (s.wv.setS d (s.bk.buf id).stat)
    if (s.bk.buf id).state = .full then s1.acquireHere s.pre.live 0 else s1

/-- `bwait` (R239). -/
def bwaitOp (h : Hdr) (a : BitVec 6) (full : Bool) (s : State) : State :=
  let id := s.bufId a
  let u := s.bk.buf id
  let ok := if full then u.state == .full else (u.state == .empty || u.state == .full) && u.heldN == 0
  let chk := fun (L : Nat) => firstStop [need u.decl .bufState (bufBad id 0),
    if full then s.parkFault L id 0 else none, await ok]
  let s1 := perThread h s chk (fun m s => (if full then s.sawPresent id m else s).setW (s.wv.unpark m))
  if s1.wv.stopped || !full then s1
  else s1.park id (maskOf (fun L => laneIn s1.cur.held L && s.laneStop h chk L == some .wait))

def execBwaitDrained (h : Hdr) (a : BitVec 6) (s : State) : Out := .next (bwaitOp h a false s)
def execBwaitFull (h : Hdr) (a : BitVec 6) (s : State) : Out := .next (bwaitOp h a true s)

end Sys2Proof.Machine
end

