-- ==== Sys2Proof/Machine/Dispatch.lean ====
section
/-! DEFINITION. One arm per constructor of `Instr`: each calls the meaning of its instruction. -/

namespace Sys2Proof.Machine

/-- The meaning of an instruction: what it does to the issue in progress, or, for a step of another agent, to the machine. -/
def exec (i : Instr) (s : State) : Host.Outcome State Fault Refusal :=
  match i with
  | .memoryWritePerform id => Sys2Proof.Machine.execMemoryWritePerform id s
  | .atomicPerform uid wid slot pa => Sys2Proof.Machine.execAtomicPerform uid wid slot pa s
  | .txCommitValidate uid wid lane => Sys2Proof.Machine.execTxCommitValidate uid wid lane s
  | .wlputAnswer launch index => Sys2Proof.Machine.execWlputAnswer launch index s
  | .launchQuiet launch => Sys2Proof.Machine.execLaunchQuiet launch s
  | .mstBufferComplete quarter => Sys2Proof.Machine.execMstBufferComplete quarter s
  | .matrixOpComplete quarter => Sys2Proof.Machine.execMatrixOpComplete quarter s
  | .streamStartPhaseEnd uid wid => Sys2Proof.Machine.execStreamStartPhaseEnd uid wid s
  | .copyJobStart ctxn handle num => Sys2Proof.Machine.execCopyJobStart ctxn handle num s
  | .fillSectorArrival ctxn handle num sector => Sys2Proof.Machine.execFillSectorArrival ctxn handle num sector s
  | .copyJobRetire ctxn handle num => Sys2Proof.Machine.execCopyJobRetire ctxn handle num s
  | .chainJobRetire ctxn handle num => Sys2Proof.Machine.execChainJobRetire ctxn handle num s
  | .pairJobStart quad => Sys2Proof.Machine.execPairJobStart quad s
  | .pairJobSuspend ctxn handle num => Sys2Proof.Machine.execPairJobSuspend ctxn handle num s
  | .pairJobRetire ctxn handle num => Sys2Proof.Machine.execPairJobRetire ctxn handle num s
  | .fabricInstanceComplete pid route inst => Sys2Proof.Machine.execFabricInstanceComplete pid route inst s
  | .amArrival index => Sys2Proof.Machine.execAmArrival index s
  | .amsendJobRetire ctxn handle num => Sys2Proof.Machine.execAmsendJobRetire ctxn handle num s
  | .packetDecode uid wid lane => Sys2Proof.Machine.execPacketDecode uid wid lane s
  | .waveSwap uid wid => Sys2Proof.Machine.execWaveSwap uid wid s
  | .forcedSwap quarter => Sys2Proof.Machine.execForcedSwap quarter s
  | .replyWrite uid wid slot lanes stale => Sys2Proof.Machine.execReplyWrite uid wid slot lanes stale s
  | .regLineFill uid wid reg => Sys2Proof.Machine.execRegLineFill uid wid reg s
  | .pageWalk die quarter ctxn va => Sys2Proof.Machine.execPageWalk die quarter ctxn va s
  | .commitTokenHandoff launch => Sys2Proof.Machine.execCommitTokenHandoff launch s
  | .asyncCauseTake uid => Sys2Proof.Machine.execAsyncCauseTake uid s
  | .qtailWrite via die pslot q value => Sys2Proof.Machine.execQtailWrite via die pslot q value s
  | .queueEnable via die pslot q value => Sys2Proof.Machine.execQueueEnable via die pslot q value s
  | .queueDisable via die pslot q value => Sys2Proof.Machine.execQueueDisable via die pslot q value s
  | .queueRetry via die pslot q value => Sys2Proof.Machine.execQueueRetry via die pslot q value s
  | .queueSkip via die pslot q value => Sys2Proof.Machine.execQueueSkip via die pslot q value s
  | .launchTake die pslot q => Sys2Proof.Machine.execLaunchTake die pslot q s
  | .blockPlace die pid => Sys2Proof.Machine.execBlockPlace die pid s
  | .blockEnd uid => Sys2Proof.Machine.execBlockEnd uid s
  | .launchComplete launch => Sys2Proof.Machine.execLaunchComplete launch s
  | .preempt uid => Sys2Proof.Machine.execPreempt uid s
  | .blockHalt uid keep => Sys2Proof.Machine.execBlockHalt uid keep s
  | .blockStopped uid => Sys2Proof.Machine.execBlockStopped uid s
  | .droneWrite via die pslot off value => Sys2Proof.Machine.execDroneWrite via die pslot off value s
  | .dronePlace die pid => Sys2Proof.Machine.execDronePlace die pid s
  | .watchdog uid => Sys2Proof.Machine.execWatchdog uid s
  | .externalStall uid wid => Sys2Proof.Machine.execExternalStall uid wid s
  | .repeatTrap uid => Sys2Proof.Machine.execRepeatTrap uid s
  | .flitDrop die flit reason ans => Sys2Proof.Machine.execFlitDrop die flit reason ans s
  | .tlbinvJobComplete ctxn handle num => Sys2Proof.Machine.execTlbinvJobComplete ctxn handle num s
  | .contextTeardown ctxn => Sys2Proof.Machine.execContextTeardown ctxn s
  | .splitcfgWrite via die tile value => Sys2Proof.Machine.execSplitcfgWrite via die tile value s
  | .semownWrite via die index value => Sys2Proof.Machine.execSemownWrite via die index value s
  | .pstateCmdRun via pid value => Sys2Proof.Machine.execPstateCmdRun via pid value s
  | .pstateCmdFreeze via pid value => Sys2Proof.Machine.execPstateCmdFreeze via pid value s
  | .pstateCmdStop via pid value => Sys2Proof.Machine.execPstateCmdStop via pid value s
  | .pstateCmdDrain via pid value => Sys2Proof.Machine.execPstateCmdDrain via pid value s
  | .pstateCmdFlush via pid value => Sys2Proof.Machine.execPstateCmdFlush via pid value s
  | .pstateCmdRemap via pid value => Sys2Proof.Machine.execPstateCmdRemap via pid value s
  | .quiesceStateDone pid => Sys2Proof.Machine.execQuiesceStateDone pid s
  | .tileProbe silent erring => Sys2Proof.Machine.execTileProbe silent erring s
  | .shapereqGrow pid value => Sys2Proof.Machine.execShapereqGrow pid value s
  | .shapereqShrink pid value => Sys2Proof.Machine.execShapereqShrink pid value s
  | .shapereqCompact pid value => Sys2Proof.Machine.execShapereqCompact pid value s
  | .shapereqMigrate pid value => Sys2Proof.Machine.execShapereqMigrate pid value s
  | .doorbell pid value => Sys2Proof.Machine.execDoorbell pid value s
  | .killWave pid value => Sys2Proof.Machine.execKillWave pid value s
  | .killBlock pid value => Sys2Proof.Machine.execKillBlock pid value s
  | .partitionReset pid => Sys2Proof.Machine.execPartitionReset pid s
  | .partitionResetComplete pid => Sys2Proof.Machine.execPartitionResetComplete pid s
  | .ldReset ld => Sys2Proof.Machine.execLdReset ld s
  | .stopInterface pid => Sys2Proof.Machine.execStopInterface pid s
  | .msixUnmask pid vector => Sys2Proof.Machine.execMsixUnmask pid vector s
  | .inboundMemoryRequest req => Sys2Proof.Machine.execInboundMemoryRequest req s
  | .feataccWrite via word value => Sys2Proof.Machine.execFeataccWrite via word value s
  | .keyCreate via value => Sys2Proof.Machine.execKeyCreate via value s
  | .keyDestroy via value => Sys2Proof.Machine.execKeyDestroy via value s
  | .edgeReqOff via group value => Sys2Proof.Machine.execEdgeReqOff via group value s
  | .edgeReqCxl via group value => Sys2Proof.Machine.execEdgeReqCxl via group value s
  | .edgeReqUalink via group value => Sys2Proof.Machine.execEdgeReqUalink via group value s
  | .edgeReqUltraEthernet via group value => Sys2Proof.Machine.execEdgeReqUltraEthernet via group value s
  | .edgeDrainComplete group => Sys2Proof.Machine.execEdgeDrainComplete group s
  | .edgeTrainComplete group rate lanes => Sys2Proof.Machine.execEdgeTrainComplete group rate lanes s
  | .edgeTrainTimeout group => Sys2Proof.Machine.execEdgeTrainTimeout group s
  | .edgeEnumComplete group => Sys2Proof.Machine.execEdgeEnumComplete group s
  | .linkLost group => Sys2Proof.Machine.execLinkLost group s
  | .hbmReset via stack value => Sys2Proof.Machine.execHbmReset via stack value s
  | .hbmZqcal via stack value => Sys2Proof.Machine.execHbmZqcal via stack value s
  | .hbmCatrain via stack value => Sys2Proof.Machine.execHbmCatrain via stack value s
  | .hbmRdtrain via stack value => Sys2Proof.Machine.execHbmRdtrain via stack value s
  | .hbmWrtrain via stack value => Sys2Proof.Machine.execHbmWrtrain via stack value s
  | .hbmRepair via stack value => Sys2Proof.Machine.execHbmRepair via stack value s
  | .hbmMemtest via stack value => Sys2Proof.Machine.execHbmMemtest via stack value s
  | .hbmEnable via stack value => Sys2Proof.Machine.execHbmEnable via stack value s
  | .hbmOpComplete stack pass repaired => Sys2Proof.Machine.execHbmOpComplete stack pass repaired s
  | .patrolScrub pa store bad => Sys2Proof.Machine.execPatrolScrub pa store bad s
  | .bistGo via value => Sys2Proof.Machine.execBistGo via value s
  | .bistComplete results => Sys2Proof.Machine.execBistComplete results s
  | .timeRun via value => Sys2Proof.Machine.execTimeRun via value s
  | .freqChangeRequest via value => Sys2Proof.Machine.execFreqChangeRequest via value s
  | .freqChangeApply => Sys2Proof.Machine.execFreqChangeApply s
  | .limiterCheck power temps => Sys2Proof.Machine.execLimiterCheck power temps s
  | .thermalTrip die tj => Sys2Proof.Machine.execThermalTrip die tj s
  | .railWrite via rail value => Sys2Proof.Machine.execRailWrite via rail value s
  | .railPgood rail mv => Sys2Proof.Machine.execRailPgood rail mv s
  | .idcheck via value => Sys2Proof.Machine.execIdcheck via value s
  | .verifyxip via value => Sys2Proof.Machine.execVerifyxip via value s
  | .securityOpComplete nonce answer => Sys2Proof.Machine.execSecurityOpComplete nonce answer s
  | .xipLock via value => Sys2Proof.Machine.execXipLock via value s
  | .loadgo via value => Sys2Proof.Machine.execLoadgo via value s
  | .rimrun via value => Sys2Proof.Machine.execRimrun via value s
  | .moduleReset => Sys2Proof.Machine.execModuleReset s
  | .mepRead frame => Sys2Proof.Machine.execMepRead frame s
  | .mepWrite frame => Sys2Proof.Machine.execMepWrite frame s
  | .mepReset frame => Sys2Proof.Machine.execMepReset frame s
  | .getVersion ld msg => Sys2Proof.Machine.execGetVersion ld msg s
  | .getCapabilities ld msg => Sys2Proof.Machine.execGetCapabilities ld msg s
  | .negotiateAlgorithms ld msg => Sys2Proof.Machine.execNegotiateAlgorithms ld msg s
  | .getDigests ld msg => Sys2Proof.Machine.execGetDigests ld msg s
  | .getCertificate ld msg => Sys2Proof.Machine.execGetCertificate ld msg s
  | .challenge ld msg => Sys2Proof.Machine.execChallenge ld msg s
  | .getMeasurements ld vf msg => Sys2Proof.Machine.execGetMeasurements ld vf msg s
  | .setCertificate ld msg => Sys2Proof.Machine.execSetCertificate ld msg s
  | .registerWrite via addr value => Sys2Proof.Machine.execRegisterWrite via addr value s
  | .reservedEncodingIssue word => Sys2Proof.Machine.execReservedEncodingIssue word s
  | .powerOn => Sys2Proof.Machine.execPowerOn s
  | .idleTimeReached uid wid => Sys2Proof.Machine.execIdleTimeReached uid wid s
  | .ualinkSemaphoreDoorbell pid value => Sys2Proof.Machine.execUalinkSemaphoreDoorbell pid value s
  | .mepBadcmd frame => Sys2Proof.Machine.execMepBadcmd frame s
  | .tdispLockInterface pid => Sys2Proof.Machine.execTdispLockInterface pid s
  | .tdispStartInterface pid => Sys2Proof.Machine.execTdispStartInterface pid s
  | .nop h => Sys2Proof.Machine.execNop h s
  | .nap h => Sys2Proof.Machine.execNap h s
  | .exitT h => Sys2Proof.Machine.execExitT h s
  | .brk h n => Sys2Proof.Machine.execBrk h n s
  | .trapN h n => Sys2Proof.Machine.execTrapN h n s
  | .srd h d a => Sys2Proof.Machine.execSrd h d a s
  | .swr h d a => Sys2Proof.Machine.execSwr h d a s
  | .clkadd h a => Sys2Proof.Machine.execClkadd h a s
  | .svc h d a b x => Sys2Proof.Machine.execSvc h d a b x s
  | .add h d a b => Sys2Proof.Machine.execAdd h d a b s
  | .sub h d a b => Sys2Proof.Machine.execSub h d a b s
  | .mul h d a b => Sys2Proof.Machine.execMul h d a b s
  | .mulh h d a b => Sys2Proof.Machine.execMulh h d a b s
  | .mulhn h d a b => Sys2Proof.Machine.execMulhn h d a b s
  | .div h d a b => Sys2Proof.Machine.execDiv h d a b s
  | .divn h d a b => Sys2Proof.Machine.execDivn h d a b s
  | .rem h d a b => Sys2Proof.Machine.execRem h d a b s
  | .remn h d a b => Sys2Proof.Machine.execRemn h d a b s
  | .andS h d a b => Sys2Proof.Machine.execAndS h d a b s
  | .orS h d a b => Sys2Proof.Machine.execOrS h d a b s
  | .xorS h d a b => Sys2Proof.Machine.execXorS h d a b s
  | .andn h d a b => Sys2Proof.Machine.execAndn h d a b s
  | .shl h d a b => Sys2Proof.Machine.execShl h d a b s
  | .shr h d a b => Sys2Proof.Machine.execShr h d a b s
  | .sra h d a b => Sys2Proof.Machine.execSra h d a b s
  | .rol h d a b => Sys2Proof.Machine.execRol h d a b s
  | .ror h d a b => Sys2Proof.Machine.execRor h d a b s
  | .minS h d a b => Sys2Proof.Machine.execMinS h d a b s
  | .maxS h d a b => Sys2Proof.Machine.execMaxS h d a b s
  | .minn h d a b => Sys2Proof.Machine.execMinn h d a b s
  | .maxn h d a b => Sys2Proof.Machine.execMaxn h d a b s
  | .clz h d a => Sys2Proof.Machine.execClz h d a s
  | .ctz h d a => Sys2Proof.Machine.execCtz h d a s
  | .popc h d a => Sys2Proof.Machine.execPopc h d a s
  | .brev h d a => Sys2Proof.Machine.execBrev h d a s
  | .sext h d a b => Sys2Proof.Machine.execSext h d a b s
  | .zext h d a b => Sys2Proof.Machine.execZext h d a b s
  | .cmp h d a b => Sys2Proof.Machine.execCmp h d a b s
  | .clmul h d a b => Sys2Proof.Machine.execClmul h d a b s
  | .clmulh h d a b => Sys2Proof.Machine.execClmulh h d a b s
  | .mov h d a => Sys2Proof.Machine.execMov h d a s
  | .addi h d a imm => Sys2Proof.Machine.execAddi h d a imm s
  | .andi h d a imm => Sys2Proof.Machine.execAndi h d a imm s
  | .ori h d a imm => Sys2Proof.Machine.execOri h d a imm s
  | .xori h d a imm => Sys2Proof.Machine.execXori h d a imm s
  | .shli h d a imm => Sys2Proof.Machine.execShli h d a imm s
  | .shri h d a imm => Sys2Proof.Machine.execShri h d a imm s
  | .srai h d a imm => Sys2Proof.Machine.execSrai h d a imm s
  | .cmpi h d a imm => Sys2Proof.Machine.execCmpi h d a imm s
  | .li h d imm => Sys2Proof.Machine.execLi h d imm s
  | .bt h u p o => Sys2Proof.Machine.execBt h u p o s
  | .bw h q o => Sys2Proof.Machine.execBw h q o s
  | .call h o => Sys2Proof.Machine.execCall h o s
  | .btn h u p o => Sys2Proof.Machine.execBtn h u p o s
  | .jr h a x => Sys2Proof.Machine.execJr h a x s
  | .callr h a x => Sys2Proof.Machine.execCallr h a x s
  | .ret h => Sys2Proof.Machine.execRet h s
  | .addI32 h d a b x y => Sys2Proof.Machine.execAddI32 h d a b x y s
  | .subI32 h d a b x y => Sys2Proof.Machine.execSubI32 h d a b x y s
  | .mulI32 h d a b x y => Sys2Proof.Machine.execMulI32 h d a b x y s
  | .mulhI32 h d a b x y => Sys2Proof.Machine.execMulhI32 h d a b x y s
  | .mulhnI32 h d a b x y => Sys2Proof.Machine.execMulhnI32 h d a b x y s
  | .minI32 h d a b x y => Sys2Proof.Machine.execMinI32 h d a b x y s
  | .maxI32 h d a b x y => Sys2Proof.Machine.execMaxI32 h d a b x y s
  | .minnI32 h d a b x y => Sys2Proof.Machine.execMinnI32 h d a b x y s
  | .maxnI32 h d a b x y => Sys2Proof.Machine.execMaxnI32 h d a b x y s
  | .absI32 h d a x => Sys2Proof.Machine.execAbsI32 h d a x s
  | .negI32 h d a x => Sys2Proof.Machine.execNegI32 h d a x s
  | .andI32 h d a b x y => Sys2Proof.Machine.execAndI32 h d a b x y s
  | .orI32 h d a b x y => Sys2Proof.Machine.execOrI32 h d a b x y s
  | .xorI32 h d a b x y => Sys2Proof.Machine.execXorI32 h d a b x y s
  | .andnI32 h d a b x y => Sys2Proof.Machine.execAndnI32 h d a b x y s
  | .notI32 h d a x => Sys2Proof.Machine.execNotI32 h d a x s
  | .shlI32 h d a b x y => Sys2Proof.Machine.execShlI32 h d a b x y s
  | .shrI32 h d a b x y => Sys2Proof.Machine.execShrI32 h d a b x y s
  | .sraI32 h d a b x y => Sys2Proof.Machine.execSraI32 h d a b x y s
  | .clzI32 h d a x => Sys2Proof.Machine.execClzI32 h d a x s
  | .popcI32 h d a x => Sys2Proof.Machine.execPopcI32 h d a x s
  | .brevI32 h d a x => Sys2Proof.Machine.execBrevI32 h d a x s
  | .addsI32 h d a b x y => Sys2Proof.Machine.execAddsI32 h d a b x y s
  | .subsI32 h d a b x y => Sys2Proof.Machine.execSubsI32 h d a b x y s
  | .addsnI32 h d a b x y => Sys2Proof.Machine.execAddsnI32 h d a b x y s
  | .subsnI32 h d a b x y => Sys2Proof.Machine.execSubsnI32 h d a b x y s
  | .cmpeqI32 h d a b x y => Sys2Proof.Machine.execCmpeqI32 h d a b x y s
  | .cmpneI32 h d a b x y => Sys2Proof.Machine.execCmpneI32 h d a b x y s
  | .cmpltI32 h d a b x y => Sys2Proof.Machine.execCmpltI32 h d a b x y s
  | .cmpleI32 h d a b x y => Sys2Proof.Machine.execCmpleI32 h d a b x y s
  | .cmpltnI32 h d a b x y => Sys2Proof.Machine.execCmpltnI32 h d a b x y s
  | .cmplenI32 h d a b x y => Sys2Proof.Machine.execCmplenI32 h d a b x y s
  | .selI32 h d a b x y => Sys2Proof.Machine.execSelI32 h d a b x y s
  | .movI32 h d a x => Sys2Proof.Machine.execMovI32 h d a x s
  | .movsI32 h d a => Sys2Proof.Machine.execMovsI32 h d a s
  | .vclmul h d a b x y => Sys2Proof.Machine.execVclmul h d a b x y s
  | .vclmulh h d a b x y => Sys2Proof.Machine.execVclmulh h d a b x y s
  | .madI32 h d a b x y => Sys2Proof.Machine.execMadI32 h d a b x y s
  | .addiI32 h d a imm => Sys2Proof.Machine.execAddiI32 h d a imm s
  | .andiI32 h d a imm => Sys2Proof.Machine.execAndiI32 h d a imm s
  | .oriI32 h d a imm => Sys2Proof.Machine.execOriI32 h d a imm s
  | .xoriI32 h d a imm => Sys2Proof.Machine.execXoriI32 h d a imm s
  | .shliI32 h d a imm => Sys2Proof.Machine.execShliI32 h d a imm s
  | .shriI32 h d a imm => Sys2Proof.Machine.execShriI32 h d a imm s
  | .sraiI32 h d a imm => Sys2Proof.Machine.execSraiI32 h d a imm s
  | .liiI32 h d imm => Sys2Proof.Machine.execLiiI32 h d imm s
  | .addF32 h d a b x y => Sys2Proof.Machine.execAddF32 h d a b x y s
  | .subF32 h d a b x y => Sys2Proof.Machine.execSubF32 h d a b x y s
  | .mulF32 h d a b x y => Sys2Proof.Machine.execMulF32 h d a b x y s
  | .fmaF32 h d a b x y => Sys2Proof.Machine.execFmaF32 h d a b x y s
  | .fmsF32 h d a b x y => Sys2Proof.Machine.execFmsF32 h d a b x y s
  | .minF32 h d a b x y => Sys2Proof.Machine.execMinF32 h d a b x y s
  | .maxF32 h d a b x y => Sys2Proof.Machine.execMaxF32 h d a b x y s
  | .absF32 h d a x => Sys2Proof.Machine.execAbsF32 h d a x s
  | .negF32 h d a x => Sys2Proof.Machine.execNegF32 h d a x s
  | .cmpeqF32 h d a b x y => Sys2Proof.Machine.execCmpeqF32 h d a b x y s
  | .cmpltF32 h d a b x y => Sys2Proof.Machine.execCmpltF32 h d a b x y s
  | .cmpleF32 h d a b x y => Sys2Proof.Machine.execCmpleF32 h d a b x y s
  | .cmpunF32 h d a b x y => Sys2Proof.Machine.execCmpunF32 h d a b x y s
  | .copysignF32 h d a b x y => Sys2Proof.Machine.execCopysignF32 h d a b x y s
  | .addH2 h d a b x y => Sys2Proof.Machine.execAddH2 h d a b x y s
  | .subH2 h d a b x y => Sys2Proof.Machine.execSubH2 h d a b x y s
  | .mulH2 h d a b x y => Sys2Proof.Machine.execMulH2 h d a b x y s
  | .fmaH2 h d a b x y => Sys2Proof.Machine.execFmaH2 h d a b x y s
  | .minH2 h d a b x y => Sys2Proof.Machine.execMinH2 h d a b x y s
  | .maxH2 h d a b x y => Sys2Proof.Machine.execMaxH2 h d a b x y s
  | .absH2 h d a x => Sys2Proof.Machine.execAbsH2 h d a x s
  | .addBf2 h d a b x y => Sys2Proof.Machine.execAddBf2 h d a b x y s
  | .subBf2 h d a b x y => Sys2Proof.Machine.execSubBf2 h d a b x y s
  | .mulBf2 h d a b x y => Sys2Proof.Machine.execMulBf2 h d a b x y s
  | .fmaBf2 h d a b x y => Sys2Proof.Machine.execFmaBf2 h d a b x y s
  | .minBf2 h d a b x y => Sys2Proof.Machine.execMinBf2 h d a b x y s
  | .maxBf2 h d a b x y => Sys2Proof.Machine.execMaxBf2 h d a b x y s
  | .absBf2 h d a x => Sys2Proof.Machine.execAbsBf2 h d a x s
  | .cvtF32I32 h d a x => Sys2Proof.Machine.execCvtF32I32 h d a x s
  | .cvtI32F32 h d a x => Sys2Proof.Machine.execCvtI32F32 h d a x s
  | .cvtF32N32 h d a x => Sys2Proof.Machine.execCvtF32N32 h d a x s
  | .cvtN32F32 h d a x => Sys2Proof.Machine.execCvtN32F32 h d a x s
  | .cvtBf2F32 h d a x => Sys2Proof.Machine.execCvtBf2F32 h d a x s
  | .cvtF32Bf h d a x => Sys2Proof.Machine.execCvtF32Bf h d a x s
  | .cvtH2F32 h d a x => Sys2Proof.Machine.execCvtH2F32 h d a x s
  | .cvtF32H h d a x => Sys2Proof.Machine.execCvtF32H h d a x s
  | .cvtE4x4F32 h d a x => Sys2Proof.Machine.execCvtE4x4F32 h d a x s
  | .cvtF32E4 h d a x => Sys2Proof.Machine.execCvtF32E4 h d a x s
  | .cvtE5x4F32 h d a x => Sys2Proof.Machine.execCvtE5x4F32 h d a x s
  | .cvtF32E5 h d a x => Sys2Proof.Machine.execCvtF32E5 h d a x s
  | .cvtQ4F32 h d a b x y => Sys2Proof.Machine.execCvtQ4F32 h d a b x y s
  | .cvtF32Q4 h d a b x y => Sys2Proof.Machine.execCvtF32Q4 h d a b x y s
  | .rintF32 h d a x => Sys2Proof.Machine.execRintF32 h d a x s
  | .rcp h d a x => Sys2Proof.Machine.execRcp h d a x s
  | .sqrt h d a x => Sys2Proof.Machine.execSqrt h d a x s
  | .rsqrt h d a x => Sys2Proof.Machine.execRsqrt h d a x s
  | .exp2 h d a x => Sys2Proof.Machine.execExp2 h d a x s
  | .log2 h d a x => Sys2Proof.Machine.execLog2 h d a x s
  | .sinpi h d a x => Sys2Proof.Machine.execSinpi h d a x s
  | .cospi h d a x => Sys2Proof.Machine.execCospi h d a x s
  | .shfl h d a b x y => Sys2Proof.Machine.execShfl h d a b x y s
  | .shfli h d a n x => Sys2Proof.Machine.execShfli h d a n x s
  | .bfly h d a n x => Sys2Proof.Machine.execBfly h d a n x s
  | .bcast h d a b x => Sys2Proof.Machine.execBcast h d a b x s
  | .xredAdd h d a x => Sys2Proof.Machine.execXredAdd h d a x s
  | .xredAddf h d a x => Sys2Proof.Machine.execXredAddf h d a x s
  | .xredMin h d a x => Sys2Proof.Machine.execXredMin h d a x s
  | .xredMax h d a x => Sys2Proof.Machine.execXredMax h d a x s
  | .xredMinf h d a x => Sys2Proof.Machine.execXredMinf h d a x s
  | .xredMaxf h d a x => Sys2Proof.Machine.execXredMaxf h d a x s
  | .xredAnd h d a x => Sys2Proof.Machine.execXredAnd h d a x s
  | .xredOr h d a x => Sys2Proof.Machine.execXredOr h d a x s
  | .xredXor h d a x => Sys2Proof.Machine.execXredXor h d a x s
  | .scanAdd h d a x => Sys2Proof.Machine.execScanAdd h d a x s
  | .scanAddf h d a x => Sys2Proof.Machine.execScanAddf h d a x s
  | .scanXor h d a x => Sys2Proof.Machine.execScanXor h d a x s
  | .scanMax h d a x => Sys2Proof.Machine.execScanMax h d a x s
  | .matchB h d a x => Sys2Proof.Machine.execMatchB h d a x s
  | .matchf h d a x => Sys2Proof.Machine.execMatchf h d a x s
  | .ballot h d a => Sys2Proof.Machine.execBallot h d a s
  | .voteAny h d a => Sys2Proof.Machine.execVoteAny h d a s
  | .voteAll h d a => Sys2Proof.Machine.execVoteAll h d a s
  | .kand h d a b => Sys2Proof.Machine.execKand h d a b s
  | .kor h d a b => Sys2Proof.Machine.execKor h d a b s
  | .kxor h d a b => Sys2Proof.Machine.execKxor h d a b s
  | .knot h d a => Sys2Proof.Machine.execKnot h d a s
  | .kmov h d a => Sys2Proof.Machine.execKmov h d a s
  | .kfromp h d a => Sys2Proof.Machine.execKfromp h d a s
  | .ktop h d a => Sys2Proof.Machine.execKtop h d a s
  | .kpop h d a => Sys2Proof.Machine.execKpop h d a s
  | .kfirst h d a => Sys2Proof.Machine.execKfirst h d a s
  | .kfs h d a => Sys2Proof.Machine.execKfs h d a s
  | .ksk h d a => Sys2Proof.Machine.execKsk h d a s
  | .draw h d b => Sys2Proof.Machine.execDraw h d b s
  | .rhash h d a b x y => Sys2Proof.Machine.execRhash h d a b x y s
  | .sdiset h a x => Sys2Proof.Machine.execSdiset h a x s
  | .sdiget h d => Sys2Proof.Machine.execSdiget h d s
  | .ldB h d base n r g => Sys2Proof.Machine.execLdB h d base n r g s
  | .ldBn h d base n r g => Sys2Proof.Machine.execLdBn h d base n r g s
  | .ldH h d base n r g => Sys2Proof.Machine.execLdH h d base n r g s
  | .ldHn h d base n r g => Sys2Proof.Machine.execLdHn h d base n r g s
  | .ldW h d base n r g => Sys2Proof.Machine.execLdW h d base n r g s
  | .ldD h d base n r g => Sys2Proof.Machine.execLdD h d base n r g s
  | .ldDec h d base n r g => Sys2Proof.Machine.execLdDec h d base n r g s
  | .ldRaw h d base n r g => Sys2Proof.Machine.execLdRaw h d base n r g s
  | .stB h d base n r g => Sys2Proof.Machine.execStB h d base n r g s
  | .stH h d base n r g => Sys2Proof.Machine.execStH h d base n r g s
  | .stW h d base n r g => Sys2Proof.Machine.execStW h d base n r g s
  | .stD h d base n r g => Sys2Proof.Machine.execStD h d base n r g s
  | .stRaw h d base n r g => Sys2Proof.Machine.execStRaw h d base n r g s
  | .sldW h d a b x => Sys2Proof.Machine.execSldW h d a b x s
  | .sldH h d a b x => Sys2Proof.Machine.execSldH h d a b x s
  | .sldB h d a b x => Sys2Proof.Machine.execSldB h d a b x s
  | .sstW h d a b x => Sys2Proof.Machine.execSstW h d a b x s
  | .sstH h d a b x => Sys2Proof.Machine.execSstH h d a b x s
  | .sstB h d a b x => Sys2Proof.Machine.execSstB h d a b x s
  | .bdecl h a b => Sys2Proof.Machine.execBdecl h a b s
  | .bsetEmpty h a => Sys2Proof.Machine.execBsetEmpty h a s
  | .bsetFull h a => Sys2Proof.Machine.execBsetFull h a s
  | .bstat h d a => Sys2Proof.Machine.execBstat h d a s
  | .sldDec h d a b x => Sys2Proof.Machine.execSldDec h d a b x s
  | .atomAdd h d base n g => Sys2Proof.Machine.execAtomAdd h d base n g s
  | .atomAddD h d base n g => Sys2Proof.Machine.execAtomAddD h d base n g s
  | .atomMin h d base n g => Sys2Proof.Machine.execAtomMin h d base n g s
  | .atomMax h d base n g => Sys2Proof.Machine.execAtomMax h d base n g s
  | .atomMinn h d base n g => Sys2Proof.Machine.execAtomMinn h d base n g s
  | .atomMaxn h d base n g => Sys2Proof.Machine.execAtomMaxn h d base n g s
  | .atomAnd h d base n g => Sys2Proof.Machine.execAtomAnd h d base n g s
  | .atomOr h d base n g => Sys2Proof.Machine.execAtomOr h d base n g s
  | .atomXor h d base n g => Sys2Proof.Machine.execAtomXor h d base n g s
  | .atomXchg h d base n g => Sys2Proof.Machine.execAtomXchg h d base n g s
  | .atomCas h d base n g => Sys2Proof.Machine.execAtomCas h d base n g s
  | .atomCasD h d base n g => Sys2Proof.Machine.execAtomCasD h d base n g s
  | .atomFadd h d base n g => Sys2Proof.Machine.execAtomFadd h d base n g s
  | .atomFaddBf2 h d base n g => Sys2Proof.Machine.execAtomFaddBf2 h d base n g s
  | .atomFmin h d base n g => Sys2Proof.Machine.execAtomFmin h d base n g s
  | .atomFmax h d base n g => Sys2Proof.Machine.execAtomFmax h d base n g s
  | .redAdd h d base n g => Sys2Proof.Machine.execRedAdd h d base n g s
  | .redAddD h d base n g => Sys2Proof.Machine.execRedAddD h d base n g s
  | .redMin h d base n g => Sys2Proof.Machine.execRedMin h d base n g s
  | .redMax h d base n g => Sys2Proof.Machine.execRedMax h d base n g s
  | .redMinn h d base n g => Sys2Proof.Machine.execRedMinn h d base n g s
  | .redMaxn h d base n g => Sys2Proof.Machine.execRedMaxn h d base n g s
  | .redAnd h d base n g => Sys2Proof.Machine.execRedAnd h d base n g s
  | .redOr h d base n g => Sys2Proof.Machine.execRedOr h d base n g s
  | .redXor h d base n g => Sys2Proof.Machine.execRedXor h d base n g s
  | .redFadd h d base n g => Sys2Proof.Machine.execRedFadd h d base n g s
  | .redFaddBf2 h d base n g => Sys2Proof.Machine.execRedFaddBf2 h d base n g s
  | .fenceAcq h g => Sys2Proof.Machine.execFenceAcq h g s
  | .fenceRel h g => Sys2Proof.Machine.execFenceRel h g s
  | .fenceFull h g => Sys2Proof.Machine.execFenceFull h g s
  | .ifb h => Sys2Proof.Machine.execIfb h s
  | .bar h a => Sys2Proof.Machine.execBar h a s
  | .barArv h a => Sys2Proof.Machine.execBarArv h a s
  | .barWt h a => Sys2Proof.Machine.execBarWt h a s
  | .semSig h a b => Sys2Proof.Machine.execSemSig h a b s
  | .semWait h a b => Sys2Proof.Machine.execSemWait h a b s
  | .tlwait h g a b => Sys2Proof.Machine.execTlwait h g a b s
  | .txb h d => Sys2Proof.Machine.execTxb h d s
  | .txe h => Sys2Proof.Machine.execTxe h s
  | .txa h a => Sys2Proof.Machine.execTxa h a s
  | .wlput h d a b x y => Sys2Proof.Machine.execWlput h d a b x y s
  | .wlget h d => Sys2Proof.Machine.execWlget h d s
  | .amrecv h d a => Sys2Proof.Machine.execAmrecv h d a s
  | .bwaitDrained h a => Sys2Proof.Machine.execBwaitDrained h a s
  | .bwaitFull h a => Sys2Proof.Machine.execBwaitFull h a s
  | .mmaBf h d a b x y => Sys2Proof.Machine.execMmaBf h d a b x y s
  | .mmaH h d a b x y => Sys2Proof.Machine.execMmaH h d a b x y s
  | .mmaE4 h d a b x y => Sys2Proof.Machine.execMmaE4 h d a b x y s
  | .mmaE5 h d a b x y => Sys2Proof.Machine.execMmaE5 h d a b x y s
  | .mmaE4e5 h d a b x y => Sys2Proof.Machine.execMmaE4e5 h d a b x y s
  | .mmaQ4 h d a b x y => Sys2Proof.Machine.execMmaQ4 h d a b x y s
  | .mmaI8 h d a b x y => Sys2Proof.Machine.execMmaI8 h d a b x y s
  | .mzero h d => Sys2Proof.Machine.execMzero h d s
  | .mld h d a b => Sys2Proof.Machine.execMld h d a b s
  | .mstReg h d a => Sys2Proof.Machine.execMstReg h d a s
  | .mstBuf h d a b => Sys2Proof.Machine.execMstBuf h d a b s
  | .mwait h a => Sys2Proof.Machine.execMwait h a s
  | .mloop h d a b => Sys2Proof.Machine.execMloop h d a b s
  | .mconv h d a b => Sys2Proof.Machine.execMconv h d a b s
  | .kick h d a b => Sys2Proof.Machine.execKick h d a b s
  | .vchain h d a b => Sys2Proof.Machine.execVchain h d a b s
  | .pair h d a b => Sys2Proof.Machine.execPair h d a b s
  | .pairResume h d a b => Sys2Proof.Machine.execPairResume h d a b s
  | .lnch h d a b => Sys2Proof.Machine.execLnch h d a b s
  | .estat h d a n => Sys2Proof.Machine.execEstat h d a n s
  | .csend h d a b => Sys2Proof.Machine.execCsend h d a b s
  | .crecv h d a b => Sys2Proof.Machine.execCrecv h d a b s
  | .cred h d a b => Sys2Proof.Machine.execCred h d a b s
  | .amsend h d a b x => Sys2Proof.Machine.execAmsend h d a b x s
  | .rfe h a => Sys2Proof.Machine.execRfe h a s
  | .resume h a => Sys2Proof.Machine.execResume h a s
  | .ctxrd h d a b => Sys2Proof.Machine.execCtxrd h d a b s
  | .ctxwr h d a b => Sys2Proof.Machine.execCtxwr h d a b s
  | .tlbinv h d a b => Sys2Proof.Machine.execTlbinv h d a b s
  | .psrd h d a => Sys2Proof.Machine.execPsrd h d a s
  | .pswr h a b => Sys2Proof.Machine.execPswr h a b s
  | .idle h a => Sys2Proof.Machine.execIdle h a s
  | .rtwr h d a => Sys2Proof.Machine.execRtwr h d a s
  | .sealBlock h a => Sys2Proof.Machine.execSealBlock h a s
  | .halt h a => Sys2Proof.Machine.execHalt h a s
  | .wake h a => Sys2Proof.Machine.execWake h a s

end Sys2Proof.Machine
end

