-- ==== Sys2Proof/Machine/Issue.lean ====
section
/-! DEFINITION. Issue (02, 07 R160 to R165, 16 R358, R370): a wave's threads at one PC run one issue group. The group is
found in its packet, its words run one after another on the issue stage, each reading the wave as it stood before, and
the outcome is stored back. -/

namespace Sys2Proof.Machine

noncomputable section

/-! ### Groups (R161, R164) -/

/-- One instruction of a group: where its instruction word stands, the word, and what it decodes to. -/
structure GWord where
  pc : Nat
  word : W32
  instr : Except DecodeError Instr

/-- The issue group that stands first in a list of placed words (R161). -/
def takeGroup (mw iw : Option W32) : List (Nat × W32) → List GWord
  | [] => []
  | (a, w) :: r =>
    if isExt w then (if isImmWord w then takeGroup mw (some w) r else takeGroup (some w) iw r)
    else
      let g : GWord := ⟨a, w, decode mw iw w⟩
      if bit w 31 then g :: takeGroup none none r else [g]

/-- The kind of a group's instruction. -/
def GWord.kind (g : GWord) : Kind :=
  match g.instr with
  | .ok i => (i.shape.map Shape.kind).getD .perThread
  | .error _ => wordKind g.word

/-- The group that stands at a PC of a packet that has passed its checks. -/
def groupAt (ws : List W32) (pc : Nat) : List GWord :=
  let p := packetOf pc
  takeGroup none none ((ws.zipIdx.map (fun e => (p + 4 * e.2, e.1))).drop ((pc - p) / 4))

/-- The destinations of a word of a group; a stochastic rounding also writes `sdi` (R91). -/
def GWord.dests (w : Wave) (g : GWord) : List Nat :=
  destKeys w g.word ++ (match g.instr with
    | .ok i => if ((i.shape.map Shape.round).getD false) && i.hdr.modeCode w == 4 then srKey 6 else []
    | .error _ => [])

/-- The first word of a group that raises ILLEGAL_INSTRUCTION: it is no instruction, or it shares a destination with a
word before it (R164, R171): the later word of the two stands in `ebad` (assumption 114). -/
def badWord (w : Wave) (seen : List Nat) : List GWord → Option W32
  | [] => none
  | g :: r =>
    match g.instr with
    | .error _ => some g.word
    | .ok _ => if (g.dests w).any seen.contains then some g.word else badWord w (seen ++ g.dests w) r

/-! ### Running a group -/

/-- Runs the words of a group in order, each as `exec` gives it; a word that is no instruction takes its fault. -/
def runWords : List GWord → State → Out
  | [], s => .next s
  | g :: r, s =>
    let s1 := { s with cur := { s.cur with word := g.word, wordPc := g.pc } }
    match exec (match g.instr with
      | .ok i => i
      | .error _ => .reservedEncodingIssue g.word) s1 with
    | .next s2 => runWords r s2
    | o => o

/-- Lanes that a trial run of a group found held or faulting. -/
def Cur.bad (c : Cur) : Lanes := c.held ||| maskOf (fun L => c.faults.any (fun f => f.lane == L))

/-- The first fault of each lane that was not held. -/
def Cur.firstFaults (c : Cur) : List LaneFault :=
  (lanesOf c.bad).filterMap fun L => if laneIn c.held L then none else c.faults.find? (fun f => f.lane == L)

/-- The lanes that a group of several words issues for (R41): where its convergence point is member-masked, the effective
members alone; the others pass over the group. -/
def groupLanes (g : List GWord) (s : State) : Lanes :=
  if g.any (fun x => x.kind == .waveLevel) then s.cur.lanes
  else
    match g.find? (fun x => x.kind == .memberMasked) with
    | some x => s.cur.lanes &&& (match x.instr with
      | .ok i => i.hdr.members s.pre
      | .error _ => s.cur.lanes)
    | none => s.cur.lanes

/-- May a word be an ordered operation in a DET launch, or one whose spill may be (R48)? -/
def orderedWord (x : W32) : Bool :=
  let m := (fld x 26 5).toNat
  let n := (fld x 0 6).toNat
  m == 15 || m == 17 || m == 18 || (m == 19 && (n == 8 || n == 10 || n == 11)) || (m == 4 && (fld x 24 2).toNat == 2) ||
    (m == 5 && n == 1)

/-- The trial of a group found lanes that are held or fault: those perform nothing of it; if a word acts for the whole
wave, or for its members, no lane does, and none passes an ordered word of a DET launch while another is held (R48). -/
def retryGroup (g : List GWord) (s t : State) : Out :=
  let wide := g.any (fun x => x.kind != .perThread)
  let joint := s.curLaunch.rcd.det && t.cur.held != 0 && g.any (fun x => orderedWord x.word)
  let stay := if wide || joint then s.cur.lanes else t.cur.bad
  let faults := if wide && t.cur.held != 0 then [] else t.cur.firstFaults
  let rest := s.cur.lanes &&& ~~~ stay
  let base := if rest = 0 then Host.Outcome.next s
    else runWords g { s with cur := { s.cur with lanes := rest, chained := true } }
  match base with
  | .next u =>
    let u1 := { u with cur := { u.cur with lanes := s.cur.lanes, chained := false, faults := [], acted := t.cur.acted },
                       wv := u.wv.setPcs stay s.cur.pc, walks := t.walks, starts := t.starts }
    let u2 := u1.hold (stay &&& ~~~ maskOf (fun L => faults.any (fun f => f.lane == L)))
    .next (u2.takeFaults faults)
  | o => o

/-- A trial run of the words of a group. -/
def trialRun (g : List GWord) (s : State) : Out := runWords g { s with cur := { s.cur with chained := true } }

/-- Does a word, held, take a first step of its own (an arrival, a start)? -/
def wordActs (s : State) (x : GWord) : Bool :=
  match trialRun [x] s with
  | .next t => t.cur.acted
  | _ => false

/-- A trial in which some words took their first step and hold the group: they have taken it where no other word stops the group. -/
def actGroup (g : List GWord) (s t : State) : Out :=
  match trialRun (g.filter (fun x => !wordActs s x)) s with
  | .next u =>
    if u.cur.bad = 0 then
      (match trialRun (g.filter (wordActs s)) s with
        | .next v => .next { v with cur := { v.cur with chained := false } }
        | o => o)
    else retryGroup g s { t with cur := { t.cur with acted := false } }
  | o => o

/-- A skid that ends in front of a group ends as the trial of the group found: with the hit that it keeps for the debugger (R202, R370). -/
def State.keepHit (s t : State) : State :=
  s.setW { s.wv with dbgpend := t.wv.dbgpend, skipbp := t.wv.skipbp,
                     front := if t.wv.dbgpend = 0 then s.wv.front else t.wv.front }

/-- Runs a group of several words, first as a trial. -/
def runChain (g : List GWord) (s : State) : Out :=
  match trialRun g s with
  | .next t =>
    if t.cur.bad = 0 then .next { t with cur := { t.cur with chained := false } }
    else if s.wv.skidding ∧ t.wv.stopped then .next (s.stopSkid.keepHit t)
    else if t.cur.acted ∧ t.cur.faults = [] then actGroup g s t
    else retryGroup g s t
  | o => o

/-- Is a word one that a SEALED_FLOW launch refuses (R174)? -/
def flowWord (x : W32) : Bool :=
  let m := (fld x 26 5).toNat
  (m == 4 && (fld x 24 2).toNat % 3 == 0) || (m == 5 && decide ((fld x 0 6).toNat ≤ 1))

/-- Does a group hold a wave-level word? -/
def anyWide (g : List GWord) : Bool := g.any (fun x => x.kind == .waveLevel)

/-- The word of a group that stops it for every thread it issues for: ILLEGAL_INSTRUCTION, then FLOW_SEALED (R164, R174, R183). -/
def stopWord (g : List GWord) (s : State) : Option GWord :=
  match badWord s.pre [] g with
  | some x => some ⟨s.cur.pc, x, .error .notAnInstruction⟩
  | none => if s.curLaunch.rcd.sealedFlow then g.find? (fun x => flowWord x.word) else none

/-- A group that is no instruction of the map issues as its kind does: one with a wave-level word once every live thread stands at it
(R39, R183), where FLOW_SEALED waits for nothing (R174). -/
def stopWaits (g : List GWord) (s : State) : Bool :=
  (badWord s.pre [] g).isSome && anyWide g && s.cur.lanes != s.pre.live

/-- Does a word take a pending-reply slot as a long-latency instruction (R66, R69)? -/
def longWord (x : W32) : Bool :=
  let n := (fld x 0 6).toNat
  match (fld x 26 5).toNat with
  | 0 => n == 8
  | 10 => true
  | 14 => true
  | 16 => decide (n ≤ 2) || n == 9
  | 17 => true
  | 19 => n == 11 || n == 12
  | 20 => n == 9 && fld x 8 6 == 0
  | 23 => n == 1
  | _ => false

/-- Runs a group (R41, R164); a thread whose next group is long-latency is not ready while no slot is free, whatever its guard (R69). -/
def runGroup (g : List GWord) (s : State) : Out :=
  match stopWord g s with
  | some x => if stopWaits g s then .next (s.hold s.cur.lanes) else runWords [x] s
  | none =>
    if g.any (fun x => longWord x.word) ∧ s.pre.freeSlot = none then .next (s.hold s.cur.lanes)
    else if g.length ≤ 1 then runWords g s
    else
      match runChain g { s with cur := { s.cur with lanes := groupLanes g s } } with
      | .next u => .next { u with cur := { u.cur with lanes := s.cur.lanes } }
      | o => o

/-! ### The issue stage -/

/-- A hit of breakpoint register `n`: the wave stops in front of the word (R370). -/
def State.bpStop (s : State) (n : Nat) : State :=
  let L := (lanesOf s.cur.lanes).headD 0
  if s.wv.skidding then s.stopSkid (some (bpBad n L).toNat)
  else
    (s.takeFaults [⟨L, .breakpoint, bpBad n L, true, none⟩]).hold s.cur.lanes

/-- A wave in its skid that can issue no further stops (R358). -/
def Wave.endSkid (w : Wave) : Wave :=
  { w with stopped := true, skidding := false, parked := [], ecause := ecauseWord .halted false 0 }

/-- An instruction of a wave of a block has retired (R407): its stall timer begins anew, and, for the wave of its last cause, its repeat count. -/
def Block.retire (b : Block) (wid : Nat) : Block :=
  { b with stall := 0, wdFired := false, repCount := if b.repWave = some wid then 0 else b.repCount }

/-- After a group has issued: its words count in `skid`, a skipped breakpoint is armed again, the packet is counted (R482), and STEP
stops the wave with SINGLE_STEP (R358, R370). -/
def State.afterIssue (s : State) (words : Nat) : State :=
  let w1 := { s.wv with skipbp := false }
  let w2 := if w1.skidding then { w1 with skid := w1.skid + words } else w1
  let b1 := s.bk.retire s.cur.wid
  let world := s.worldIn b1.die b1.tile b1.pid
  let s0 := if b1.die = 64 then s else s.bumpCore b1.die b1.tile 3 world (countLanes s.cur.lanes)
  let s1 := { s0 with wv := w2, bk := b1 }
  if (s.ctxWord 5 s.bk.ctxn 4).getLsbD 1 && (s.bk.stopping == .no || s.bk.trapsAt s.clk) then
    let pc := ((lanesOf w2.live).head?.map w2.pcOf).getD s.cur.next
    { s1 with wv := w2.stopFor .singleStep false 0 pc 0, bk := s1.bk.beginTrap s.cur.wid (some s.clk) }
  else s1

/-- A group that stopped its wave was its first issue after a resume: a skipped breakpoint is armed again (R370); a skid that ended in
front of it issued nothing. What retired of the group, as a `brk` or a `trap` does, counts (R188, R407). -/
def State.afterStop (s t : State) : State :=
  if s.wv.skidding then t
  else
    let b := if t.wv.wclk = s.wv.wclk then t.bk else t.bk.retire t.cur.wid
    { t with wv := { t.wv with skipbp := false }, bk := b }

/-- Did the run of a group issue anything: a lane performed it or faulted, or a word took its first step? -/
def State.progressed (s : State) : Bool := s.cur.acted || s.wv.stopped || s.cur.lanes &&& ~~~ s.cur.held != 0

/-- The shared path of a split tile that a group's word takes (R354): 0 memory, 1 bulk copies, 2 special functions, 3 fabric. -/
def wordPath (x : W32) : Option Nat :=
  let m := (fld x 26 5).toNat
  if m = 23 ∨ (m = 0 ∧ (fld x 0 6).toNat = 8) then some 3
  else if m = 10 then some 2
  else if m = 22 ∧ (fld x 0 6).toNat ≤ 1 then some 1
  else if (14 ≤ m ∧ m ≤ 19) ∨ m = 21 ∨ (m = 20 ∧ ((fld x 0 6).toNat = 8 ∨ (fld x 0 6).toNat = 9)) then some 0
  else none

/-- What the issue of a group is: its outcome, the shared paths that it takes, the threads that issue, those that are ready though an order
holds them (R36), and whether every word of it is per-thread. -/
structure Issued where
  out : Out
  paths : List Nat
  lanes : Lanes
  ordered : Lanes
  mixes : Bool

/-- An issue that takes no shared path. -/
def Issued.of (s : State) (lanes : Lanes) : Issued := ⟨.next s, [], lanes, 0, false⟩

/-- Nothing issues; the walks and register lines that were asked for stay asked for, and what a start phase has checked and pinned stays so (R265). -/
def Issued.wants (s t : State) (ordered : Lanes) : Option Issued :=
  if t.walks = s.walks ∧ t.lineWants = s.lineWants ∧ t.starts = s.starts ∧ ordered = 0 then none
  else some ⟨.next { s with walks := t.walks, lineWants := t.lineWants, starts := t.starts }, [], 0, ordered, false⟩

/-! ### Register lines (R78) -/

/-- The vector sources of an instruction word, with the third source of its modifier word: field and span. -/
def readSpans (x : W32) (c : BitVec 6) : List (BitVec 6 × Nat) :=
  let a := fld x 14 6
  let b := fld x 8 6
  let d := fld x 20 6
  let n := (fld x 0 6).toNat
  let f := (fld x 4 4).toNat
  let wide := fun (k : Nat) => if k = 1 ∨ k = 11 then 2 else 1
  match (fld x 26 5).toNat with
  | 0 => if n = 8 then [(a, 4)] else []
  | 5 => if n ≤ 1 then [(a, 2)] else []
  | 6 =>
    if n = 34 then []
    else if [9, 10, 15, 19, 20, 21, 33].contains n then [(a, 1)]
    else if n = 37 then [(a, 1), (b, 1), (c, 1)] else [(a, 1), (b, 1)]
  | 7 => if (fld x 11 3).toNat = 7 then [] else [(a, 1)]
  | 8 =>
    if [7, 8, 22, 38].contains n then [(a, 1)]
    else if [3, 4, 19, 35].contains n then [(a, 1), (b, 1), (c, 1)] else [(a, 1), (b, 1)]
  | 9 =>
    (match n with
      | 4 => [(a, 2)]
      | 6 => [(a, 2)]
      | 8 => [(a, 4)]
      | 10 => [(a, 4)]
      | 12 => [(a, 4), (b, 1)]
      | 13 => [(a, 1), (b, 1)]
      | _ => [(a, 1)])
  | 10 => [(a, 1)]
  | 11 => if n = 0 then [(a, 1), (b, 1)] else if n ≤ 18 then [(a, 1)] else []
  | 13 => if n = 1 then [(a, 1), (b, 1), (c, 1)] else if n = 2 then [(a, 1)] else []
  | 14 => [(b, 1)]
  | 15 => [(b, 1), (d, if (fld x 5 3).toNat = 3 then 2 else 1)]
  | 16 => if n ≤ 2 ∨ n = 9 then [(a, 1)] else if n ≤ 5 then [(a, 1), (d, 1)] else []
  | 17 => [(b, 1), (d, if f = 10 then 2 else if f = 11 then 4 else wide f)]
  | 18 => [(b, 1), (d, wide f)]
  | 19 => if n = 10 then [(a, 2), (b, 1)] else []
  | 20 => if n ≤ 6 then (if n = 5 then [(a, 5), (b, 5)] else [(a, 4), (b, 4)]) else []
  | 23 => if n = 3 then [(a, 3)] else []
  | _ => []

/-- The vector registers that a word reads. -/
def GWord.reads (w : Wave) (g : GWord) : List Nat :=
  let c := match g.instr with
    | .ok i => i.hdr.fieldC
    | .error _ => 0
  (readSpans g.word c).flatMap (fun e => (List.range e.2).map (fun i => w.vnum e.1 + i))

/-- The vector registers that a word reads or writes, those that its wave has. -/
def GWord.regs (w : Wave) (g : GWord) : List Nat :=
  let writes := ((destKeys w g.word).filter (fun k => decide (k ≥ 10000))).map (· - 10000)
  ((g.reads w ++ writes).filter (fun r => decide (r < w.vregs))).eraseDups

/-- Is a line of a wave present in the register cache of its quarter? -/
def State.hasLine (s : State) (q uid wid reg : Nat) : Bool :=
  s.rcache.any (fun x => x.quarter == q && x.uid == uid && x.wid == wid && x.reg == reg)

/-- The absent lines of a group. -/
def State.absent (s : State) (uid wid : Nat) (g : List GWord) : List Nat :=
  let w := s.wave uid wid
  (g.flatMap (GWord.regs w)).eraseDups.filter (fun r => !s.hasLine (s.quarterOf uid wid) uid wid r)

/-- Asks for lines; the threads that need them are not ready until they are present. -/
def State.wantLines (s : State) (uid wid : Nat) (rs : List Nat) : State :=
  { s with lineWants := s.lineWants ++ (rs.map (fun r => (uid, wid, r))).filter (fun x => !s.lineWants.contains x) }

/-- The lines of a group are used now; those that it writes differ from their image. -/
def State.useLines (s : State) (uid wid : Nat) (g : List GWord) : State :=
  let w := s.wave uid wid
  let q := s.quarterOf uid wid
  let used := g.flatMap (GWord.regs w)
  let read := g.flatMap (GWord.reads w)
  let put := ((g.flatMap (fun x => destKeys w x.word)).filter (fun k => decide (k ≥ 10000))).map (· - 10000)
  { s with rcache := s.rcache.map (fun x =>
      if x.quarter == q && x.uid == uid && x.wid == wid && used.contains x.reg then
        { x with usedAt := s.clk, readAt := if read.contains x.reg then s.clk else x.readAt, dirty := x.dirty || put.contains x.reg }
      else x) }

/-! ### The issue of a group -/

/-- Runs the group `g` for the lanes of a wave at `pc`: none where nothing of it can issue. -/
def State.issueGroup (s : State) (uid wid : Nat) (lanes : Lanes) (pc : Nat) (g : List GWord) : Option Issued :=
  let next := (g.getLast?.map (fun x => x.pc + 4)).getD (packetOf pc + 12)
  let st := s.load uid wid lanes pc next
  match runGroup g st with
  | .next t =>
    if t.progressed then
      let u := if t.wv.stopped then st.afterStop t else if t.cur.held == t.cur.lanes then t else t.afterIssue g.length
      some ⟨.next (u.store.useLines uid wid g), (g.filterMap (fun x => wordPath x.word)).eraseDups,
        if t.cur.acted || t.wv.stopped then lanes else lanes &&& ~~~ t.cur.held, t.cur.ordered, g.all (fun x => x.kind == .perThread)⟩
    else Issued.wants s t t.cur.ordered
  | o => some ⟨o, [], lanes, 0, false⟩

/-- Issues the group at `pc` of a packet, for the lanes of a wave that stand there, once its register lines are present. -/
def State.issuePacket (s : State) (uid wid : Nat) (lanes : Lanes) (pc : Nat) (ws : List W32) : Option Issued :=
  let b := s.blocks.get uid {}
  let w := b.waves[wid]?.getD {}
  let g := groupAt ws pc
  let st := s.load uid wid lanes pc pc
  let next := (g.getLast?.map (fun x => x.pc + 4)).getD (packetOf pc + 12)
  if pc % 4 ≠ 0 || !startsGroup ws ((pc - packetOf pc) / 4) then some (.of (st.allLanesFault .align (fun _ => BitVec.ofNat 64 pc)).store lanes)
  else
    match (if w.skipbp then none else s.bpExec b.ctxn pc next) with
    | some n => some (.of (st.bpStop n).store lanes)
    | none =>
      if w.skidding && decide (w.skid + g.length > 8) then some (.of ({ st with wv := st.wv.endSkid }).store lanes)
      else
        match s.absent uid wid g with
        | [] => s.issueGroup uid wid lanes pc g
        | rs => Issued.wants s (s.wantLines uid wid rs) 0

/-- Issues at `pc` for lanes of a wave: the packet's checks come first (R163, R479), and the lines that the fetch read stay in the
instruction cache (R156). -/
def State.issueAt (s : State) (uid wid : Nat) (lanes : Lanes) (pc : Nat) : Option Issued :=
  let b := s.blocks.get uid {}
  let w := b.waves[wid]?.getD {}
  let p := packetOf pc
  match s.packetStop (b.who w) p with
  | some (.fault c e) => some (.of ((s.load uid wid lanes pc pc).allLanesFault c (fun _ => e)).store lanes)
  | some (.walk va) => Issued.wants s (s.want (b.who w) va) 0
  | some _ => none
  | none =>
    match s.verifyPacket b p, s.packet (b.who w) p with
    | .error n, _ => some (.of (s.xipFail n) lanes)
    | .ok t, .ok ws => (t.keepPacket (b.who w) p).issuePacket uid wid lanes pc ws
    | .ok _, .error _ => none

/-- The live threads of a wave in lane order after the lane that led last (R37). -/
def Wave.laneTurn (w : Wave) : List Nat :=
  (allLanes.drop (w.lastLane + 1) ++ allLanes.take (w.lastLane + 1)).filter (laneIn w.live)

/-- The PCs at which a wave's live threads stand, in that order. -/
def Wave.pcs (w : Wave) : List Nat := (w.laneTurn.map w.pcOf).eraseDups

/-- The live threads of a wave at a PC. -/
def Wave.lanesAt (w : Wave) (pc : Nat) : Lanes := maskOf (fun L => laneIn w.live L && w.pcOf L == pc)

/-- What each PC of a wave can issue. -/
def State.issues (s : State) (uid wid : Nat) : List (Nat × Issued) :=
  let w := (s.blocks.get uid {}).waves[wid]?.getD {}
  w.pcs.filterMap (fun pc => (s.issueAt uid wid (w.lanesAt pc) pc).map (fun i => (pc, i)))

/-- Has a wave a ready thread (R36): one that can issue now, or that only an order holds? -/
def State.waveReady (s : State) (uid wid : Nat) : Bool :=
  let w := s.wave uid wid
  !w.ended && !w.stopped && !w.refence && (s.issues uid wid).any (fun e => e.2.lanes ||| e.2.ordered != 0)

/-! ### Arbitration between the worlds of a split tile (R354, R403) -/

/-- The deficit of a world on a path. -/
def State.deficit (s : State) (die t world path : Nat) : Int :=
  ((s.reg (splitReg die t + 8 + 8 * world)).extractLsb' (16 * path) 16).toInt

/-- A deficit stays within 510 of 0. -/
def State.setDeficit (s : State) (die t world path : Nat) (d : Int) : State :=
  let a := splitReg die t + 8 + 8 * world
  s.setFld a (16 * path + 15) (16 * path) (BitVec.ofInt 16 (max (-510) (min 510 d))).toNat

def State.weight (s : State) (die t world : Nat) : Nat := s.fld (splitReg die t) (8 * world + 7) (8 * world)

/-- A path in one clk (R354): which worlds request; which of the two wins (none without a request), and the deficits after. -/
def State.grantPath (s : State) (die t path : Nat) (ask : Nat → Bool) : Option Nat × State :=
  let up := fun (w : Nat) =>
    let d := s.deficit die t w path
    if ask w then d + (s.weight die t w : Int) else min d 0
  let win := if ask 0 && (!ask 1 || decide (up 0 ≥ up 1)) then some 0 else if ask 1 then some 1 else none
  let down := fun (w : Nat) => if win = some w then up w - ((s.weight die t 0 + s.weight die t 1 : Nat) : Int) else up w
  (win, (s.setDeficit die t 0 path (down 0)).setDeficit die t 1 path (down 1))

/-- Is a tile split between two worlds? -/
def State.isSplit (s : State) (die t : Nat) : Bool := decide (die < 64) && s.tileKind die t == 1 && s.fld (splitReg die t) 23 20 != 0

/-- The key of a path of a tile. -/
def pathKey (die t path : Nat) : Nat := (die * 144 + t) * 4 + path

/-- Does a path of a tile serve a partition in this clk: the tile is not split, or its world holds the path's grant, not yet used? -/
def State.served1 (s : State) (die t pid path : Nat) : Bool :=
  !s.isSplit die t || s.grants.get (pathKey die t path) 0 == (s.worldIn die t pid).getD 0 + 1

/-- Does a path of its tile serve a block's threads? In the memory pipe of a split tile the line fills of its world go first. -/
def State.pathOpen (s : State) (b : Block) (path : Nat) : Bool :=
  s.served1 b.die b.tile b.pid path &&
    (path != 0 || !s.isSplit b.die b.tile || s.lineWants.all (fun x =>
      (s.block x.1).die != b.die || (s.block x.1).tile != b.tile || (s.block x.1).pid != b.pid))

/-- A path of a tile has served one request in this clk. -/
def State.usePath (s : State) (die t path : Nat) : State := { s with grants := s.grants.set (pathKey die t path) 0 0 }

/-- Does a job or a fill of a tile's world request a path in this clk (R354)? Register lines that are fetched ask for the memory pipe,
copy and chain jobs between start and end for the bulk copy path, and collectives and messages on their way for the fabric port. -/
def State.engineAsks (s : State) (die t path world : Nat) : Bool :=
  let mine := fun (d x pid : Nat) => d == die && x == t && s.worldIn die t pid == some world
  let ofBlock := fun (u : Nat) => mine (s.block u).die (s.block u).tile (s.block u).pid
  match path with
  | 0 => s.lineWants.any (fun x => ofBlock x.1)
  | 1 => s.jobs.any (fun j => mine j.die j.tile j.pid && j.phase == .started &&
      (match j.work with
        | .copy _ => true
        | .chain _ => true
        | _ => false))
  | 3 => s.fab.any (fun o => ofBlock o.uid) || s.ams.any (fun m => mine m.sdie (m.src % 256) m.pid)
  | _ => false

/-- Does a world of a tile request a path: a thread could issue a word that takes it, or a job, message or fill of its moves? -/
def State.asksPath (s : State) (die t path world : Nat) : Bool :=
  s.engineAsks die t path world ||
    s.uids.any (fun u =>
      let b := s.block u
      b.die == die && b.tile == t && s.worldIn die t b.pid == some world &&
        (List.range b.waves.length).any (fun i => s.mayIssue u i && (s.issues u i).any (fun e => e.2.lanes != 0 && e.2.paths.contains path)))

/-- The split tiles: those whose split register was written so. -/
def State.splitTiles (s : State) : List (Nat × Nat) :=
  (s.maint.filterMap (fun e =>
    let d := (e.1 - splitReg 0 0) / (splitReg 1 0 - splitReg 0 0)
    let t := (e.1 - splitReg d 0) / (splitReg 0 1 - splitReg 0 0)
    if splitReg 0 0 ≤ e.1 ∧ e.1 = splitReg d t ∧ t < 144 ∧ s.isSplit d t then some (d, t) else none)).eraseDups

/-- The grants of a clk: each path of each split tile chooses between its worlds. -/
def State.arbitrate (s : State) : State :=
  s.splitTiles.foldl (fun s e => (List.range 4).foldl (fun s path =>
    let g := s.grantPath e.1 e.2 path (s.asksPath e.1 e.2 path)
    { g.2 with grants := g.2.grants.set (pathKey e.1 e.2 path) ((g.1.map (· + 1)).getD 0) 0 }) s) s

/-! ### The picker of a quarter (R37, R45) -/

/-- The active waves of a quarter, in slot order after the slot that led last. -/
def State.slotsAfter (s : State) (key : Nat) : List (Nat × Nat) :=
  let n := s.leadSlot.get key 7
  (List.range 8).filterMap (fun k => (s.activeOf key).find? (fun e => (s.wave e.1 e.2).aslot == (n + 1 + k) % 8))

/-- The leader of a wave: its first thread, in lane order after the lane that led last, that can issue now, with its issue. -/
def State.leader (s : State) (uid wid : Nat) : Option (Nat × Issued) :=
  if !s.mayIssue uid wid then none
  else
    let w := s.wave uid wid
    let open_ := (s.issues uid wid).filter (fun e => e.2.paths.all (s.pathOpen (s.block uid)))
    w.laneTurn.findSome? fun L => (open_.find? (fun e => e.1 == w.pcOf L && laneIn e.2.lanes L)).map (fun e => (L, e.2))

/-- The paths of an issue have served its block's tile. -/
def State.usePaths (s : State) (uid : Nat) (i : Issued) : State :=
  let b := s.block uid
  i.paths.foldl (fun s p => s.usePath b.die b.tile p) s

/-- What a packet has come to: the machine, and the lanes taken. -/
structure PacketSt where
  out : Out
  taken : Lanes

/-- The threads of other active waves of the leader's block at its PC join the packet (R37, R38): each lane is taken once, in slot order after
the leader's. -/
def State.mixWaves (s : State) (uid pc : Nat) (taken : Lanes) : List (Nat × Nat) → PacketSt
  | [] => ⟨.next s, taken⟩
  | e :: r =>
    let m := (s.wave e.1 e.2).lanesAt pc &&& ~~~ taken
    if e.1 ≠ uid ∨ m = 0 ∨ s.mayIssue e.1 e.2 = false then s.mixWaves uid pc taken r
    else
      match s.issueAt e.1 e.2 m pc with
      | none => s.mixWaves uid pc taken r
      | some i =>
        if i.lanes = 0 ∨ i.mixes = false ∨ i.paths.any (fun p => !s.pathOpen (s.block e.1) p) = true then s.mixWaves uid pc taken r
        else
          match i.out with
          | .next t => t.mixWaves uid pc (taken ||| i.lanes) r
          | o => ⟨o, taken⟩

/-- The lane clusters that a quarter lacks: which ones is never visible (R23), a free value. -/
def State.missing (s : State) (die t q : Nat) : List Nat :=
  let n := Config.missingClusters die t q
  if die = 64 then []
  else
    match s.grade die t q with
    | 3 => [n % 4]
    | 2 => [[0, 1], [0, 2], [0, 3], [1, 2], [1, 3], [2, 3]].getD (n % 6) []
    | _ => []

/-- The physical lane on which a thread issues (R29, R45): its home lane, or its place in the working cluster that stands in for the
home lane's cluster: the first missing cluster is covered by the lowest working one, the second by the next. -/
def passLane (missing : List Nat) (L : Nat) : Nat :=
  match missing.findIdx? (· == L / 12) with
  | none => L
  | some k => 12 * ((List.range 4).filter (fun c => !missing.contains c)).getD k 0 + L % 12

/-- Does a packet of these lanes take two passes on a quarter (R45)? -/
def twoPass (missing : List Nat) (m : Lanes) : Bool := (lanesOf m).any (fun L => passLane missing L != L)

/-- What a packet leaves behind: the leader's slot and lane, the counts of packets, and, where it takes two passes, the quarter held for the next
clk (R45). -/
def State.packetDone (s : State) (key : Nat) (e : Nat × Nat) (lane : Nat) (m : Lanes) : State :=
  let b := s.block e.1
  let w := s.wave e.1 e.2
  let world := s.worldIn b.die b.tile b.pid
  let two := twoPass (s.missing b.die b.tile w.quarter) m
  let s1 := (s.setWave e.1 e.2 { w with lastLane := lane })
  let s2 := if b.die = 64 then s1 else s1.bumpCore b.die b.tile 2 world 1
  let s3 := { s2 with leadSlot := s2.leadSlot.set key w.aslot 7 }
  if two then { s3.bumpCore b.die b.tile 4 world 1 with passBusy := s3.passBusy.set key (s.clk + 2) 0 } else s3

/-- The issue packet of a quarter in this clk (R37): the leader's wave, and, where every word is per-thread, the other active waves of its
block at the leader's PC. -/
def State.packetOut (s : State) (key : Nat) (e : Nat × Nat) (x : Nat × Issued) (rest : List (Nat × Nat)) : Out :=
  match x.2.out with
  | .next t =>
    let t1 := t.usePaths e.1 x.2
    let p := if x.2.mixes then t1.mixWaves e.1 ((s.wave e.1 e.2).pcOf x.1) x.2.lanes rest else ⟨.next t1, x.2.lanes⟩
    (match p.out with
      | .next u => .next (u.packetDone key e x.1 p.taken)
      | o => o)
  | o => o

/-- The issue of a quarter: the first of its active slots whose wave can issue leads; none while a second pass holds the quarter. -/
def State.issueQuarter (s : State) (key : Nat) : Option Out :=
  if s.clk < s.passBusy.get key 0 then none
  else
    let slots := s.slotsAfter key
    slots.zipIdx.findSome? fun e =>
      (s.leader e.1.1 e.1.2).map (fun x => s.packetOut key e.1 x (slots.drop (e.2 + 1) ++ slots.take e.2))

/-- The quarters on which waves stand. -/
def State.quarterKeys (s : State) : List Nat :=
  (s.uids.flatMap (fun u => (List.range (s.block u).waves.length).map (fun i => s.quarterOf u i))).eraseDups

/-- The next issue of this clk: of the first quarter that has not issued in it and can. -/
def State.issueNext (s : State) : Option Out :=
  (s.quarterKeys.filter (fun k => !s.issuedNow.contains k)).findSome? fun k => { s with issuedNow := k :: s.issuedNow }.issueQuarter k

/-- Does a wave ask for what its threads' next groups need: one that may issue, or would if it were active? A pending wave too becomes ready
(R36, R43, R53). -/
def State.mayAsk (s : State) (u i : Nat) : Bool :=
  s.mayIssue u i || (s.setWave u i { s.wave u i with active := true }).mayIssue u i

/-- The walks and register lines that waiting threads ask for. -/
def State.askAll (s : State) : State :=
  s.uids.foldl (fun s u => (List.range (s.block u).waves.length).foldl (fun s i =>
    if s.mayAsk u i then
      (s.issues u i).foldl (fun s e =>
        match e.2.lanes, e.2.out with
        | 0, .next t => { s with walks := t.walks, lineWants := t.lineWants, starts := t.starts }
        | _, _ => s) s
    else s) s) s

/-- A wave in its skid that has nothing left to issue stops (R358), and leaves a semaphore that has not granted its wait (R243). -/
def State.endSkids (s : State) : Option State :=
  (s.uids.flatMap (fun u => (List.range (s.block u).waves.length).map (fun i => (u, i)))).findSome? fun e =>
    if s.mayIssue e.1 e.2 && (s.wave e.1 e.2).skidding then some ((s.setWave e.1 e.2 (s.wave e.1 e.2).endSkid).semLeave e.1 e.2) else none

end

end Sys2Proof.Machine
end

