-- ==== Sys2Proof/Machine/Schedule.lean ====
section
/-! DEFINITION. The order of agents when the agenda names none, and what a clock does: in a clk each quarter issues at most one packet, then
other agents take steps, then a clock passes. Which of their steps come when is free, but none waits for ever. -/

namespace Sys2Proof.Machine

/-! ### Steps that other agents may take now -/

/-- The waves of every block. -/
def State.allWaves (s : State) : List (Nat × Nat) :=
  s.uids.flatMap (fun u => (List.range (s.block u).waves.length).map (fun i => (u, i)))

/-- Partitions and the dies they stand on. -/
def State.placesOf (s : State) : List (Nat × Nat) :=
  s.pslots.map (fun e => (e.1 / 256, e.1 % 256))

/-- Stops of blocks: the broadcast of a halt, its end, held causes, and pre-emption of what the quiesce protocol still finds on a core
(R358, R359, R357, R421). -/
def State.blockSteps (s : State) : List Instr :=
  s.uids.flatMap fun u =>
    [.blockHalt u [], .blockHalt u (List.range (s.block u).waves.length), .blockStopped u, .asyncCauseTake u, .blockEnd u] ++
      (if s.quiescing (s.block u).pid && decide (3 ≤ s.qstate (s.block u).pid) then [.preempt u] else [])

/-- The steps of pending replies, atomics and commits of a wave. -/
def State.waveSteps (s : State) (u i : Nat) : List Instr :=
  let w := s.wave u i
  (w.slots.flatMap (fun e =>
    (maskOf (fun L => e.2.reqs.any (fun q => q.lane == L)) :: e.2.reqs.map (fun q => BitVec.ofNat 48 (2 ^ q.lane))).flatMap
        (fun m => (List.range (if e.2.kind = .load then 4 else 1)).map (fun k => Instr.replyWrite u i e.1 m k)) ++
      ((e.2.reqs.filter (fun _ => e.2.kind == .atomic)).map Req.pa).eraseDups.map (fun pa => Instr.atomicPerform u i e.1 pa))) ++
    (w.tx.map (fun e => Instr.txCommitValidate u i e.1)) ++
    (match w.waiting with
      | .idle _ => [.idleTimeReached u i]
      | _ => [])

/-- The steps of a job. -/
def State.jobSteps (s : State) (j : Job) : List Instr :=
  match j.work with
  | .copy d =>
    if j.phase = .queued then [.copyJobStart j.ctxn j.handle j.num]
    else
      (if d.dbuf then (d.sectors j (elemSize (s.sideType j d true).1)).map (fun x => .fillSectorArrival j.ctxn j.handle j.num x) else []) ++
        [.copyJobRetire j.ctxn j.handle j.num]
  | .chain _ => [.chainJobRetire j.ctxn j.handle j.num]
  | .pair _ _ =>
    (match s.boundQuad j.pid j.ctxn j.handle with
      | some q => [.pairJobStart q]
      | none => []) ++
    [.pairJobStart (quadOf j.die j.tile), .pairJobSuspend j.ctxn j.handle j.num, .pairJobRetire j.ctxn j.handle j.num]
  | .fabric => []
  | .amsend => [.amsendJobRetire j.ctxn j.handle j.num]
  | .tlbinv _ _ _ => [.tlbinvJobComplete j.ctxn j.handle j.num]

/-- The steps of the engines: matrix units, streams, jobs, fabric instances, messages. -/
def State.engineSteps (s : State) : List Instr :=
  s.mqueue.flatMap (fun e => [.mstBufferComplete e.1, .matrixOpComplete e.1]) ++
    s.starts.map (fun p => .streamStartPhaseEnd p.uid p.wid) ++
    s.jobs.flatMap s.jobSteps ++
    ((s.fab.map (fun o => (o.pid, o.route, o.inst))).eraseDups.map (fun x => Instr.fabricInstanceComplete x.1 x.2.1 x.2.2)) ++
    (List.range s.ams.length).map .amArrival ++
    s.launches.flatMap (fun e => (List.range e.2.inFlight.length).map (fun i => .wlputAnswer e.1 i))

/-- The steps of the dispatchers: launches taken and completed, tokens, blocks placed, the watchdog (18). -/
def State.dispatchSteps (s : State) : List Instr :=
  (s.launches.flatMap (fun e => [.commitTokenHandoff e.1, .launchQuiet e.1, .launchComplete e.1])) ++
    s.pslots.flatMap (fun e => (List.range 16).map (fun q => .launchTake (e.1 / 256) (e.2 - 1) q)) ++
    s.drones.map (fun e => .dronePlace e.1 e.2) ++
    s.placesOf.map (fun e => .blockPlace e.1 e.2) ++
    s.uids.flatMap (fun u => [.watchdog u, .repeatTrap u]) ++
    s.allWaves.map (fun e => .externalStall e.1 e.2)

/-- The register lines being fetched: a quarter serves 8 misses at once (R78, R79). -/
def State.lineSteps (s : State) : List Instr :=
  s.quarterKeys.flatMap fun k =>
    ((s.lineWants.filter (fun x => s.quarterOf x.1 x.2.1 == k)).take 8).map (fun x => .regLineFill x.1 x.2.1 x.2.2)

/-- The next word of a frame of the maintenance edge port (R460). -/
def State.mepStep (s : State) : List Instr := (s.mepJob.map (fun j => if mepCmd j.frame = 2 then Instr.mepWrite j.frame else .mepRead j.frame)).toList

/-- The steps of the chanter's protocols: teardown, quiesce, resets, the clock (R369, R421, R440, R467). -/
def State.systemSteps (s : State) : List Instr :=
  s.tearing.map .contextTeardown ++ s.resetting.map .partitionResetComplete ++
    ((List.range 256).filter (fun p => s.quiescing p || s.lost.any (fun c => c.pid == p))).map .quiesceStateDone ++
    s.chanterSteps ++ s.inbound.map .inboundMemoryRequest ++ (if s.pendFreq = 0 then [] else [.freqChangeApply]) ++ s.mepStep

/-- Every step that another agent may take now, in the model's order. -/
def State.agentSteps (s : State) : List Instr :=
  s.blockSteps ++ s.writes.map (fun w => .memoryWritePerform w.id) ++ s.walks.map (fun x => .pageWalk x.1 x.2.1 x.2.2.1 x.2.2.2) ++
    s.allWaves.flatMap (fun e => s.waveSteps e.1 e.2) ++ s.engineSteps ++ s.dispatchSteps ++ s.lineSteps ++ s.systemSteps

/-! ### What a clock does -/

/-- Ticks of 10 ns that end with this clk: CUR / 4 clk make one (R467). -/
def State.ticks (s : State) : Nat := (s.clk + 1) * 4 / s.curFreq - s.clk * 4 / s.curFreq

/-- `time` counts while RUN is 1 (R466), and at TIME = AT a pending change of frequency is made (R467). -/
def State.addTime (s : State) (n : Nat) : State :=
  if s.running then (s.setReg 0x20008 (BitVec.ofNat 64 (s.time + n))).freqApply else s

/-- The stall timers that count advance; the wait of a launch that is not ready begins now (R401, R407). -/
def State.restart (s : State) : State :=
  { s with
    blocks := s.blocks.map (fun e => (e.1, if e.2.stallCounts then { e.2 with stall := e.2.stall + 1 } else e.2)),
    launches := s.launches.map (fun e => (e.1, if s.launchReady e.2 then e.2 else { e.2 with readySince := s.clk })) }

/-- Is a matrix unit of a core at work for a world that a counter selects? -/
def State.matrixBusy (s : State) (die tile : Nat) (sel : W64) : Bool :=
  s.mqueue.any fun e =>
    e.1 / 4 == die * 144 + tile &&
      (match e.2.head? with
        | none => false
        | some m => match s.worldIn die tile (s.block m.uid).pid with
          | none => true
          | some w => sel.getLsbD (16 + w))

/-- What a counter's source adds in a clk (R482): clk, the busy clk of matrix units; of the sources whose events the model does not follow a
free count (assumption 30). -/
def State.clkCount (s : State) (a : Nat) (sel : W64) : Nat :=
  let src := field sel 7 0
  let core := a % 0x100000 / 0x10000 == 0xD
  if core && field sel 17 16 == 0 then 0
  else if src = 1 then 1
  else if src = 8 then (if s.matrixBusy ((a - 0x10000000) / 0x100000) (a % 0x10000 / 0x100) sel then 1 else 0)
  else if [6, 7, 0x0B, 0x81, 0x84, 0x87].contains src then Config.eventCount a s.clk
  else 0

/-- The counters that count by the clk. -/
def State.countClk (s : State) : State :=
  let on := s.maint.filter (fun e => decide (0x100C0000 ≤ e.1) && decide (0xC ≤ e.1 % 0x100000 / 0x10000) && decide (e.1 % 0x100000 / 0x10000 ≤ 0xD) &&
    e.1 % 16 == 0 && e.2.getLsbD 63)
  on.foldl (fun s e => s.setFld (e.1 + 8) 47 0 (s.fld (e.1 + 8) 47 0 + s.clkCount e.1 e.2)) s

noncomputable section

/-- A pending wave becomes ready, or ceases to be (R36, R43). -/
def State.markReady (s : State) : State :=
  s.allWaves.foldl (fun t e =>
    let w := t.wave e.1 e.2
    if w.active || w.ended then t
    else
      let r := if s.waveReady e.1 e.2 then some (w.readySince.getD s.clk) else none
      if r = w.readySince then t else t.setWave e.1 e.2 { w with readySince := r, readyLast := w.readyLast && r.isSome }) s

/-- The active waves of a quarter with no ready thread leave, while pending waves are ready. -/
def State.leaveSlots (s : State) (key : Nat) : State :=
  ((s.activeOf key).filter (fun e => !s.waveReady e.1 e.2)).foldl (fun t e =>
    match execWaveSwap e.1 e.2 t with
    | .next u => u
    | _ => t) s

/-- The active set of a quarter in a new clk (R43): freed slots are taken, waves without a ready thread leave, and, where none does, one may be
forced out. -/
def State.swapQuarter (s : State) (key : Nat) : State :=
  let s1 := (s.fillSlots key 8).leaveSlots key
  if (s1.activeOf key).all (fun e => s1.waveReady e.1 e.2) then
    match execForcedSwap key s1 with
    | .next u => u
    | _ => s1
  else s1

/-- The threads of a wave that can issue now, or that only an order holds. -/
def State.readyLanes (s : State) (u i : Nat) : Lanes := (s.issues u i).foldl (fun m e => m ||| e.2.lanes ||| e.2.ordered) 0

/-- A wave as it stands once its `wlget`s are answered. -/
def Wave.wlgetDone (w : Wave) : Wave :=
  w.slots.foldl (fun (w : Wave) e =>
    if e.2.kind = .wlget then ((lanesOf e.2.lanes).foldl (fun w L => w.markFull e.2.reg L e.2.span) w).setSlot e.1 {} else w) w

/-- The threads blocked in `wlget` (R46, R49): an unanswered `wlget`, and nothing but its answer, keeps them from issuing (assumption 97). -/
def State.markBlocked (s : State) : State :=
  s.allWaves.foldl (fun t e =>
    let w := s.wave e.1 e.2
    if w.wlgetOut = 0 ∨ w.stopped = true then t
    else
      let m := w.wlgetOut &&& w.live &&& ~~~ s.readyLanes e.1 e.2 &&& (s.setWave e.1 e.2 w.wlgetDone).readyLanes e.1 e.2
      t.setWave e.1 e.2 { t.wave e.1 e.2 with wlgetBlocked := m }) s

/-- Resumed waves whose threads' observed writes have come to be performed go on, with the acquire of their fence (R154). -/
def State.endFences (s : State) : State := s.allWaves.foldl (fun t e => if (t.wave e.1 e.2).refence then t.fenceWave e.1 e.2 else t) s

/-- What a new clk brings to the waves: the end of their fences, readiness, the active sets, the grants of shared paths, and what waiting threads ask for. -/
def State.newClk (s : State) : State := ((s.quarterKeys.foldl State.swapQuarter s.endFences.markReady).markBlocked.arbitrate).askAll

/-- One clock passes. While the arithmetic clock stands still only `time` goes on. -/
def State.tick (s : State) : State :=
  if s.curFreq = 0 then s.addTime 1
  else ((({ s with clk := s.clk + 1 }.dropOld).addTime s.ticks).restart.countClk.newClk).spdmSend

/-! ### Which steps the machine takes -/

/-- Does a live thread of a wave wait at a convergence point that others have not reached (R39, R40)? One that is no effective member passes. -/
def State.atConvergence (s : State) (u i L : Nat) : Bool :=
  let w := s.wave u i
  let pc := w.pcOf L
  match s.packet ((s.block u).who w) (packetOf pc) with
  | .error _ => false
  | .ok ws =>
    let g := groupAt ws pc
    let all := if anyWide g then w.live
      else ((g.find? (fun x => x.kind == .memberMasked)).map (fun x => match x.instr with
        | .ok j => j.hdr.members w
        | .error _ => w.live)).getD 0
    laneIn all L && all &&& ~~~ w.lanesAt pc != 0

/-- Does a worker hold off quiet (R46): has it a live thread that is not blocked in `wlget`, at a convergence point, a barrier or a semaphore?
Such a thread is ready, or waits for something on its way. -/
def State.restless (s : State) (u i : Nat) : Bool :=
  let w := s.wave u i
  !(match w.waiting with
      | .barrier _ _ => true
      | .semaphore _ _ granted _ => !granted
      | _ => false) &&
    (lanesOf w.live).any (fun L => !laneIn w.wlgetBlocked L && !s.atConvergence u i L)

/-- The shared path that a step of another agent takes, as die, tile, partition and path (R354): the moves of copy and chain jobs,
register lines that arrive, messages as they leave, and a collective as it completes at the first of its members. -/
def State.stepPath (s : State) (i : Instr) : Option (Nat × Nat × Nat × Nat) :=
  let ofJob := fun (c h n : Nat) => (s.jobs.find? (fun j => j.ctxn == c && j.handle == h && j.num == n)).map
    (fun j => (j.die, j.tile, j.pid, 1))
  let ofBlock := fun (u path : Nat) => ((s.block u).die, (s.block u).tile, (s.block u).pid, path)
  match i with
  | .fillSectorArrival c h n _ => ofJob c h n
  | .copyJobRetire c h n => ofJob c h n
  | .chainJobRetire c h n => ofJob c h n
  | .regLineFill u _ _ => some (ofBlock u 0)
  | .amArrival k => s.ams[k]?.map (fun m => (m.sdie, m.src % 256, m.pid, 3))
  | .fabricInstanceComplete p r n => (s.instOps p r n).head?.map (fun o => ofBlock o.uid 3)
  | _ => none

/-- A step of another agent has used its path. -/
def State.afterStep (s : State) (i : Instr) : State :=
  match s.stepPath i with
  | some (d, t, _, path) => s.usePath d t path
  | none => s

/-- May a step be taken as far as the waves go: what its meaning leaves to `step`? In a module whose state is lost, only those of the
maintenance edge port and of a reset (R468). -/
def State.allowed (s : State) (i : Instr) : Bool :=
  if s.sysLost then
    match i with
    | .moduleReset => true
    | .powerOn => true
    | .mepRead _ => true
    | .mepWrite _ => true
    | .mepReset _ => true
    | .mepBadcmd _ => true
    | _ => false
  else (match s.stepPath i with
    | some (d, t, p, path) => s.served1 d t p path
    | none => true) &&
    match i with
    | .waveSwap u w => !s.waveReady u w
    | .forcedSwap q => (s.activeOf q).all (fun e => s.waveReady e.1 e.2)
    | .launchQuiet l => (s.launch l).workers.all (fun e => (s.wave e.1 e.2).ended || !s.restless e.1 e.2)
    | _ => true

/-- Does a step change anything now? -/
def State.moves (s : State) (i : Instr) : Bool :=
  (match exec i s with
    | .next t => decide (t ≠ s)
    | _ => true) && s.allowed i

/-- The steps of other agents that would change something now. -/
def State.openSteps (s : State) : List Instr := s.agentSteps.filter s.moves

/-- A clock passes, and every quarter may issue again. -/
def State.nextClk (s : State) : State := { s.tick with issuedNow := [] }

/-- A step of another agent. -/
def State.take (s : State) (i : Instr) : Out := exec i (s.afterStep i)

/-- A turn of the other agents. While turns of the round are free, one of the open steps is taken, or a clock passes; then the steps owed
since the round began are taken, those that still change something; then a clock passes and a new round begins, which owes every step
that is open. So every step that stays open is taken (R53; assumption 24). Where no step is open, a wave in its skid that has nothing
left to issue stops, or a clock passes. -/
def State.others (s : State) : Out :=
  let evs := s.openSteps
  let n := Config.pickStep s.picks
  let t := { s with picks := s.picks + 1 }
  if evs.isEmpty then .next (s.endSkids.getD t.nextClk)
  else if s.leeway > 0 then
    let u := { t with leeway := s.leeway - 1 }
    match evs[n % (evs.length + 1)]? with
    | some ev => u.take ev
    | none => .next u.nextClk
  else
    match s.owed with
    | ev :: r => if evs.contains ev then { t with owed := r }.take ev else .next { t with owed := r }
    | [] => .next { t.nextClk with owed := evs, leeway := n }

/-- One step when the agenda is empty: the next packet of this clk, else a turn of the other agents. While the clock stands still, or the
module's state is lost, nothing issues, but the maintenance edge port goes on. -/
def State.run1 (s : State) : Out :=
  if s.sysLost || s.curFreq == 0 then
    match s.mepStep with
    | i :: _ => exec i (if s.sysLost then s else s.tick)
    | [] => .next (if s.sysLost then s else s.tick)
  else s.issueNext.getD s.others

end

end Sys2Proof.Machine
end

