-- ==== Sys2Proof/Machine/Step.lean ====
section
/-! DEFINITION. One step of the machine, and a state made to fetch a given word next. -/

namespace Sys2Proof.Machine

noncomputable section

/-- One step: the head of the agenda, or, with an empty agenda, the turn that the schedule gives. -/
def step (s : State) : Host.Outcome State Fault Refusal :=
  match s.agenda with
  | [] => s.run1
  | i :: rest =>
    match i.shape with
    | none => if s.allowed i then exec i { s with agenda := rest } else .next { s with agenda := rest }
    | some _ => .fault .agendaHoldsInstruction

end

/-- The wave of `withFetchWord`: all threads live at PC 0. -/
def fetchWave : Wave := { vregs := 48, accN := 8, live := fullMask }

/-- The block of `withFetchWord`: one wave at level S on tile 0 of die 0. -/
def fetchBlock : Block := { level := .s, waves := [fetchWave], spmb := 192 }

/-- The TLB entry of `withFetchWord`: VA 0 to PA 0, readable, writable and executable. -/
def fetchTlb : TlbE := { die := 0, quarter := some (0, 0), ctxn := 0, base := 0, size := 131072, leaf := 0x73 }

/-- The line of a vector register of that wave. -/
def fetchLine (r : Nat) : RLine := { quarter := 0, uid := 0, wid := 0, reg := r }

/-- The state with an instruction's words at the place that the next step fetches from (assumption 11): block 0, one wave
of 48 threads at PC 0, is the next to issue; its register lines are present, the clock runs, its page is translated, its memory enabled, no breakpoint is set. -/
def State.withFetchWord (s : State) (nbits w : Nat) : State :=
  let s1 := { s with
    agenda := [], issuedNow := [], sysLost := false, cur := {}, wv := {}, pre := {}, bk := {}, leadSlot := [], passBusy := [],
    blocks := s.blocks.set 0 fetchBlock {}, launches := s.launches.erase 0, tlb := fetchTlb :: s.tlb,
    writes := s.writes.filter (fun u => !u.hits 0 12), marks := s.marks.filter (fun g => decide (g ≥ 2)),
    icache := s.icache.filter (fun c => decide (c.line ≥ 1)),
    rcache := (List.range 48).map fetchLine ++ s.rcache,
    ctxWords := (List.range 5).foldl (fun t i => t.set (stAddr 5 0 i) 0 0) s.ctxWords }
  ((s1.setReg (hbmReg 0 8) 0x802).setFld 0x10048 31 24 48).putBytes 0 (leBytes (w % 2 ^ nbits) 12)

end Sys2Proof.Machine
end

