-- ==== Sys2Proof/Safety.lean ====
section
/-! DEFINITION. The terms in which claims speak: memory in its canonical form; when an instruction that stands in the
issue stage finds its operands ready, so that it neither waits nor faults; and what its results are. In all of them `s.pre`
is the wave as the clock found it, which every operand is read from, and `s.wv` the wave as the group leaves it (R46). -/

namespace Sys2Proof.Machine

/-- Memory lists its bytes by rising address and lists no zero, which is what an unlisted byte reads as. -/
def Memory.wf (m : List Host.Cell) : Bool := Tab.wf m 0

/-! ### When a per-thread instruction performs (R61, R66 to R68, R58) -/

/-- Every register of an operand is full in a lane. -/
def VOp.full (o : VOp) (w : Wave) (L : Nat) : Bool := o.regs.all (fun r => !w.isEmpty r L)

/-- Every register of a destination is full in a lane, or empty by the mark of an uncorrectable error (R232). -/
def VOp.free (o : VOp) (w : Wave) (L : Nat) : Bool := o.regs.all (fun r => !w.isEmpty r L || (w.marked r L).isSome)

/-- Every span lies below VREGS (R58). -/
def inBounds (w : Wave) (ops : List VOp) : Bool := ops.all (fun o => decide (o.reg + o.span ≤ w.vregs))

/-- No lane of a mask awaits one of the predicates from a `wlput` (R249). -/
def predsKnown (w : Wave) (m : Lanes) (ps : List (BitVec 3)) : Bool :=
  (lanesOf m).all fun L => ps.all (fun p => p == 7 || !w.predAwaited p L)

/-- Does a lane perform a per-thread instruction: it is issued, and its guard is true (R61)? -/
def State.performs (s : State) (h : Hdr) (L : Nat) : Bool := laneIn s.cur.lanes L && h.guard s.pre L

/-- The lanes that perform it. -/
def State.performers (s : State) (h : Hdr) : Lanes := maskOf (s.performs h)

/-- The guarding predicate of every lane issued is known. -/
def State.guardKnown (s : State) (h : Hdr) : Bool := predsKnown s.pre s.cur.lanes [h.guardPred]

/-- Every lane that performs finds the spans in bounds, its sources full, its destinations free and the predicates it
names known. -/
def State.ready (s : State) (h : Hdr) (dsts srcs : List VOp) (ps : List (BitVec 3)) : Bool :=
  s.guardKnown h && predsKnown s.pre (s.performers h) ps &&
    (lanesOf (s.performers h)).all fun L =>
      inBounds s.pre (dsts ++ srcs) && srcs.all (fun o => o.full s.pre L) && dsts.all (fun o => o.free s.pre L)

/-- The same for a cross-lane instruction, over its effective members, all of which are issued (R40, R213). -/
def State.membersReady (s : State) (h : Hdr) (dsts srcs : List VOp) : Bool :=
  decide (h.members s.pre &&& s.cur.lanes = h.members s.pre) && inBounds s.pre (dsts ++ srcs) &&
    (lanesOf (h.members s.pre)).all fun L => srcs.all (fun o => o.full s.pre L) && dsts.all (fun o => o.free s.pre L)

/-- Does the wave in the issue stage await a reply, or is no wave there? -/
def State.unanswered (s : State) : Bool := !s.cur.on || s.wv.slots.any (fun e => !e.2.reqs.isEmpty)

/-- May a program read `n` bytes of a buffer (R121, R126): it is declared, they lie in it, aligned, and it is FULL or DRAINING, or FILLING with
their lines present? -/
def Block.readable (b : Block) (id off n : Nat) : Bool :=
  (b.buf id).decl && decide (off + n ≤ (b.buf id).size) && off % n == 0 &&
    ((b.buf id).state == .full || (b.buf id).state == .draining ||
      ((b.buf id).state == .filling && b.rangeIn (b.buf id) off n))

/-- May a program write them: the buffer is EMPTY or FULL? -/
def Block.writable (b : Block) (id off n : Nat) : Bool :=
  (b.buf id).decl && decide (off + n ≤ (b.buf id).size) && off % n == 0 &&
    ((b.buf id).state == .empty || (b.buf id).state == .full)

/-! ### What a result is -/

/-- `wclk` after `n` threads have retired (R47), at most 2^64 - 1 (log entry 26). -/
def State.clockAfter (s : State) (n : Nat) : W64 := clkOf (s.wv.wclk.toNat + n)

/-- No pending-reply slot of the issuing wave holds the mark of an uncorrectable error. -/
def State.noMarks (s : State) : Bool := s.wv.slots.all (fun e => e.2.err == 0)

/-- The registers of destination `d` take the values `f L` in every lane L of `m`, and are full there; every other register
of every lane keeps its value; registers keep their full bits in the lanes outside `m`, and everywhere, with the slots, when no error is
marked; `n` threads are counted in `wclk`; nothing else of the machine changes. -/
def State.VecWritten (s : State) (m : Lanes) (d : VOp) (f : Nat → List W32) (n : Nat) (t : State) : Prop :=
  (t = { s with wv := { s.wv with v := t.wv.v, empty := t.wv.empty, slots := t.wv.slots, wclk := s.clockAfter n } }) ∧
  (∀ r L, L < 48 → t.wv.vreg r L =
    if laneIn m L = true ∧ d.reg ≤ r ∧ r < d.reg + d.span then (f L).getD (r - d.reg) 0 else s.wv.vreg r L) ∧
  (∀ r L, laneIn m L = true → d.reg ≤ r → r < d.reg + d.span →
    (s.wv.isEmpty r L = false ∨ ((s.wv.marked r L).isSome = true ∧ Tab.wf s.wv.slots {} = true)) →
      t.wv.isEmpty r L = false) ∧
  (∀ r L, L < 48 → laneIn m L = false → t.wv.isEmpty r L = s.wv.isEmpty r L) ∧
  (s.noMarks = true → t.wv.empty = s.wv.empty ∧ t.wv.slots = s.wv.slots)

/-- As `VecWritten` in the lanes that perform, and under the mode RS every one of them draws: its `sdi` goes up by one (R96). -/
def State.RoundWritten (s : State) (h : Hdr) (d : VOp) (f : Nat → List W32) (t : State) : Prop :=
  ∃ u, s.VecWritten (s.performers h) d f (countLanes s.cur.lanes) u ∧
    if h.modeCode s.pre = 4 then
      t = { u with wv := { u.wv with sdi := t.wv.sdi } } ∧
      ∀ L, t.wv.sdiOf L = if laneIn (s.performers h) L = true then s.wv.sdiOf L + 1 else s.wv.sdiOf L
    else t = u

/-- A long-latency instruction has issued in the lanes of `m` (R66, R69): it took the lowest free pending-reply slot, which now awaits
those lanes' replies `reqs` for destination `d`, and `d` is empty there. With no lane nothing is taken. -/
def Wave.SlotTaken (w : Wave) (m : Lanes) (kind : SlotKind) (d : VOp) (reqs : List Req) (u : Wave) : Prop :=
  if m = 0 then u = w
  else ∃ i, w.freeSlot = some i ∧
    u = { w with empty := u.empty, slots := u.slots, slotSeq := w.slotSeq + 1 } ∧
    u.slot i = { kind := kind, reg := d.reg, span := d.span, lanes := m, reqs := reqs, ord := w.slotSeq } ∧
    (∀ r L, laneIn m L = true → d.reg ≤ r → r < d.reg + d.span → u.isEmpty r L = true) ∧
    (w.slots.all (fun e => e.2.err == 0) = true →
      (∀ j, j ≠ i → u.slot j = w.slot j) ∧
      (∀ r L, L < 48 → ¬ (laneIn m L = true ∧ d.reg ≤ r ∧ r < d.reg + d.span) → u.isEmpty r L = w.isEmpty r L))

/-- The state with the issuing wave `u`, in which `n` threads are counted. -/
def State.retired (s : State) (u : Wave) (n : Nat) : State := { s with wv := { u with wclk := clkOf (u.wclk.toNat + n) } }

/-- The PCs of the lanes of `m` become `f L`, every other lane keeps its PC, `n` threads are counted, nothing else changes. -/
def State.PcsWritten (s : State) (m : Lanes) (f : Nat → Nat) (n : Nat) (t : State) : Prop :=
  t = s.retired { s.wv with pc := t.wv.pc } n ∧
  ∀ L, t.wv.pcOf L = if laneIn m L = true then f L else s.wv.pcOf L

/-- Predicate `p` takes the bits of `x` in the lanes of `m` (p7 discards them); `n` threads are counted in `wclk`; nothing else
changes. -/
def State.predWritten (s : State) (m : Lanes) (p : BitVec 3) (x : Lanes) (n : Nat) : State :=
  { s with wv := { s.wv with
      preds := if p = 7 then s.wv.preds else s.wv.preds.set p.toNat ((s.wv.pred p &&& ~~~ m) ||| (x &&& m)) 0
      wclk := s.clockAfter n } }

/-- Scalar register `d` takes `x` (s0 discards it), the wave's live threads are counted in `wclk`, nothing else
changes. -/
def State.scalarWritten (s : State) (d : BitVec 6) (x : W64) : State :=
  { s with wv := { s.wv with
      sregs := if d = 0 then s.wv.sregs else s.wv.sregs.set d.toNat x 0
      wclk := s.clockAfter (countLanes s.pre.live) } }

/-- Mask `d` takes `x` (k0 discards it), KZ says whether `x` is zero (R62), the wave's live threads are counted, nothing
else changes. -/
def State.maskWritten (s : State) (d : BitVec 3) (x : Lanes) : State :=
  { s with wv := { s.wv with
      masks := if d = 0 then s.wv.masks else s.wv.masks.set d.toNat x 0
      kz := x == 0
      wclk := s.clockAfter (countLanes s.pre.live) } }

end Sys2Proof.Machine
end

