-- ==== Sys2Proof/Certificates/Slice0/Obligations.lean ====
section
/-! DEFINITION. The statements for the provers. A statement of a result says, for every state and operands that meet its
hypotheses, that `exec` answers a next state and which. The tables of `Sys2Proof.Claims` name the instructions of one shape, each with
the result that its rule gives; `s.pre` is what the instruction reads, `s.wv` what the words of its group have written so far
(R46, R164). -/

noncomputable section

open Sys2Proof Sys2Proof.Machine

/-! ### The machine: decoding, the step, reset -/

namespace Sys2Proof.Claims

/-- Words of the spec's own encoding examples (08 to 11) with what they say; a modifier or immediate word comes first. -/
def decodedWords : List (List W32 × Instr) := [
  ([0x00000001], .nap {}),
  ([0x0002A504], .trapN {} 0x2A5),
  ([0x00308005], .srd {} 3 2),
  ([0x0121C006], .swr {} 18 7),
  ([0x00A50308], .svc {} 10 20 3 false),
  ([0x04414605], .div {} 4 5 6),
  ([0x0400C81C], .cmp {} 0 3 8),
  ([0x10AFFFFD], .bt {} true 2 0xFFFFD),
  ([0x1170000A], .bw {} 7 10),
  ([0x12000002], .call {} 2),
  ([0x14018081], .callr {} 6 true),
  ([0x18208800], .addI32 {} 2 2 8 false false),
  ([0x7C380180, 0x18504225],
    .madI32 { modw := some { k := 0, p := 7, pn := false, c := 3, ec := false, rnd := 0, sat := false } } 5 1 2 false false),
  ([0x1C304064], .addiI32 {} 3 1 100),
  ([0x38A0C28B], .ldW {} 10 3 2 1 3),
  ([0x3C70C152], .stW {} 7 3 1 2 2),
  ([0x448181A4], .atomCas {} 8 6 1 2),
  ([0x48508396], .redFadd {} 5 2 3 3),
  ([0x4140C889], .sldDec {} 20 3 8 true),
  ([0x4C20C406], .tlwait {} 2 3 4),
  ([0x4C31060A], .wlput {} 3 4 6 false false),
  ([0x58720900], .kick {} 7 8 9)]

end Sys2Proof.Claims

/-- R160 to R171: the words that the spec writes out decode to the instructions that it gives for them. -/
def Obligations.SpecWordsDecode : Prop :=
  ∀ e ∈ Claims.decodedWords, ∀ rest, decodeWords (e.1 ++ rest) = .ok (e.2, rest)

/-- Every well-formed instruction, with every operand at every value that its encoding admits, reads back from its words. -/
def Obligations.DecodeOfEncodeIsTheInstruction : Prop :=
  ∀ (i : Instr), i.wf = true → ∀ rest, decodeWords (encode i ++ rest) = .ok (i, rest)

/-- When the first quarter that may still issue in this clk has in its next active slot a wave whose next lane stands at a one-word group
that decodes to an instruction of a thread, nothing stops the fetch, its register lines are present, and the instruction does something for that
lane, a step is `exec` of that instruction on the issue stage, which `load` fills with the wave (its PCs moved past the group) and
`store` puts back; `afterIssue` counts the group, `useLines` its register lines, and `packetDone` the packet, which waves of the same
block join where the word is per-thread.
The order of quarters within a clk is the model's (log entry 24). -/
def Obligations.StepRunsTheDecodedInstruction : Prop :=
  ∀ (s t : State) (key u k L pc : Nat) (keys Ls : List Nat) (rest : List (Nat × Nat)) (ws : List W32) (g : GWord) (i : Instr),
    s.agenda = [] → s.sysLost = false → s.curFreq ≠ 0 → s.quarterKeys.filter (fun k => !s.issuedNow.contains k) = key :: keys →
    let s1 := { s with issuedNow := key :: s.issuedNow }
    s1.passBusy.get key 0 ≤ s1.clk → s1.slotsAfter key = (u, k) :: rest → s1.mayIssue u k = true →
    let b := s1.blocks.get u {}
    let w := b.waves[k]?.getD {}
    w.laneTurn = L :: Ls → w.pcOf L = pc → pc % 4 = 0 → w.skidding = false → b.die ≠ 64 → s1.isSplit b.die b.tile = false →
    s1.packetStop (b.who w) (packetOf pc) = none → s1.packet (b.who w) (packetOf pc) = .ok ws →
    startsGroup ws ((pc - packetOf pc) / 4) = true → groupAt ws pc = [g] → g.instr = .ok i →
    let s2 := s1.keepPacket (b.who w) (packetOf pc)
    (w.skipbp = true ∨ s2.bpExec b.ctxn pc (g.pc + 4) = none) → (s2.launch b.launch).rcd.sealedFlow = false →
    s2.absent u k [g] = [] → (longWord g.word = true → w.freeSlot ≠ none) →
    let lanes := w.lanesAt pc
    let st := s2.load u k lanes pc (g.pc + 4)
    exec i { st with cur := { st.cur with word := g.word, wordPc := g.pc } } = .next t → t.progressed = true →
    let done := if t.cur.acted || t.wv.stopped then lanes else lanes &&& ~~~ t.cur.held
    laneIn done L = true →
    let out := (if t.wv.stopped then st.afterStop t else if t.cur.held == t.cur.lanes then t else t.afterIssue 1).store.useLines u k [g]
    let x : Issued := ⟨.next out, (wordPath g.word).toList, done, t.cur.ordered, g.kind == .perThread⟩
    let p := if g.kind == .perThread then (out.usePaths u x).mixWaves u pc done rest else ⟨.next (out.usePaths u x), done⟩
    step s = match p.out with
      | .next z => .next (z.packetDone key (u, k) L p.taken)
      | o => o

/-- Memory keeps its canonical form in every step: addresses strictly rising, no byte listed that an unlisted address reads as. -/
def Obligations.StepKeepsMemoryCanonical : Prop :=
  ∀ s t, Memory.wf s.mem = true → step s = .next t → Memory.wf t.mem = true

/-- Memory has its canonical form at reset. -/
def Obligations.ResetMemoryCanonical : Prop := Memory.wf State.reset.mem = true

/-- After module reset no block, launch or write in flight exists, time stands at 0 and does not run, every partition is OFF, unsealed and has no die,
every context is disabled, and no TDI is locked. The values of the model's own fields are its choice (log entry 8) and are not
stated. -/
def Obligations.ResetState : Prop :=
  State.reset.blocks = [] ∧ State.reset.launches = [] ∧ State.reset.writes = [] ∧ State.reset.jobs = [] ∧
  State.reset.time = 0 ∧ State.reset.running = false ∧
  (∀ pid < 256, State.reset.qstate pid = 0 ∧ State.reset.sealed pid = false ∧ State.reset.tdi.get pid 0 = 0 ∧
    ∀ k < 64, State.reset.dieOf pid k = none) ∧
  (∀ ctxn < 4096, State.reset.ctxWord 0 ctxn 0 = 0)

/-! ### Vector arithmetic (09) -/

namespace Sys2Proof.Claims

/-- The constructor of an instruction in two vector sources, with their empty-behaviour bits. -/
abbrev Bin := Hdr → BitVec 6 → BitVec 6 → BitVec 6 → Bool → Bool → Instr
/-- The constructor of an instruction in one vector source. -/
abbrev Un := Hdr → BitVec 6 → BitVec 6 → Bool → Instr
/-- The constructor of a compare. -/
abbrev Cmp := Hdr → BitVec 3 → BitVec 6 → BitVec 6 → Bool → Bool → Instr
/-- The constructor of an instruction with an immediate. -/
abbrev Imm := Hdr → BitVec 6 → BitVec 6 → BitVec 11 → Instr

/-- R205: 32-bit integer operations on two sources. -/
def i32Binary : List (Bin × (W32 → W32 → W32)) := [
  (.addI32, fun a b => a + b),
  (.subI32, fun a b => a - b),
  (.mulI32, fun a b => a * b),
  (.mulhI32, fun a b => BitVec.ofInt 32 (a.toInt * b.toInt / 2 ^ 32)),
  (.mulhnI32, fun a b => BitVec.ofNat 32 (a.toNat * b.toNat / 2 ^ 32)),
  (.minI32, fun a b => if a.toInt ≤ b.toInt then a else b),
  (.maxI32, fun a b => if a.toInt ≤ b.toInt then b else a),
  (.minnI32, fun a b => if a.toNat ≤ b.toNat then a else b),
  (.maxnI32, fun a b => if a.toNat ≤ b.toNat then b else a),
  (.andI32, fun a b => a &&& b),
  (.orI32, fun a b => a ||| b),
  (.xorI32, fun a b => a ^^^ b),
  (.andnI32, fun a b => a &&& ~~~b),
  (.shlI32, fun a b => if b.toNat ≥ 32 then 0 else a <<< b.toNat),
  (.shrI32, fun a b => if b.toNat ≥ 32 then 0 else a >>> b.toNat),
  (.sraI32, fun a b => if b.toNat ≥ 32 then (if a.msb then BitVec.allOnes 32 else 0) else a.sshiftRight b.toNat),
  (.addsI32, fun a b => BitVec.ofInt 32 (max (-(2 ^ 31)) (min (2 ^ 31 - 1) (a.toInt + b.toInt)))),
  (.subsI32, fun a b => BitVec.ofInt 32 (max (-(2 ^ 31)) (min (2 ^ 31 - 1) (a.toInt - b.toInt)))),
  (.addsnI32, fun a b => BitVec.ofNat 32 (min (a.toNat + b.toNat) (2 ^ 32 - 1))),
  (.subsnI32, fun a b => BitVec.ofNat 32 (a.toNat - b.toNat)),
  (.vclmul, fun a b => BitVec.ofNat 32 (clmulN 32 a.toNat b.toNat)),
  (.vclmulh, fun a b => BitVec.ofNat 32 (clmulN 32 a.toNat b.toNat / 2 ^ 32))]

/-- R205: 32-bit integer operations on one source. -/
def i32Unary : List (Un × (W32 → W32)) := [
  (.absI32, fun a => if a.msb then 0 - a else a),
  (.negI32, fun a => 0 - a),
  (.notI32, fun a => ~~~a),
  (.clzI32, fun a => BitVec.ofNat 32 (if a = 0 then 32 else 31 - a.toNat.log2)),
  (.popcI32, fun a => BitVec.ofNat 32 ((List.range 32).countP (fun i => a.getLsbD i))),
  (.brevI32, fun a => BitVec.ofNat 32 (revN 32 a.toNat)),
  (.movI32, fun a => a)]

/-- R206: the operations of the table above with an immediate, which is taken modulo 2^32. -/
def i32Immediate : List (Imm × (W32 → W32 → W32)) := [
  (.addiI32, fun a b => a + b),
  (.andiI32, fun a b => a &&& b),
  (.oriI32, fun a b => a ||| b),
  (.xoriI32, fun a b => a ^^^ b),
  (.shliI32, fun a b => if b.toNat ≥ 32 then 0 else a <<< b.toNat),
  (.shriI32, fun a b => if b.toNat ≥ 32 then 0 else a >>> b.toNat),
  (.sraiI32, fun a b => if b.toNat ≥ 32 then (if a.msb then BitVec.allOnes 32 else 0) else a.sshiftRight b.toNat)]

/-- R205, R207: compares, on what a source reads as under FTZ. -/
def vectorCompare : List (Cmp × (Bool → W32 → W32 → Bool)) := [
  (.cmpeqI32, fun _ a b => a == b),
  (.cmpneI32, fun _ a b => a != b),
  (.cmpltI32, fun _ a b => decide (a.toInt < b.toInt)),
  (.cmpleI32, fun _ a b => decide (a.toInt ≤ b.toInt)),
  (.cmpltnI32, fun _ a b => decide (a.toNat < b.toNat)),
  (.cmplenI32, fun _ a b => decide (a.toNat ≤ b.toNat)),
  (.cmpeqF32, fun ftz a b => (inF ftz a).eqv (inF ftz b)),
  (.cmpltF32, fun ftz a b => (inF ftz a).lt (inF ftz b)),
  (.cmpleF32, fun ftz a b => (inF ftz a).lt (inF ftz b) || (inF ftz a).eqv (inF ftz b)),
  (.cmpunF32, fun ftz a b => (inF ftz a).isNan || (inF ftz b).isNan)]

/-- R207, R208: operations on floating codes that round nothing. The Bool is FTZ. -/
def floatExact : List (Bin × (Bool → W32 → W32 → W32)) := [
  (.minF32, fun ftz a b => BitVec.ofNat 32 (fp32.minmax false (fp32.flush ftz a.toNat) (fp32.flush ftz b.toNat))),
  (.maxF32, fun ftz a b => BitVec.ofNat 32 (fp32.minmax true (fp32.flush ftz a.toNat) (fp32.flush ftz b.toNat))),
  (.copysignF32, fun _ a b => (a &&& 0x7FFFFFFF) ||| (b &&& 0x80000000)),
  (.minH2, fun ftz a b => pack2 fun i => fp16.minmax false (fp16.flush ftz (half a i)) (fp16.flush ftz (half b i))),
  (.maxH2, fun ftz a b => pack2 fun i => fp16.minmax true (fp16.flush ftz (half a i)) (fp16.flush ftz (half b i))),
  (.minBf2, fun ftz a b => pack2 fun i => bf16.minmax false (bf16.flush ftz (half a i)) (bf16.flush ftz (half b i))),
  (.maxBf2, fun ftz a b => pack2 fun i => bf16.minmax true (bf16.flush ftz (half a i)) (bf16.flush ftz (half b i)))]

/-- R207, R208: sign operations, which act on bits. -/
def floatSign : List (Un × (W32 → W32)) := [
  (.absF32, fun a => a &&& 0x7FFFFFFF),
  (.negF32, fun a => a ^^^ 0x80000000),
  (.absH2, fun a => a &&& 0x7FFF7FFF),
  (.absBf2, fun a => a &&& 0x7FFF7FFF)]

/-- R207: the rounding FP32 operations on two sources: mode, sat, FTZ, codes. -/
def f32Rounding : List (Bin × (RMode → Bool → Bool → Nat → Nat → Nat)) := [
  (.addF32, fp32.addC), (.subF32, fp32.subC), (.mulF32, fp32.mulC)]

/-- R207: the fused FP32 operations; `sub` says that c is subtracted. -/
def f32Fused : List (Bin × Bool) := [(.fmaF32, false), (.fmsF32, true)]

/-- R208: the rounding packed operations on two sources. -/
def packedRounding : List (Bin × (RMode → Bool → Bool → Nat → Nat → Nat)) := [
  (.addH2, fp16.addC), (.subH2, fp16.subC), (.mulH2, fp16.mulC),
  (.addBf2, bf16.addC), (.subBf2, bf16.subC), (.mulBf2, bf16.mulC)]

/-- R208: the packed fused operations. -/
def packedFused : List (Bin × FFmt) := [(.fmaH2, fp16), (.fmaBf2, bf16)]

/-- R209, R211: conversions of one register to one: the random bits of RS, and the result. -/
def convertOne : List (Un × Nat × (RMode → Bool → Bool → W32 → W32)) := [
  (.cvtF32I32, 24, fun m sat ftz v => BitVec.ofNat 32 (fp32.round m sat ftz (.ofInt v.toInt))),
  (.cvtI32F32, 16, fun m _ ftz v => BitVec.ofInt 32 (toIntClamped m (-(2 ^ 31)) (2 ^ 31 - 1) (inF ftz v))),
  (.cvtF32N32, 24, fun m sat ftz v => BitVec.ofNat 32 (fp32.round m sat ftz (.ofInt v.toNat))),
  (.cvtN32F32, 16, fun m _ ftz v => BitVec.ofInt 32 (toIntClamped m 0 (2 ^ 32 - 1) (inF ftz v))),
  (.rintF32, 16, fun m _ ftz v => BitVec.ofNat 32 (fp32.round .rne false false (rintVal m (inF ftz v))))]

/-- R209: narrowing conversions: the format, how many sources, their width in the result, the random bits of RS. -/
def convertNarrow : List (Un × FFmt × Nat × Nat × Nat) := [
  (.cvtBf2F32, bf16, 2, 16, 16), (.cvtH2F32, fp16, 2, 16, 16),
  (.cvtE4x4F32, e4m3, 4, 8, 12), (.cvtE5x4F32, e5m2, 4, 8, 12)]

/-- R209: widening conversions. -/
def convertWiden : List (Un × FFmt × Nat × Nat) := [
  (.cvtF32Bf, bf16, 2, 16), (.cvtF32H, fp16, 2, 16), (.cvtF32E4, e4m3, 4, 8), (.cvtF32E5, e5m2, 4, 8)]

/-- R212: the special functions. -/
def specialFunctions : List (Un × Sfu) := [
  (.rcp, .rcp), (.sqrt, .sqrt), (.rsqrt, .rsqrt), (.exp2, .exp2), (.log2, .log2), (.sinpi, .sinpi), (.cospi, .cospi)]

/-- The words that Philox gives a lane: the seed, its `sdi`, its global index, the stream (R97, R98). -/
def laneRandom (s : State) (L stream : Nat) : W32 × W32 × W32 × W32 :=
  philox s.pre.seed (s.pre.sdiOf L) (BitVec.ofNat 32 (s.gIndex L)) (BitVec.ofNat 32 (s.gIndex L / 2 ^ 32)) (BitVec.ofNat 32 stream)

/-- Lane L is the lowest that performs a per-thread word, which issues alone and in no skid. -/
def lowest (s : State) (h : Hdr) (L : Nat) : Prop :=
  s.wv.skidding = false ∧ s.cur.chained = false ∧ s.guardKnown h = true ∧ (lanesOf (s.performers h)).head? = some L

/-- The wave stopped for a fault of cause `c` (R355 to R358), whose lowest lane is L: `ecause` with the lane when the form is per-thread
(`lv`), `ebad`, the FCODE of the lane; outside a transaction `epc` is the address of the group and the lane stands there. The fault is precise: the lane's
vector registers are as before. The block begins to stop, unless it was stopping. -/
def raised (s : State) (c : Cause) (lv : Bool) (L : Nat) (bad : W64) (t : State) : Prop :=
  t.wv.stopped = true ∧ t.wv.ecause = ecauseWord c lv L ∧ t.wv.ebad = bad ∧ t.wv.fcode.get L 0 = c.code ∧
  (s.wv.txOf L = none → t.wv.epc = BitVec.ofNat 64 s.cur.pc ∧ t.wv.pcOf L = s.cur.pc) ∧
  (∀ r, t.wv.vreg r L = s.wv.vreg r L) ∧
  (s.bk.stopping = .no → t.bk.stopping = .trap ∧ t.bk.causeWave = some s.cur.wid) ∧
  (s.bk.stopping ≠ .no → t.bk.stopping = s.bk.stopping)

end Sys2Proof.Claims

/-- R205, R206: integer operations of two sources, then those of one source, of an immediate, `lii`, `movs`, `sel` and `mad`, with their frame
(`State.VecWritten`). R58, R67: of an operation of two sources the one span that reaches VREGS raises REG_BOUNDS, and an empty source whose
empty-behaviour bit is 1 raises REG_EMPTY, where the lowest performing lane meets it. -/
def Obligations.VectorIntegerResult : Prop :=
  (∀ e ∈ Claims.i32Binary, ∀ (h : Hdr) (d a b : BitVec 6) (x y : Bool) (s : State) (L : Nat), Claims.lowest s h L →
     let ops := [s.pre.op d 1, s.pre.op a 1 x, s.pre.op b 1 y]
     (∀ o ∈ ops, s.pre.vregs ≤ o.reg → (∀ p ∈ ops, s.pre.vregs ≤ p.reg → p.reg = o.reg) →
       ∃ t, exec (e.1 h d a b x y) s = .next t ∧ Claims.raised s .regBounds true L (BitVec.ofNat 64 o.reg) t) ∧
     (inBounds s.pre ops = true →
       (x = true → s.pre.isEmpty (s.pre.vnum a) L = true → s.pre.marked (s.pre.vnum a) L = none →
         (s.pre.op b 1 y).full s.pre L = true →
         ∃ t, exec (e.1 h d a b x y) s = .next t ∧ Claims.raised s .regEmpty true L (BitVec.ofNat 64 (s.pre.vnum a)) t) ∧
       (y = true → s.pre.isEmpty (s.pre.vnum b) L = true → s.pre.marked (s.pre.vnum b) L = none →
         (s.pre.op a 1 x).full s.pre L = true →
         ∃ t, exec (e.1 h d a b x y) s = .next t ∧ Claims.raised s .regEmpty true L (BitVec.ofNat 64 (s.pre.vnum b)) t))) ∧
  (∀ e ∈ Claims.i32Binary, ∀ (h : Hdr) (d a b : BitVec 6) (x y : Bool) (s : State),
     s.ready h [s.pre.op d 1] [s.pre.op a 1 x, s.pre.op b 1 y] [] = true →
     ∃ t, exec (e.1 h d a b x y) s = .next t ∧
       s.VecWritten (s.performers h) (s.pre.op d 1) (fun L => [e.2 (s.pre.src a L) (s.pre.src b L)])
         (countLanes s.cur.lanes) t) ∧
  ((∀ e ∈ Claims.i32Unary, ∀ (h : Hdr) (d a : BitVec 6) (x : Bool) (s : State),
     s.ready h [s.pre.op d 1] [s.pre.op a 1 x] [] = true →
     ∃ t, exec (e.1 h d a x) s = .next t ∧
       s.VecWritten (s.performers h) (s.pre.op d 1) (fun L => [e.2 (s.pre.src a L)]) (countLanes s.cur.lanes) t) ∧
   (∀ e ∈ Claims.i32Immediate, ∀ (h : Hdr) (d a : BitVec 6) (i : BitVec 11) (s : State),
     s.ready h [s.pre.op d 1] [s.pre.op a 1] [] = true →
     ∃ t, exec (e.1 h d a i) s = .next t ∧
       s.VecWritten (s.performers h) (s.pre.op d 1) (fun L => [e.2 (s.pre.src a L) (BitVec.ofInt 32 (immI h i))])
         (countLanes s.cur.lanes) t) ∧
   (∀ (h : Hdr) (d : BitVec 6) (i : BitVec 11) (s : State), s.ready h [s.pre.op d 1] [] [] = true →
     ∃ t, exec (.liiI32 h d i) s = .next t ∧
       s.VecWritten (s.performers h) (s.pre.op d 1) (fun _ => [BitVec.ofInt 32 (immI h i)]) (countLanes s.cur.lanes) t) ∧
   (∀ (h : Hdr) (d a : BitVec 6) (s : State), s.ready h [s.pre.op d 1] [] [] = true →
     ∃ t, exec (.movsI32 h d a) s = .next t ∧
       s.VecWritten (s.performers h) (s.pre.op d 1) (fun _ => [(s.pre.sreg a).setWidth 32]) (countLanes s.cur.lanes) t) ∧
   (∀ (h : Hdr) (d a b : BitVec 6) (x y : Bool) (s : State),
     s.ready h [s.pre.op d 1] [s.pre.op a 1 x, s.pre.op b 1 y] [h.fieldC.setWidth 3] = true →
     ∃ t, exec (.selI32 h d a b x y) s = .next t ∧
       s.VecWritten (s.performers h) (s.pre.op d 1)
         (fun L => [if laneIn (s.pre.pred (h.fieldC.setWidth 3)) L then s.pre.src a L else s.pre.src b L])
         (countLanes s.cur.lanes) t) ∧
   (∀ (h : Hdr) (d a b : BitVec 6) (x y : Bool) (s : State),
     s.ready h [s.pre.op d 1] [s.pre.op a 1 x, s.pre.op b 1 y, s.pre.op h.fieldC 1 h.bitEc] [] = true →
     ∃ t, exec (.madI32 h d a b x y) s = .next t ∧
       s.VecWritten (s.performers h) (s.pre.op d 1)
         (fun L => [s.pre.src a L * s.pre.src b L + s.pre.src h.fieldC L]) (countLanes s.cur.lanes) t))

/-- R205, R207: compares write one predicate in the lanes that perform, and nothing else. -/
def Obligations.VectorCompareResult : Prop :=
  ∀ e ∈ Claims.vectorCompare, ∀ (h : Hdr) (d : BitVec 3) (a b : BitVec 6) (x y : Bool) (s : State),
    s.ready h [] [s.pre.op a 1 x, s.pre.op b 1 y] [d] = true →
    exec (e.1 h d a b x y) s =
      .next (s.predWritten (s.performers h) d (maskOf fun L => e.2 s.pre.ftz (s.pre.src a L) (s.pre.src b L))
        (countLanes s.cur.lanes))

/-- R94, R207, R208: `min`, `max`, `copysign`, `abs`, `neg` and the packed forms. -/
def Obligations.FloatExactResult : Prop :=
  (∀ e ∈ Claims.floatExact, ∀ (h : Hdr) (d a b : BitVec 6) (x y : Bool) (s : State),
    s.ready h [s.pre.op d 1] [s.pre.op a 1 x, s.pre.op b 1 y] [] = true →
    ∃ t, exec (e.1 h d a b x y) s = .next t ∧
      s.VecWritten (s.performers h) (s.pre.op d 1) (fun L => [e.2 s.pre.ftz (s.pre.src a L) (s.pre.src b L)])
        (countLanes s.cur.lanes) t) ∧
  (∀ e ∈ Claims.floatSign, ∀ (h : Hdr) (d a : BitVec 6) (x : Bool) (s : State),
    s.ready h [s.pre.op d 1] [s.pre.op a 1 x] [] = true →
    ∃ t, exec (e.1 h d a x) s = .next t ∧
      s.VecWritten (s.performers h) (s.pre.op d 1) (fun L => [e.2 (s.pre.src a L)]) (countLanes s.cur.lanes) t)

/-- R90, R96, R207, R208: the rounding operations round once, in the mode in force, with the lane's own random bits under RS. -/
def Obligations.FloatRoundingResult : Prop :=
  (∀ e ∈ Claims.f32Rounding, ∀ (h : Hdr) (d a b : BitVec 6) (x y : Bool) (s : State),
    s.ready h [s.pre.op d 1] [s.pre.op a 1 x, s.pre.op b 1 y] [] = true →
    ∃ t, exec (e.1 h d a b x y) s = .next t ∧
      s.RoundWritten h (s.pre.op d 1) (fun L =>
        [BitVec.ofNat 32 (e.2 (s.mode h L 0 24) h.sat s.pre.ftz (s.pre.src a L).toNat (s.pre.src b L).toNat)]) t) ∧
  (∀ e ∈ Claims.f32Fused, ∀ (h : Hdr) (d a b : BitVec 6) (x y : Bool) (s : State),
    s.ready h [s.pre.op d 1] [s.pre.op a 1 x, s.pre.op b 1 y, s.pre.op h.fieldC 1 h.bitEc] [] = true →
    ∃ t, exec (e.1 h d a b x y) s = .next t ∧
      s.RoundWritten h (s.pre.op d 1) (fun L =>
        [BitVec.ofNat 32 (fp32.fmaC (s.mode h L 0 24) h.sat s.pre.ftz e.2 (s.pre.src a L).toNat (s.pre.src b L).toNat
          (s.pre.src h.fieldC L).toNat)]) t) ∧
  (∀ e ∈ Claims.packedRounding, ∀ (h : Hdr) (d a b : BitVec 6) (x y : Bool) (s : State),
    s.ready h [s.pre.op d 1] [s.pre.op a 1 x, s.pre.op b 1 y] [] = true →
    ∃ t, exec (e.1 h d a b x y) s = .next t ∧
      s.RoundWritten h (s.pre.op d 1) (fun L =>
        [pack2 fun i => e.2 (s.mode h L i 16) h.sat s.pre.ftz (half (s.pre.src a L) i) (half (s.pre.src b L) i)]) t) ∧
  (∀ e ∈ Claims.packedFused, ∀ (h : Hdr) (d a b : BitVec 6) (x y : Bool) (s : State),
    s.ready h [s.pre.op d 1] [s.pre.op a 1 x, s.pre.op b 1 y, s.pre.op h.fieldC 1 h.bitEc] [] = true →
    ∃ t, exec (e.1 h d a b x y) s = .next t ∧
      s.RoundWritten h (s.pre.op d 1) (fun L =>
        [pack2 fun i => e.2.fmaC (s.mode h L i 16) h.sat s.pre.ftz false (half (s.pre.src a L) i)
          (half (s.pre.src b L) i) (half (s.pre.src h.fieldC L) i)]) t)

/-- R209 to R211: conversions. -/
def Obligations.ConversionResult : Prop :=
  (∀ e ∈ Claims.convertOne, ∀ (h : Hdr) (d a : BitVec 6) (x : Bool) (s : State),
    s.ready h [s.pre.op d 1] [s.pre.op a 1 x] [] = true →
    ∃ t, exec (e.1 h d a x) s = .next t ∧
      s.RoundWritten h (s.pre.op d 1) (fun L =>
        [e.2.2 (s.mode h L 0 e.2.1) h.sat s.pre.ftz (s.pre.src a L)]) t) ∧
  (∀ e ∈ Claims.convertNarrow, ∀ (h : Hdr) (d a : BitVec 6) (x : Bool) (s : State),
    s.ready h [s.pre.op d 1] [s.pre.op a e.2.2.1 x] [] = true →
    ∃ t, exec (e.1 h d a x) s = .next t ∧
      s.RoundWritten h (s.pre.op d 1) (fun L =>
        [BitVec.ofNat 32 ((List.range e.2.2.1).foldl (fun r i => r +
          e.2.1.round (s.mode h L i e.2.2.2.2) h.sat s.pre.ftz (inF s.pre.ftz (s.pre.vreg (s.pre.vnum a + i) L)) *
            2 ^ (e.2.2.2.1 * i)) 0)]) t) ∧
  (∀ e ∈ Claims.convertWiden, ∀ (h : Hdr) (d a : BitVec 6) (x : Bool) (s : State),
    s.ready h [s.pre.op d e.2.2.1] [s.pre.op a 1 x] [] = true →
    ∃ t, exec (e.1 h d a x) s = .next t ∧
      s.VecWritten (s.performers h) (s.pre.op d e.2.2.1) (fun L => (List.range e.2.2.1).map fun i =>
        BitVec.ofNat 32 (fp32.round .rne false s.pre.ftz (e.2.1.value (e.2.1.flush s.pre.ftz
          ((s.pre.src a L).toNat / 2 ^ (e.2.2.2 * i) % 2 ^ e.2.2.2))))) (countLanes s.cur.lanes) t) ∧
  (∀ (h : Hdr) (d a b : BitVec 6) (x y : Bool) (s : State),
    s.ready h [s.pre.op d 1] [s.pre.op a 4 x, s.pre.op b 1 y] [] = true →
    ∃ t, exec (.cvtQ4F32 h d a b x y) s = .next t ∧
      s.RoundWritten h (s.pre.op d 1) (fun L =>
        [BitVec.ofNat 32 ((List.range 4).foldl (fun r i => r +
          q4encode (s.mode h L i 8) ((s.pre.src b L).toNat % 256) ((s.pre.src b L).toNat / 256 % 256)
            (inF s.pre.ftz (s.pre.vreg (s.pre.vnum a + i) L)) * 2 ^ (4 * i)) 0)]) t) ∧
  (∀ (h : Hdr) (d a b : BitVec 6) (x y : Bool) (s : State),
    s.ready h [s.pre.op d 4] [s.pre.op a 1 x, s.pre.op b 1 y] [] = true →
    ∃ t, exec (.cvtF32Q4 h d a b x y) s = .next t ∧
      s.VecWritten (s.performers h) (s.pre.op d 4) (fun L => (List.range 4).map fun i =>
        BitVec.ofNat 32 (fp32.round .rne false s.pre.ftz (q4value ((s.pre.src b L).toNat % 256)
          ((s.pre.src b L).toNat / 256 % 256) ((s.pre.src a L).toNat / 2 ^ (4 * i) % 16)))) (countLanes s.cur.lanes) t)

/-- R66, R69, R212: a special function empties its destination and takes a pending-reply slot that holds the result.
The slot is the lowest free one (log entry 109). -/
def Obligations.SpecialFunctionIssue : Prop :=
  ∀ e ∈ Claims.specialFunctions, ∀ (h : Hdr) (d a : BitVec 6) (x : Bool) (s : State),
    s.ready h [s.pre.op d 1] [s.pre.op a 1 x] [] = true → s.wv.freeSlot.isSome = true →
    ∃ u, exec (e.1 h d a x) s = .next (s.retired u (countLanes s.cur.lanes)) ∧
      s.wv.SlotTaken (s.performers h) .sfu (s.pre.op d 1)
        ((lanesOf (s.performers h)).map fun L => { lane := L, val := some [e.2.code s.pre.ftz (s.pre.src a L)] }) u

/-- R97, R98, R219 to R221: `draw` writes the first words of stream 1 and advances `sdi`; `rhash` writes word 0 of stream 2 at the counter its
sources name; `sdiset` and `sdiget` write and read `sdi`. -/
def Obligations.RandomResult : Prop :=
  (∀ (h : Hdr) (d b : BitVec 6) (s : State), s.ready h [s.pre.op d b.toNat] [] [] = true →
    ∃ t u, exec (.draw h d b) s = .next t ∧
      s.VecWritten (s.performers h) (s.pre.op d b.toNat)
        (fun L => (List.range b.toNat).map (philoxWord (Claims.laneRandom s L 1))) (countLanes s.cur.lanes) u ∧
      t = { u with wv := { u.wv with sdi := t.wv.sdi } } ∧
      ∀ L, t.wv.sdiOf L = if laneIn (s.performers h) L = true then s.wv.sdiOf L + 1 else s.wv.sdiOf L) ∧
  (∀ (h : Hdr) (d a b : BitVec 6) (x y : Bool) (s : State),
    s.ready h [s.pre.op d 1] [s.pre.op a 1 x, s.pre.op b 1 y, s.pre.op h.fieldC 1 h.bitEc] [] = true →
    ∃ t, exec (.rhash h d a b x y) s = .next t ∧
      s.VecWritten (s.performers h) (s.pre.op d 1)
        (fun L => [philoxWord (philox s.pre.seed (s.pre.src a L) (s.pre.src b L) (s.pre.src h.fieldC L) 2) 0])
        (countLanes s.cur.lanes) t) ∧
  (∀ (h : Hdr) (a : BitVec 6) (x : Bool) (s : State), s.ready h [] [s.pre.op a 1 x] [] = true →
    ∃ t, exec (.sdiset h a x) s = .next t ∧
      t = s.retired { s.wv with sdi := t.wv.sdi } (countLanes s.cur.lanes) ∧
      ∀ L, t.wv.sdiOf L = if laneIn (s.performers h) L = true then s.pre.src a L else s.wv.sdiOf L) ∧
  (∀ (h : Hdr) (d : BitVec 6) (s : State), s.ready h [s.pre.op d 1] [] [] = true →
    ∃ t, exec (.sdiget h d) s = .next t ∧
      s.VecWritten (s.performers h) (s.pre.op d 1) (fun L => [s.pre.sdiOf L]) (countLanes s.cur.lanes) t)

/-! ### Scalar arithmetic, masks and cross-lane instructions (08, 09) -/

namespace Sys2Proof.Claims

abbrev Scalar3 := Hdr → BitVec 6 → BitVec 6 → BitVec 6 → Instr
abbrev Scalar2 := Hdr → BitVec 6 → BitVec 6 → Instr

/-- R193: scalar operations on two registers. -/
def scalarBinary : List (Scalar3 × (W64 → W64 → W64)) := [
  (.add, fun a b => a + b),
  (.sub, fun a b => a - b),
  (.mul, fun a b => a * b),
  (.mulh, fun a b => BitVec.ofInt 64 (a.toInt * b.toInt / 2 ^ 64)),
  (.mulhn, fun a b => BitVec.ofNat 64 (a.toNat * b.toNat / 2 ^ 64)),
  (.div, fun a b => if b = 0 then BitVec.allOnes 64 else BitVec.ofInt 64 (Int.tdiv a.toInt b.toInt)),
  (.divn, fun a b => if b = 0 then BitVec.allOnes 64 else BitVec.ofNat 64 (a.toNat / b.toNat)),
  (.rem, fun a b => if b = 0 then a else BitVec.ofInt 64 (Int.tmod a.toInt b.toInt)),
  (.remn, fun a b => if b = 0 then a else BitVec.ofNat 64 (a.toNat % b.toNat)),
  (.andS, fun a b => a &&& b),
  (.orS, fun a b => a ||| b),
  (.xorS, fun a b => a ^^^ b),
  (.andn, fun a b => a &&& ~~~b),
  (.shl, fun a b => if b.toNat ≥ 64 then 0 else a <<< b.toNat),
  (.shr, fun a b => if b.toNat ≥ 64 then 0 else a >>> b.toNat),
  (.sra, fun a b => if b.toNat ≥ 64 then (if a.msb then BitVec.allOnes 64 else 0) else a.sshiftRight b.toNat),
  (.rol, fun a b => a.rotateLeft (b.toNat % 64)),
  (.ror, fun a b => a.rotateRight (b.toNat % 64)),
  (.minS, fun a b => if a.toInt ≤ b.toInt then a else b),
  (.maxS, fun a b => if a.toInt ≤ b.toInt then b else a),
  (.minn, fun a b => if a.toNat ≤ b.toNat then a else b),
  (.maxn, fun a b => if a.toNat ≤ b.toNat then b else a),
  (.clmul, fun a b => BitVec.ofNat 64 (clmulN 64 a.toNat b.toNat)),
  (.clmulh, fun a b => BitVec.ofNat 64 (clmulN 64 a.toNat b.toNat / 2 ^ 64))]

/-- R193: scalar operations on one register. -/
def scalarUnary : List (Scalar2 × (W64 → W64)) := [
  (.clz, fun a => BitVec.ofNat 64 (if a = 0 then 64 else 63 - a.toNat.log2)),
  (.ctz, fun a => BitVec.ofNat 64 (((List.range 64).find? (fun i => a.getLsbD i)).getD 64)),
  (.popc, fun a => BitVec.ofNat 64 ((List.range 64).countP (fun i => a.getLsbD i))),
  (.brev, fun a => BitVec.ofNat 64 (revN 64 a.toNat)),
  (.mov, fun a => a)]

/-- R194: scalar operations with an immediate. -/
def scalarImmediate : List (Imm × (W64 → W64 → W64)) := [
  (.addi, fun a b => a + b),
  (.andi, fun a b => a &&& b),
  (.ori, fun a b => a ||| b),
  (.xori, fun a b => a ^^^ b),
  (.shli, fun a b => if b.toNat ≥ 64 then 0 else a <<< b.toNat),
  (.shri, fun a b => if b.toNat ≥ 64 then 0 else a >>> b.toNat),
  (.srai, fun a b => if b.toNat ≥ 64 then (if a.msb then BitVec.allOnes 64 else 0) else a.sshiftRight b.toNat)]

/-- The condition codes of a − b (R60): Z equal, N the sign of the difference, C no borrow, V signed overflow. -/
def compared (s : State) (d : BitVec 6) (a b : W64) : State :=
  let t := s.scalarWritten d (a - b)
  { t with wv := { t.wv with
      z := decide (a = b), n := (a - b).msb, c := decide (b.toNat ≤ a.toNat),
      ovf := decide (a.toInt - b.toInt < -(2 ^ 63) ∨ 2 ^ 63 ≤ a.toInt - b.toInt) } }

/-- R218: mask operations on two masks. -/
def maskBinary : List ((Hdr → BitVec 3 → BitVec 3 → BitVec 3 → Instr) × (Lanes → Lanes → Lanes)) := [
  (.kand, fun a b => a &&& b), (.kor, fun a b => a ||| b), (.kxor, fun a b => a ^^^ b)]

/-- R218: mask operations on one mask. -/
def maskUnary : List ((Hdr → BitVec 3 → BitVec 3 → Instr) × (Lanes → Lanes)) := [
  (.knot, fun a => ~~~a), (.kmov, fun a => a),
  (.kfs, fun a => if a = 0 then 0 else BitVec.ofNat 48 (2 ^ (lanesOf a).headD 48))]

/-- R215, R105: the cross-lane reductions; the operation may depend on FTZ. -/
def reductions : List (Un × (Bool → W32 → W32 → W32)) := [
  (.xredAdd, fun _ a b => a + b), (.xredAddf, crossAddf),
  (.xredMin, fun _ a b => if a.toInt ≤ b.toInt then a else b),
  (.xredMax, fun _ a b => if a.toInt ≤ b.toInt then b else a),
  (.xredMinf, fun ftz => crossMinmax ftz false), (.xredMaxf, fun ftz => crossMinmax ftz true),
  (.xredAnd, fun _ a b => a &&& b), (.xredOr, fun _ a b => a ||| b), (.xredXor, fun _ a b => a ^^^ b)]

/-- R215, R107: the inclusive scans, each with what is made of its result: a floating one that is NaN is canonical. -/
def scans : List (Un × (Bool → W32 → W32 → W32) × (W32 → W32)) := [
  (.scanAdd, fun _ a b => a + b, id), (.scanAddf, crossAddf, fun v => if (fp32.value v.toNat).isNan then 0x7FC00000 else v),
  (.scanXor, fun _ a b => a ^^^ b, id), (.scanMax, fun _ a b => if a.toInt ≤ b.toInt then b else a, id)]

/-- R216: what `match` and `matchf` call equal. -/
def matchers : List (Un × (W32 → W32 → Bool)) := [
  (.matchB, fun a b => a == b),
  (.matchf, fun a b => ((fp32.value a.toNat).isNan && (fp32.value b.toNat).isNan) ||
    (fp32.value a.toNat).eqv (fp32.value b.toNat))]

end Sys2Proof.Claims

/-- R60, R193 to R195: scalar arithmetic writes one scalar register, which s0 discards, and nothing else; `cmp` and `cmpi` write the difference and the
four condition codes; once every live thread stands at the instruction (R39). -/
def Obligations.ScalarResult : Prop :=
  ((∀ e ∈ Claims.scalarBinary, ∀ (h : Hdr) (d a b : BitVec 6) (s : State), s.cur.lanes = s.pre.live →
     exec (e.1 h d a b) s = .next (s.scalarWritten d (e.2 (s.pre.sreg a) (s.pre.sreg b)))) ∧
   (∀ e ∈ Claims.scalarUnary, ∀ (h : Hdr) (d a : BitVec 6) (s : State), s.cur.lanes = s.pre.live →
     exec (e.1 h d a) s = .next (s.scalarWritten d (e.2 (s.pre.sreg a)))) ∧
   (∀ e ∈ Claims.scalarImmediate, ∀ (h : Hdr) (d a : BitVec 6) (i : BitVec 11) (s : State), s.cur.lanes = s.pre.live →
     exec (e.1 h d a i) s = .next (s.scalarWritten d (e.2 (s.pre.sreg a) (BitVec.ofInt 64 (immI h i))))) ∧
   (∀ (h : Hdr) (d a b : BitVec 6) (s : State), s.cur.lanes = s.pre.live →
     exec (.sext h d a b) s = .next (s.scalarWritten d (((s.pre.sreg a).setWidth (b.toNat + 1)).signExtend 64)) ∧
     exec (.zext h d a b) s = .next (s.scalarWritten d (((s.pre.sreg a).setWidth (b.toNat + 1)).setWidth 64))) ∧
   (∀ (h : Hdr) (d : BitVec 6) (i : BitVec 20) (s : State), s.cur.lanes = s.pre.live →
     exec (.li h d i) s = .next (s.scalarWritten d (BitVec.ofInt 64 (immL h i))))) ∧
  (∀ (h : Hdr) (d a b : BitVec 6) (i : BitVec 11) (s : State), s.cur.lanes = s.pre.live →
     exec (.cmp h d a b) s = .next (Claims.compared s d (s.pre.sreg a) (s.pre.sreg b)) ∧
     exec (.cmpi h d a i) s = .next (Claims.compared s d (s.pre.sreg a) (BitVec.ofInt 64 (immI h i))))

/-- R62, R218: mask operations write a mask, which k0 discards, and KZ whatever the destination; `kpop` and `kfirst` write a scalar
register and leave KZ; `ktop` writes a predicate in the live lanes. -/
def Obligations.MaskOperationResult : Prop :=
  (∀ e ∈ Claims.maskBinary, ∀ (h : Hdr) (d a b : BitVec 3) (s : State), s.cur.lanes = s.pre.live →
    exec (e.1 h d a b) s = .next (s.maskWritten d (e.2 (s.pre.kmask a) (s.pre.kmask b)))) ∧
  (∀ e ∈ Claims.maskUnary, ∀ (h : Hdr) (d a : BitVec 3) (s : State), s.cur.lanes = s.pre.live →
    exec (e.1 h d a) s = .next (s.maskWritten d (e.2 (s.pre.kmask a)))) ∧
  (∀ (h : Hdr) (d : BitVec 3) (a : BitVec 6) (s : State), s.cur.lanes = s.pre.live →
    exec (.ksk h d a) s = .next (s.maskWritten d ((s.pre.sreg a).setWidth 48))) ∧
  (∀ (h : Hdr) (d : BitVec 6) (a : BitVec 3) (s : State), s.cur.lanes = s.pre.live →
    exec (.kpop h d a) s = .next (s.scalarWritten d (BitVec.ofNat 64 (countLanes (s.pre.kmask a)))) ∧
    exec (.kfirst h d a) s = .next (s.scalarWritten d (BitVec.ofNat 64 ((lanesOf (s.pre.kmask a)).headD 48)))) ∧
  (∀ (h : Hdr) (d a : BitVec 3) (s : State), s.cur.lanes = s.pre.live → predsKnown s.pre s.pre.live [a] = true →
    exec (.kfromp h d a) s = .next (s.maskWritten d (s.pre.pred a &&& s.pre.live))) ∧
  (∀ (h : Hdr) (d a : BitVec 3) (s : State), s.cur.lanes = s.pre.live → predsKnown s.pre s.pre.live [d] = true →
    exec (.ktop h d a) s = .next (s.predWritten s.pre.live d (s.pre.kmask a) (countLanes s.pre.live)))

/-- R214, R216, R217: of a move each effective member receives the source of the lane that the form names, if that is an effective member, else its own; `match`
gives the lowest effective member that matches and how many do; `ballot` gathers a predicate into a mask and leaves KZ; the votes write the same bit
in every effective member. With no effective member nothing is written (R213). -/
def Obligations.CrossLaneMoveMatchAndVoteResult : Prop :=
  (let moved := fun (s : State) (h : Hdr) (d a : BitVec 6) (from_ : Nat → Nat) (t : State) =>
     s.VecWritten (h.members s.pre) (s.pre.op d 1)
       (fun L => [s.pre.src a (if laneIn (h.members s.pre) (from_ L) then from_ L else L)])
       (countLanes (h.members s.pre)) t
   (∀ (h : Hdr) (d a b : BitVec 6) (x y : Bool) (s : State),
     s.membersReady h [s.pre.op d 1] [s.pre.op a 1 x, s.pre.op b 1 y] = true →
     ∃ t, exec (.shfl h d a b x y) s = .next t ∧ moved s h d a (fun L => (s.pre.src b L).toNat) t) ∧
   (∀ (h : Hdr) (d a n : BitVec 6) (x : Bool) (s : State), s.membersReady h [s.pre.op d 1] [s.pre.op a 1 x] = true →
     (∃ t, exec (.shfli h d a n x) s = .next t ∧ moved s h d a (fun L => (L + n.toNat) % 48) t) ∧
     (∃ t, exec (.bfly h d a n x) s = .next t ∧ moved s h d a (fun L => L ^^^ n.toNat) t) ∧
     (∃ t, exec (.bcast h d a n x) s = .next t ∧ moved s h d a (fun _ => (s.pre.sreg n).toNat) t))) ∧
  ((∀ e ∈ Claims.matchers, ∀ (h : Hdr) (d a : BitVec 6) (x : Bool) (s : State),
     s.membersReady h [s.pre.op d 2] [s.pre.op a 1 x] = true →
     ∃ t, exec (e.1 h d a x) s = .next t ∧
       s.VecWritten (h.members s.pre) (s.pre.op d 2) (fun L =>
         let hits := (lanesOf (h.members s.pre)).filter (fun j => e.2 (s.pre.src a j) (s.pre.src a L))
         [BitVec.ofNat 32 (hits.headD 0), BitVec.ofNat 32 hits.length]) (countLanes (h.members s.pre)) t) ∧
   (∀ (h : Hdr) (d a : BitVec 3) (s : State), h.members s.pre = 0 →
     exec (.ballot h d a) s = .next s ∧ exec (.voteAny h d a) s = .next s ∧ exec (.voteAll h d a) s = .next s) ∧
   (∀ (h : Hdr) (d a : BitVec 3) (s : State), h.members s.pre ≠ 0 → h.members s.pre &&& s.cur.lanes = h.members s.pre →
     predsKnown s.pre (h.members s.pre) [a] = true →
     exec (.ballot h d a) s = .next (s.retired { s.wv with
       masks := if d = 0 then s.wv.masks else s.wv.masks.set d.toNat (s.pre.pred a &&& h.members s.pre) 0 }
       (countLanes (h.members s.pre)))) ∧
   (∀ (h : Hdr) (d a : BitVec 3) (s : State), h.members s.pre ≠ 0 → h.members s.pre &&& s.cur.lanes = h.members s.pre →
     predsKnown s.pre (h.members s.pre) [d, a] = true →
     exec (.voteAny h d a) s = .next (s.predWritten (h.members s.pre) d
       (if s.pre.pred a &&& h.members s.pre = 0 then 0 else fullMask) (countLanes (h.members s.pre))) ∧
     exec (.voteAll h d a) s = .next (s.predWritten (h.members s.pre) d
       (if s.pre.pred a &&& h.members s.pre = h.members s.pre then fullMask else 0) (countLanes (h.members s.pre)))))

/-- R105 to R107, R215: every effective member receives the root of the reduction tree, or the scan's prefix at its lane. -/
def Obligations.ReductionAndScanResult : Prop :=
  (∀ e ∈ Claims.reductions, ∀ (h : Hdr) (d a : BitVec 6) (x : Bool) (s : State),
    s.membersReady h [s.pre.op d 1] [s.pre.op a 1 x] = true →
    ∃ t, exec (e.1 h d a x) s = .next t ∧
      s.VecWritten (h.members s.pre) (s.pre.op d 1)
        (fun _ => [treeRoot (e.2 s.pre.ftz) (h.members s.pre) (s.pre.src a)]) (countLanes (h.members s.pre)) t) ∧
  (∀ e ∈ Claims.scans, ∀ (h : Hdr) (d a : BitVec 6) (x : Bool) (s : State),
    s.membersReady h [s.pre.op d 1] [s.pre.op a 1 x] = true →
    ∃ t, exec (e.1 h d a x) s = .next t ∧
      s.VecWritten (h.members s.pre) (s.pre.op d 1)
        (fun L => [e.2.2 (scanAt (e.2.1 s.pre.ftz) (h.members s.pre) (s.pre.src a) L)]) (countLanes (h.members s.pre)) t)

/-- R105, R107: for an associative operation the tree's root is the members' values combined in lane order, and a prefix those of the
members up to its lane. -/
def Obligations.TreeIsLaneOrderWhenAssociative : Prop :=
  ∀ (f : W32 → W32 → W32), (∀ a b c, f (f a b) c = f a (f b c)) →
  ∀ (m : Lanes) (v : Nat → W32) (L : Nat) (ls : List Nat),
    (lanesOf m = L :: ls → treeRoot f m v = ls.foldl (fun r K => f r (v K)) (v L)) ∧
    (∀ N, N < 48 → (lanesOf m).filter (fun K => decide (K ≤ N)) = L :: ls →
      scanAt f m v N = ls.foldl (fun r K => f r (v K)) (v L))

/-! ### Control and special registers (08) -/

namespace Sys2Proof.Claims

/-- R71, R189: what a wave-level read of a special register returns in a tile. -/
def specialValue (s : State) : List (Nat × W64) := [
  (0, BitVec.ofNat 64 s.cur.wid), (1, BitVec.ofNat 64 s.bk.bid),
  (3, BitVec.ofNat 64 (s.vcidAt s.bk.die s.bk.tile s.bk.pid)),
  (4, BitVec.ofNat 64 ((s.dieidOf s.bk.pid s.bk.die).getD 0)),
  (5, s.pre.wclk), (7, s.pre.seed), (8, BitVec.ofNat 64 s.time),
  (9, BitVec.ofNat 64 (s.grade s.bk.die s.bk.tile s.pre.quarter)),
  (10, s.pre.fpctl.zeroExtend 64), (12, s.pre.cstk),
  (16, BitVec.ofNat 64 (s.pre.idx 0)), (17, BitVec.ofNat 64 (s.pre.idx 1)),
  (18, BitVec.ofNat 64 (s.pre.idx 2)), (19, BitVec.ofNat 64 (s.pre.idx 3)),
  (32, s.pre.ecause.zeroExtend 64), (33, s.pre.epc), (34, s.pre.ebad), (35, BitVec.ofNat 64 s.pre.skid)]

/-- R198: the indirect target of a lane is the 64-bit value of a register pair. -/
def pairTarget (s : State) (a : BitVec 6) (L : Nat) : Nat :=
  (s.pre.vreg (s.pre.vnum a) L).toNat + 2 ^ 32 * (s.pre.vreg (s.pre.vnum a + 1) L).toNat

/-- Is a target a place that an indirect transfer may go to (R199): in the address space, a word, the first of an issue group? -/
def goodTarget (s : State) (t : Nat) : Bool := decide (t < 2 ^ 56) && t % 4 == 0 && (s.groupStart s.who t).isNone

/-- The block of a wave that stops at issue: it begins to stop, and of its waves that stop in one clk the lowest is the faulting one (R357). -/
def beginsToStop (s : State) : Block :=
  if s.bk.stopping = .no then
    { s.bk with stopping := .trap, causeWave := some s.cur.wid, broadcast := false, haltClk := some s.clk }
  else if s.bk.trapsAt s.clk = true ∧ s.cur.wid < s.bk.causeWave.getD 0 then { s.bk with causeWave := some s.cur.wid }
  else s.bk

/-- The wave stopped for a trap raised by the word that issues (R188, R356), and its block begins to stop. -/
def trapped (s : State) (c : Cause) (L : Nat) (bad : W64) (n : Nat) : State :=
  { s with
    wv := { s.wv with
      ecause := ecauseWord c true L, epc := BitVec.ofNat 64 s.cur.wordPc, ebad := bad, skid := 0, stopped := true,
      skidding := false, parked := [], wclk := s.clockAfter n }
    bk := beginsToStop s }

end Sys2Proof.Claims

/-- R172, R173, R196, R197: with U = 0 each thread branches by its own predicate; with U = 1 the wave as a whole, once every live thread
agrees, and where they disagree it raises UNIFORMITY with the predicate's bits of the live lanes, and no thread moves; `bw` by the condition codes. The target is the branch's own packet plus 12 bytes for each packet of the offset.
`epc` of UNIFORMITY is the branch (log entry 116). -/
def Obligations.BranchResult : Prop :=
  (∀ (sense : Bool) (h : Hdr) (p : BitVec 3) (o : BitVec 20) (s : State) (t : Nat),
    (t : Int) = (s.cur.wordPc / 12 * 12 : Nat) + 12 * immL h o → t < 2 ^ 56 →
    s.curLaunch.rcd.sealedFlow = false → s.guardKnown h = true → predsKnown s.pre (s.performers h) [p] = true →
    ∃ u, exec (if sense then .bt h false p o else .btn h false p o) s = .next u ∧
      s.PcsWritten (maskOf fun L => s.performs h L && (laneIn (s.pre.pred p) L == sense)) (fun _ => t)
        (countLanes s.cur.lanes) u) ∧
  (∀ (sense : Bool) (h : Hdr) (p : BitVec 3) (o : BitVec 20) (s : State) (t : Nat),
    (t : Int) = (s.cur.wordPc / 12 * 12 : Nat) + 12 * immL h o → t < 2 ^ 56 →
    s.curLaunch.rcd.sealedFlow = false → s.cur.lanes = s.pre.live → predsKnown s.pre s.pre.live [p] = true →
    ((s.pre.pred p &&& s.pre.live = if sense then s.pre.live else 0) →
      ∃ u, exec (if sense then .bt h true p o else .btn h true p o) s = .next u ∧
        s.PcsWritten s.pre.live (fun _ => t) (countLanes s.pre.live) u) ∧
    ((s.pre.pred p &&& s.pre.live = if sense then 0 else s.pre.live) → s.pre.live ≠ 0 →
      exec (if sense then .bt h true p o else .btn h true p o) s = .next (s.retired s.wv (countLanes s.pre.live))) ∧
    (∀ L ls, lanesOf s.pre.live = L :: ls → s.wv.skidding = false → s.cur.chained = false →
      s.pre.pred p &&& s.pre.live ≠ 0 → s.pre.pred p &&& s.pre.live ≠ s.pre.live →
      ∃ u, exec (if sense then .bt h true p o else .btn h true p o) s = .next u ∧
        Claims.raised s .uniformity false L ((s.pre.pred p &&& s.pre.live).setWidth 64) u ∧ u.wv.wclk = s.wv.wclk ∧
        ∀ K ∈ L :: ls, s.wv.txOf K = none → u.wv.pcOf K = s.cur.pc)) ∧
  (∀ (h : Hdr) (q : BitVec 3) (o : BitVec 20) (s : State) (t : Nat),
    (t : Int) = (s.cur.wordPc / 12 * 12 : Nat) + 12 * immL h o → t < 2 ^ 56 → s.cur.lanes = s.pre.live →
    ∃ u, exec (.bw h q o) s = .next u ∧
      s.PcsWritten (if s.pre.cond q then s.pre.live else 0) (fun _ => t) (countLanes s.pre.live) u)

/-- R75, R76, R196, R198, R199: a call pushes the first word after its group and goes to its target; the ninth entry of a thread sends its
oldest to the stack area in memory; `jr` goes without a push. `ret` pops the newest entry and goes there; a thread all of whose entries are in memory
first reads the newest back. -/
def Obligations.CallJumpAndReturnResult : Prop :=
  ((∀ (h : Hdr) (o : BitVec 20) (s : State) (t : Nat),
     (t : Int) = (s.cur.wordPc / 12 * 12 : Nat) + 12 * immL h o → t < 2 ^ 56 → s.guardKnown h = true →
     (∀ L ∈ lanesOf (s.performers h), s.wv.hwDepth L < 8) →
     ∃ u, exec (.call h o) s = .next u ∧
       u = s.retired { s.wv with pc := u.wv.pc, stack := u.wv.stack } (countLanes s.cur.lanes) ∧
       ∀ L, u.wv.pcOf L = (if laneIn (s.performers h) L then t else s.wv.pcOf L) ∧
         u.wv.stack.get L [] = s.wv.stack.get L [] ++ (if laneIn (s.performers h) L then [s.cur.next] else [])) ∧
   (∀ (h : Hdr) (o : BitVec 20) (s : State) (t L : Nat) (x : Xlat),
     (t : Int) = (s.cur.wordPc / 12 * 12 : Nat) + 12 * immL h o → t < 2 ^ 56 → s.guardKnown h = true → L < 48 →
     s.performers h = BitVec.ofNat 48 (2 ^ L) → 8 ≤ s.wv.hwDepth L → s.wv.memDepth.get L 0 < s.wv.stackN →
     s.access s.who .spill (s.wv.stackAddr L (s.wv.memDepth.get L 0)) 8 = .ok x →
     s.bpData L false true (s.wv.stackAddr L (s.wv.memDepth.get L 0)) 8 = none → s.ordWait L x 8 = none →
     let old := s.wv.stack.get L []
     let j := s.wv.memDepth.get L 0
     let v := (s.recall x.pa 8).send (s.view L) 0 s.bk.ctxn (s.wv.stackAddr L j) x.pa (leBytes (old.getD j 0) 8)
       (s.depsOf (s.view L).key) false
     exec (.call h o) s = .next (v.retired { v.wv with
       memDepth := v.wv.memDepth.set L (j + 1) 0
       stack := v.wv.stack.set L (old ++ [s.cur.next]) []
       pc := v.wv.pc.set L t 0 } (countLanes s.cur.lanes))) ∧
   (∀ (h : Hdr) (a : BitVec 6) (x : Bool) (s : State), s.curLaunch.rcd.sealedFlow = false →
     s.ready h [] [s.pre.op a 2 x] [] = true →
     (∀ L ∈ lanesOf (s.performers h), Claims.goodTarget s (Claims.pairTarget s a L) = true) →
     (∃ u, exec (.jr h a x) s = .next u ∧
       s.PcsWritten (s.performers h) (Claims.pairTarget s a) (countLanes s.cur.lanes) u) ∧
     ((∀ L ∈ lanesOf (s.performers h), s.wv.hwDepth L < 8) →
       ∃ u, exec (.callr h a x) s = .next u ∧
         u = s.retired { s.wv with pc := u.wv.pc, stack := u.wv.stack } (countLanes s.cur.lanes) ∧
         ∀ L, u.wv.pcOf L = (if laneIn (s.performers h) L then Claims.pairTarget s a L else s.wv.pcOf L) ∧
           u.wv.stack.get L [] = s.wv.stack.get L [] ++ (if laneIn (s.performers h) L then [s.cur.next] else [])))) ∧
  (∀ (h : Hdr) (s : State), s.guardKnown h = true →
     (∀ L ∈ lanesOf (s.performers h),
       (∀ x, s.wv.txOf L = some x → (s.wv.stack.get L []).length ≠ x.depth) ∧
       (0 < s.wv.hwDepth L ∨ (0 < s.wv.memDepth.get L 0 ∧
         s.bpData L true false (s.wv.stackAddr L (s.wv.memDepth.get L 0 - 1)) 8 = none ∧
         ∃ x, s.access s.who .refill (s.wv.stackAddr L (s.wv.memDepth.get L 0 - 1)) 8 = .ok x)) ∧
       Claims.goodTarget s ((s.wv.stack.get L []).getLastD 0) = true) →
     ∃ u, exec (.ret h) s = .next u ∧
       u = s.retired { s.wv with pc := u.wv.pc, stack := u.wv.stack, memDepth := u.wv.memDepth } (countLanes s.cur.lanes) ∧
       ∀ L, if laneIn (s.performers h) L then
           u.wv.pcOf L = (s.wv.stack.get L []).getLastD 0 ∧ u.wv.stack.get L [] = (s.wv.stack.get L []).dropLast ∧
           u.wv.memDepth.get L 0 = min (s.wv.memDepth.get L 0) ((s.wv.stack.get L []).length - 1)
         else u.wv.pcOf L = s.wv.pcOf L ∧ u.wv.stack.get L [] = s.wv.stack.get L [] ∧
           u.wv.memDepth.get L 0 = s.wv.memDepth.get L 0)

/-- R44, R185, R186: `nop` counts and does nothing else; `nap` moves the wave to the pending set when another wave of its quarter is ready there. 0x80000000 is
a `nop` whose chain bit is 1; no other word with major 0 and minor 0 is an instruction. -/
def Obligations.NopAndNapResult : Prop :=
  ((∀ (h : Hdr) (s : State), s.guardKnown h = true →
     exec (.nop h) s = .next (s.retired s.wv (countLanes s.cur.lanes))) ∧
   (∀ (h : Hdr) (s : State), s.cur.lanes = s.pre.live →
     exec (.nap h) s = .next (s.retired
       (if s.pendingReady s.bk.die s.bk.tile s.pre.quarter then { s.wv with active := false, readySince := some s.clk, readyLast := true }
         else s.wv) (countLanes s.pre.live)))) ∧
  ((∀ (h : Hdr) (s : State), s.guardKnown h = true →
     exec (.nop h) s = .next { s with wv := { s.wv with wclk := s.clockAfter (countLanes s.cur.lanes) } }) ∧
   (∀ rest, decodeWords (0x00000000 :: rest) = .ok (.nop {}, rest) ∧ decodeWords (0x80000000 :: rest) = .ok (.nop { chain := true }, rest)) ∧
   (∀ (w : W32) (rest : List W32), w.extractLsb' 26 5 = 0 → w.extractLsb' 0 6 = 0 → w ≠ 0 → w ≠ 0x80000000 →
     ∃ e, decodeWords (w :: rest) = .error e))

/-- R42, R187, R188, R356, R358: `exit` ends each executing thread: it is no longer live, its call stack is discarded, an open transaction aborts with CAUSE 7 and
UCODE 0; a wave with no live thread has ended. `trap` and `brk` retire, and the wave stops with the cause, the word's address, n with the lowest
executing lane; its block begins to stop; a word that no thread executes only counts. -/
def Obligations.ExitTrapAndBreakResult : Prop :=
  (∀ (h : Hdr) (s : State), s.guardKnown h = true →
     ∃ u, exec (.exitT h) s = .next u ∧
       u.wv.live = s.wv.live &&& ~~~ s.performers h ∧ (u.wv.live = 0 → u.wv.ended = true) ∧
       (∀ L, laneIn (s.performers h) L = true → u.wv.stack.get L [] = [] ∧ u.wv.memDepth.get L 0 = 0 ∧
         u.wv.txOf L = none ∧ ((s.wv.txOf L).isSome = true → u.wv.tstatOf L = tsAbort 7 0)) ∧
       u.wv.v = s.wv.v ∧ u.wv.sregs = s.wv.sregs ∧ u.wv.acc = s.wv.acc ∧ u.wv.masks = s.wv.masks ∧
       u.mem = s.mem ∧ u.writes = s.writes ∧
       (u.wv.live ≠ 0 → (∀ L ∈ lanesOf (s.performers h), s.wv.txOf L = none) →
         u = s.retired { s.wv with live := u.wv.live, stack := u.wv.stack, memDepth := u.wv.memDepth }
           (countLanes s.cur.lanes) ∧
         ∀ L, laneIn (s.performers h) L = false → u.wv.stack.get L [] = s.wv.stack.get L [] ∧
           u.wv.memDepth.get L 0 = s.wv.memDepth.get L 0)) ∧
  (∀ (h : Hdr) (n : BitVec 12) (s : State), s.wv.skidding = false → s.guardKnown h = true →
     (∀ L ls, lanesOf (s.performers h) = L :: ls →
       exec (.trapN h n) s = .next (Claims.trapped s .softTrap L (BitVec.ofNat 64 (n.toNat + L * 2 ^ 12)) (countLanes s.cur.lanes)) ∧
       exec (.brk h n) s = .next (Claims.trapped s .breakpoint L (BitVec.ofNat 64 (n.toNat + L * 2 ^ 12)) (countLanes s.cur.lanes))) ∧
     (s.performers h = 0 →
       exec (.trapN h n) s = .next (s.retired s.wv (countLanes s.cur.lanes)) ∧
       exec (.brk h n) s = .next (s.retired s.wv (countLanes s.cur.lanes))))

/-- R71, R72, R74, R189 to R191: reads and writes of special registers. `srd` of `lid`, `sdi` or `tstat` gives each lane its own value; of any other, the
value before the clock to a scalar register, 32 to 35 from level S up. `swr` writes an index register below 1024, the base and size of `cstk` while no live
thread has entries in memory, or `fpctl`; a reserved bit makes the write of `cstk` or `fpctl` have no effect, and it is logged, in partition 0
(log entry 10). An index of 1,024 or more raises REG_BOUNDS with the value's low 32 bits (R63), and 32 to 35 at level U ACCESS with the word.
`clkadd` adds to `wclk`. -/
def Obligations.SpecialRegisterResult : Prop :=
  (∀ (h : Hdr) (d a : BitVec 6) (s : State) (f : Nat → W32), s.ready h [s.pre.op d 1] [] [] = true →
    (a = 2 ∧ f = (fun L => BitVec.ofNat 32 L)) ∨ (a = 6 ∧ f = s.pre.sdiOf) ∨ (a = 11 ∧ f = s.pre.tstatOf) →
    ∃ t, exec (.srd h d a) s = .next t ∧
      s.VecWritten (s.performers h) (s.pre.op d 1) (fun L => [f L]) (countLanes s.cur.lanes) t) ∧
  (∀ (h : Hdr) (d a : BitVec 6) (s : State), s.cur.lanes = s.pre.live → s.bk.die ≠ 64 →
    ∀ e ∈ Claims.specialValue s, e.1 = a.toNat → (32 ≤ e.1 → 1 ≤ s.bk.level.code) →
      exec (.srd h d a) s = .next (s.scalarWritten d e.2)) ∧
  (∀ (h : Hdr) (d a : BitVec 6) (s : State), s.cur.lanes = s.pre.live → s.bk.die = 64 →
    (a = 3 ∨ a = 4 ∨ a = 9) → exec (.srd h d a) s = .next (s.scalarWritten d (Config.rimValue s.bk.tile a.toNat))) ∧
  (∀ (h : Hdr) (d a : BitVec 6) (s : State), s.cur.lanes = s.pre.live → 16 ≤ d.toNat →
    (s.pre.sreg a).toNat < 1024 →
    exec (.swr h d a) s = .next (s.retired { s.wv with index := s.wv.index.set (d.toNat - 16) (s.pre.sreg a).toNat 0 }
      (countLanes s.pre.live))) ∧
  (∀ (h : Hdr) (a : BitVec 6) (s : State), s.cur.lanes = s.pre.live →
    (∀ L ∈ lanesOf s.pre.live, s.pre.memDepth.get L 0 = 0) →
    exec (.swr h 12 a) s = .next
      (if s.pre.sreg a &&& ~~~ 0x07FFFFFFFFFFF000 = 0 then
        s.retired { s.wv with cstk := s.pre.sreg a } (countLanes s.pre.live)
       else (s.logIgnored 0).retired (s.logIgnored 0).wv (countLanes s.pre.live))) ∧
  (∀ (h : Hdr) (a : BitVec 6) (s : State), s.cur.lanes = s.pre.live →
    exec (.swr h 10 a) s = .next
      (if (s.pre.sreg a).toNat % 2 ^ 32 < 16 ∧ (s.pre.sreg a).toNat % 8 ≤ 4 then
        s.retired { s.wv with fpctl := (s.pre.sreg a).setWidth 32 } (countLanes s.pre.live)
       else (s.logIgnored 0).retired (s.logIgnored 0).wv (countLanes s.pre.live))) ∧
  (∀ (h : Hdr) (d a : BitVec 6) (s : State) (L : Nat) (ls : List Nat), s.cur.lanes = s.pre.live → lanesOf s.pre.live = L :: ls →
    s.wv.skidding = false → s.cur.chained = false →
    (16 ≤ d.toNat → 1024 ≤ (s.pre.sreg a).toNat →
      ∃ t, exec (.swr h d a) s = .next t ∧ t.wv.index = s.wv.index ∧
        Claims.raised s .regBounds false L (((s.pre.sreg a).setWidth 32).setWidth 64) t) ∧
    (32 ≤ a.toNat → s.bk.level = .u →
      ∃ t, exec (.srd h d a) s = .next t ∧ t.wv.sregs = s.wv.sregs ∧
        Claims.raised s .access false L (s.cur.word.setWidth 64) t)) ∧
  (∀ (h : Hdr) (a : BitVec 6) (s : State), s.cur.lanes = s.pre.live →
    exec (.clkadd h a) s = .next { s with wv := { s.wv with
      wclk := clkOf (s.wv.wclk.toNat + (s.pre.sreg a).toNat + countLanes s.pre.live) } })


/-! ### Rules stated whole: hard-wired registers, absent lanes, `nop`, sealed flow -/

/-- R55: a write to s0, p7 or k0 has no effect; the instruction otherwise takes its full effect: `cmp` to s0 sets the condition codes,
`kand` to k0 sets KZ, a compare to p7 counts its threads. -/
def Obligations.HardwiredWritesDiscarded : Prop :=
  (∀ (w : Wave) (x : W64), w.setS 0 x = w) ∧ (∀ (w : Wave) (m x : Lanes), w.setPred 7 m x = w) ∧
  (∀ (w : Wave) (x : Lanes), w.setMask 0 x = w) ∧
  (∀ (h : Hdr) (a b : BitVec 6) (s : State), s.cur.lanes = s.pre.live →
    exec (.cmp h 0 a b) s = .next { s with wv := { s.wv with
      z := decide (s.pre.sreg a = s.pre.sreg b), n := (s.pre.sreg a - s.pre.sreg b).msb
      c := decide ((s.pre.sreg b).toNat ≤ (s.pre.sreg a).toNat)
      ovf := decide ((s.pre.sreg a).toInt - (s.pre.sreg b).toInt < -(2 ^ 63) ∨
        2 ^ 63 ≤ (s.pre.sreg a).toInt - (s.pre.sreg b).toInt)
      wclk := s.clockAfter (countLanes s.pre.live) } }) ∧
  (∀ (h : Hdr) (a b : BitVec 3) (s : State), s.cur.lanes = s.pre.live →
    exec (.kand h 0 a b) s = .next { s with wv := { s.wv with
      kz := s.pre.kmask a &&& s.pre.kmask b == 0, wclk := s.clockAfter (countLanes s.pre.live) } }) ∧
  (∀ (h : Hdr) (a b : BitVec 6) (x y : Bool) (s : State), s.ready h [] [s.pre.op a 1 x, s.pre.op b 1 y] [7] = true →
    exec (.cmpeqI32 h 7 a b x y) s = .next (s.retired s.wv (countLanes s.cur.lanes)))

/-- R106: a node with one absent child takes the other's value, with two it is absent; the root and the prefixes depend on no absent
lane; over one member the root is that member's value. -/
def Obligations.AbsentLanesAreNeverRead : Prop :=
  ∀ (f : W32 → W32 → W32),
    (∀ a, treeNode f (some a) none = some a ∧ treeNode f none (some a) = some a ∧ treeNode f none none = none) ∧
    (∀ (m : Lanes) (v u : Nat → W32), (∀ L, laneIn m L = true → v L = u L) →
      treeRoot f m v = treeRoot f m u ∧ ∀ L, scanAt f m v L = scanAt f m u L) ∧
    (∀ (v : Nat → W32) (L : Nat), L < 48 → treeRoot f (BitVec.ofNat 48 (2 ^ L)) v = v L)

/-- R174: in a SEALED_FLOW launch `bt` and `btn`, whatever U holds, `jr` and `callr` raise FLOW_SEALED for the threads they issue for, before
any convergence wait and without effect. -/
def Obligations.SealedFlowRefusesIndirectTransfers : Prop :=
  ∀ (h : Hdr) (u x : Bool) (p : BitVec 3) (a : BitVec 6) (o : BitVec 20) (s : State) (L : Nat) (ls : List Nat),
    s.curLaunch.rcd.sealedFlow = true → s.wv.skidding = false → s.cur.chained = false → lanesOf s.cur.lanes = L :: ls →
    predsKnown s.pre s.cur.lanes [h.guardPred] = true →
    ∀ i ∈ [Instr.bt {} u p o, .btn {} u p o, .jr h a x, .callr h a x],
      ∃ t, exec i s = .next t ∧ t = { s with wv := t.wv, bk := t.bk } ∧ t.wv.stopped = true ∧
        t.wv.ecause = BitVec.ofNat 32 (3 + L * 2 ^ 8 + 2 ^ 14) ∧ t.wv.ebad = BitVec.ofNat 64 s.cur.word.toNat ∧
        t.bk.waves = s.bk.waves ∧ t.bk.spm = s.bk.spm ∧
        t.wv.v = s.wv.v ∧ t.wv.sregs = s.wv.sregs ∧ t.wv.masks = s.wv.masks ∧ t.wv.acc = s.wv.acc ∧ t.wv.wclk = s.wv.wclk ∧
        (∀ K ∈ L :: ls, t.wv.fcode.get K 0 = 3) ∧
        ((∀ K, s.wv.txOf K = none) → t.wv.preds = s.wv.preds ∧ t.wv.stack = s.wv.stack ∧
          ∀ K, t.wv.pcOf K = if laneIn s.cur.lanes K then s.cur.pc else s.wv.pcOf K)

/-! ### Global memory (10) -/

namespace Sys2Proof.Claims

/-- No line of an image that the register cache holds stands at any of `n` bytes from `pa` (R364). -/
def noLine (s : State) (pa n : Nat) : Prop := ∀ k < n, s.imageLineAt (pa + k) = none

/-- The constructor of a load or store: header, register, base, index, order, scope. -/
abbrev Mem := Hdr → BitVec 6 → BitVec 6 → BitVec 6 → BitVec 2 → BitVec 3 → Instr
/-- The constructor of an atomic or a reduction. -/
abbrev Atom := Hdr → BitVec 6 → BitVec 6 → BitVec 6 → BitVec 3 → Instr

/-- R228: the loads but `ld.dec`: minor, width, registers written, and the words that the little-endian value of the bytes gives. -/
def loads : List (Mem × Nat × Nat × Nat × (Nat → List W32)) := [
  (.ldB, 0, 1, 1, fun n => [(BitVec.ofNat 8 n).signExtend 32]),
  (.ldBn, 1, 1, 1, fun n => [BitVec.ofNat 32 n]),
  (.ldH, 2, 2, 1, fun n => [(BitVec.ofNat 16 n).signExtend 32]),
  (.ldHn, 3, 2, 1, fun n => [BitVec.ofNat 32 n]),
  (.ldW, 4, 4, 1, fun n => [BitVec.ofNat 32 n]),
  (.ldD, 5, 8, 2, fun n => [BitVec.ofNat 32 n, BitVec.ofNat 32 (n / 2 ^ 32)]),
  (.ldRaw, 7, 4, 1, fun n => [BitVec.ofNat 32 n])]

/-- R228: the stores: what the access is, width, registers read. -/
def stores : List (Mem × AccKind × Nat × Nat) := [
  (.stB, .store, 1, 1), (.stH, .store, 2, 1), (.stW, .store, 4, 1), (.stD, .store, 8, 2), (.stRaw, .rawStore, 4, 1)]

/-- R233: the returning atomics: minor, width, operand registers, reply registers, and the new value that old value, operand and (for a
compare) second operand give. -/
def atomics : List (Atom × Nat × Nat × Nat × Nat × (Nat → Nat → Nat → Nat)) :=
  let i32 := fun (x : Nat) => (BitVec.ofNat 32 x).toInt
  [(.atomAdd, 0, 4, 1, 1, fun old a _ => (old + a) % 2 ^ 32),
  (.atomAddD, 1, 8, 2, 2, fun old a _ => (old + a) % 2 ^ 64),
  (.atomMin, 2, 4, 1, 1, fun old a _ => if i32 a < i32 old then a else old),
  (.atomMax, 3, 4, 1, 1, fun old a _ => if i32 old < i32 a then a else old),
  (.atomMinn, 4, 4, 1, 1, fun old a _ => min old a),
  (.atomMaxn, 5, 4, 1, 1, fun old a _ => max old a),
  (.atomAnd, 6, 4, 1, 1, fun old a _ => old &&& a),
  (.atomOr, 7, 4, 1, 1, fun old a _ => old ||| a),
  (.atomXor, 8, 4, 1, 1, fun old a _ => old ^^^ a),
  (.atomXchg, 9, 4, 1, 1, fun _ a _ => a),
  (.atomCas, 10, 4, 2, 1, fun old a b => if old = a then b else old),
  (.atomCasD, 11, 8, 4, 2, fun old a b => if old = a then b else old),
  (.atomFadd, 12, 4, 1, 1, fun old a _ => memFadd old a),
  (.atomFaddBf2, 13, 4, 1, 1, fun old a _ => memFaddBf2 old a),
  (.atomFmin, 14, 4, 1, 1, fun old a _ => fp32.minmax false old a),
  (.atomFmax, 15, 4, 1, 1, fun old a _ => fp32.minmax true old a)]

/-- R234: the reductions: the `atom` minor that each combines by, width, operand registers, and the combination. -/
def memoryReductions : List (Atom × Nat × Nat × Nat × (Nat → Nat → Nat)) :=
  let i32 := fun (x : Nat) => (BitVec.ofNat 32 x).toInt
  [(.redAdd, 0, 4, 1, fun old a => (old + a) % 2 ^ 32),
  (.redAddD, 1, 8, 2, fun old a => (old + a) % 2 ^ 64),
  (.redMin, 2, 4, 1, fun old a => if i32 a < i32 old then a else old),
  (.redMax, 3, 4, 1, fun old a => if i32 old < i32 a then a else old),
  (.redMinn, 4, 4, 1, fun old a => min old a),
  (.redMaxn, 5, 4, 1, fun old a => max old a),
  (.redAnd, 6, 4, 1, fun old a => old &&& a),
  (.redOr, 7, 4, 1, fun old a => old ||| a),
  (.redXor, 8, 4, 1, fun old a => old ^^^ a),
  (.redFadd, 12, 4, 1, fun old a => memFadd old a),
  (.redFaddBf2, 13, 4, 1, fun old a => memFaddBf2 old a)]

/-- Every lane that performs reaches a place of memory: its address s base + index + displacement (R227, `State.ea`) translates to
`x L`, no breakpoint register matches, no transaction is open, and no returning atomic of the lane is unperformed. -/
def reaches (s : State) (h : Hdr) (base idx : BitVec 6) (k : AccKind) (width : Nat) (x : Nat → Xlat) : Prop :=
  ∀ L ∈ lanesOf (s.performers h),
    s.access s.who k (s.ea h base idx L) width = .ok (x L) ∧ (x L).maint = false ∧
    s.bpData L k.needsR k.needsW (s.ea h base idx L) width = none ∧ s.wv.txOf L = none ∧ s.wv.atomicPending L = false

/-- A release of lane L at a scope covers a write (R137): the thread made it or saw it, and the scope covers its place. -/
def covered (s : State) (L scope : Nat) (w : PWrite) : Prop :=
  ((w.uid = s.cur.uid ∧ w.wid = s.cur.wid ∧ w.lane = L) ∨ w.id ∈ (s.observed.get (tkey s.cur.uid s.cur.wid L) []).map (·.1)) ∧
    covers scope w.pa = true

/-- A release by the threads of `m` at a scope: what it covers is among what each thread's later writes wait for, at the scope's level. -/
def releases (s : State) (m : Lanes) (scope : Nat) (t : State) : Prop :=
  ∀ L ∈ lanesOf m, ∀ w ∈ s.writes, covered s L scope w →
    ∃ l, (w.id, l) ∈ t.observed.get (tkey s.cur.uid s.cur.wid L) [] ∧ scopeLevel scope ≤ l

/-- What a job awaits before it reads memory holds every write that the release of a thread of `m` covers and that is not performed at the scope
(R150). -/
def awaits (s : State) (m : Lanes) (scope : Nat) (deps : List (Nat × Nat)) : Prop :=
  ∀ L ∈ lanesOf m, ∀ w ∈ s.writes, covered s L scope w → w.level < scopeLevel scope → ∃ l, (w.id, l) ∈ deps ∧ scopeLevel scope ≤ l

/-- An acquire by the threads of `m` at a scope (R138): no copy that could be older than what is performed there stays, and every write in
flight that is performed there counts as seen. -/
def acquires (s : State) (m : Lanes) (scope : Nat) (t : State) : Prop :=
  (m ≠ 0 → ∀ l ∈ [1, 2, 3], l < scopeLevel scope → ∀ pa < 2 ^ 48, covers scope pa = true →
    t.stale.get (copyKey l ((s.view 48).inst l) (pa / 8)) none = none) ∧
  ∀ L ∈ lanesOf m, ∀ w ∈ s.writes, covers scope w.pa = true → scopeLevel scope ≤ w.level → w.seenBy (s.view 48) = true →
    w.id ∈ (t.observed.get (tkey s.cur.uid s.cur.wid L) []).map (·.1)

/-- The fault that an access of `width` bytes at `va` meets: it runs past the address space, its translation faults, or its page is protected, of a
format that the access does not read, or the address is not aligned, in this order (R109, R111). -/
def accessFaults (s : State) (k : AccKind) (va width : Nat) (c : Cause) : Prop :=
  (2 ^ 56 < va + width ∧ c = .pageFault) ∨
  (va + width ≤ 2 ^ 56 ∧ s.translate s.who k va = .fault c) ∨
  (va + 8 ≤ 2 ^ 56 ∧ ∃ x, s.translate s.who k va = .ok x ∧ x.maint = false ∧
    ((leafKey x.leaf ≠ 0 ∧ c = .protPlain) ∨
     (leafKey x.leaf = 0 ∧ k ∈ [AccKind.load, .store, .atomic] ∧ leafFmt x.leaf ≠ 0 ∧ c = .formatMismatch) ∨
     (leafKey x.leaf = 0 ∧ k = .dec ∧ leafFmt x.leaf = 0 ∧ c = .formatMismatch) ∨
     (leafKey x.leaf = 0 ∧ k ≠ .dec ∧ (k ∈ [AccKind.rawLoad, .rawStore] ∨ leafFmt x.leaf = 0) ∧ va % width ≠ 0 ∧ c = .align)))

/-- The unsigned value of a span of vector registers, the first the lowest word. -/
def spanValue (w : Wave) (r L : Nat) : Nat → Nat
  | 0 => 0
  | n + 1 => (w.vreg r L).toNat + 2 ^ 32 * spanValue w (r + 1) L n

end Sys2Proof.Claims

/-- R66, R69, R227 to R230, R138: a load without acquire takes a pending-reply slot for its destination with one request a lane; an acquire load takes
its value at once (log entry 36), from what is performed for its thread, and acquires at its scope. No byte of memory and no write in flight changes.
The slot is the lowest free one (log entry 109). The reserved bytes of a Q4 unit, which `ld.raw` reaches, read as zero (R88). A load whose lowest
thread meets a fault of its access raises it with the address (R109, R111, R226). Loads of a transaction are in `TransactionResult`. -/
def Obligations.LoadIssue : Prop :=
  (∀ e ∈ Claims.loads, ∀ (h : Hdr) (d base idx : BitVec 6) (r : BitVec 2) (g : BitVec 3) (s : State) (x : Nat → Xlat),
    s.ready h [s.pre.op d e.2.2.2.1] [s.pre.op idx 1] [] = true → s.wv.freeSlot.isSome = true →
    Claims.reaches s h base idx (if e.2.1 = 7 then .rawLoad else .load) e.2.2.1 x →
    (∀ L ∈ lanesOf (s.performers h), e.2.1 = 7 → leafFmt (x L).leaf = 6 →
      q4Reserved (leafGeo (x L).leaf) (unitOff (s.ea h base idx L)) = false) →
    let req := fun L => ({ lane := L, va := s.ea h base idx L, pa := (x L).pa, width := e.2.2.1, aux := e.2.1, scope := g.toNat } : Req)
    (r ≠ 1 →
      ∃ u, exec (e.1 h d base idx r g) s = .next (s.retired u (countLanes s.cur.lanes)) ∧
        s.wv.SlotTaken (s.performers h) .load (s.pre.op d e.2.2.2.1) ((lanesOf (s.performers h)).map req) u) ∧
    (r = 1 → s.unanswered = false → s.ucopies = [] →
      (∀ L ∈ lanesOf (s.performers h), s.imageLineAt (x L).pa = none ∧ s.imageLineAt ((x L).pa + e.2.2.1 - 1) = none) →
      ∃ t, exec (e.1 h d base idx r g) s = .next t ∧
        t = { s with wv := t.wv, stale := t.stale, observed := t.observed } ∧
        Claims.acquires s (s.performers h) g.toNat t ∧
        t.wv = { s.wv with empty := t.wv.empty, slots := t.wv.slots, slotSeq := t.wv.slotSeq, wclk := s.clockAfter (countLanes s.cur.lanes) } ∧
        (∀ i, s.wv.freeSlot = some i → ∀ L ∈ lanesOf (s.performers h),
          (∀ k < e.2.2.1, (s.readByte (s.view L) 0 ((x L).pa + k)).bad = false) →
          { req L with val := some (e.2.2.2.2 (leNat (s.peekMem (s.view L) (x L).pa e.2.2.1))) } ∈ (t.wv.slot i).reqs))) ∧
  (∀ (h : Hdr) (d base idx : BitVec 6) (r : BitVec 2) (g : BitVec 3) (s : State) (x : Nat → Xlat), r ≠ 1 →
    s.ready h [s.pre.op d 1] [s.pre.op idx 1] [] = true → s.wv.freeSlot.isSome = true →
    Claims.reaches s h base idx .rawLoad 4 x →
    (∀ L ∈ lanesOf (s.performers h), leafFmt (x L).leaf = 6 ∧ q4Reserved (leafGeo (x L).leaf) (unitOff (s.ea h base idx L)) = true) →
    ∃ u, exec (.ldRaw h d base idx r g) s = .next (s.retired u (countLanes s.cur.lanes)) ∧
      s.wv.SlotTaken (s.performers h) .load (s.pre.op d 1) ((lanesOf (s.performers h)).map fun L =>
        { lane := L, va := s.ea h base idx L, pa := (x L).pa, width := 4, aux := 7, scope := g.toNat, val := some [0] }) u) ∧
  (∀ (h : Hdr) (d base idx : BitVec 6) (r : BitVec 2) (g : BitVec 3) (s : State) (x : Nat → Xlat) (n : Nat), r ≠ 1 →
    s.ready h [s.pre.op d 2] [s.pre.op idx 1] [] = true → s.wv.freeSlot.isSome = true →
    (∀ L ∈ lanesOf (s.performers h), s.access s.who .dec (s.ea h base idx L) 1 = .ok (x L) ∧ (x L).maint = false ∧
      s.bpData L true false (s.ea h base idx L) 1 = none ∧ s.wv.txOf L = none ∧ s.wv.atomicPending L = false ∧
      n = if leafFmt (x L).leaf = 6 then 2 else 1) →
    ∃ u, exec (.ldDec h d base idx r g) s = .next (s.retired u (countLanes s.cur.lanes)) ∧
      s.wv.SlotTaken (s.performers h) .load (s.pre.op d n) ((lanesOf (s.performers h)).map fun L =>
        { lane := L, va := s.ea h base idx L, pa := (x L).pa
          width := if leafFmt (x L).leaf = 6 then 1 else elemSize (leafFmt (x L).leaf), aux := 6, scope := g.toNat
          opnd := [BitVec.ofNat 32 (leafFmt (x L).leaf), BitVec.ofNat 32 (leafGeo (x L).leaf)] }) u) ∧
  (∀ (h : Hdr) (d base idx : BitVec 6) (g : BitVec 3) (s : State) (x : Nat → Xlat),
    s.wv.freeSlot.isSome = true → s.unanswered = false → s.ucopies = [] →
    let acquired := fun (t : State) =>
      t = { s with wv := t.wv, stale := t.stale, observed := t.observed } ∧ Claims.acquires s (s.performers h) g.toNat t
    (∀ L ∈ lanesOf (s.performers h), Claims.noLine s (x L).pa 8) →
    (s.ready h [s.pre.op d 1] [s.pre.op idx 1] [] = true → Claims.reaches s h base idx .rawLoad 4 x →
      ∃ t, exec (.ldRaw h d base idx 1 g) s = .next t ∧ acquired t) ∧
    (s.ready h [s.pre.op d 2] [s.pre.op idx 1] [] = true → Claims.reaches s h base idx .dec 1 x →
      ∃ t, exec (.ldDec h d base idx 1 g) s = .next t ∧ acquired t)) ∧
  (∀ (h : Hdr) (d base idx : BitVec 6) (r : BitVec 2) (g : BitVec 3) (s : State) (L : Nat) (c : Cause), Claims.lowest s h L →
    s.wv.freeSlot.isSome = true → s.wv.atomicPending L = false →
    (∀ e ∈ Claims.loads, s.ready h [s.pre.op d e.2.2.2.1] [s.pre.op idx 1] [] = true →
      Claims.accessFaults s (if e.2.1 = 7 then .rawLoad else .load) (s.ea h base idx L) e.2.2.1 c →
      ∃ t, exec (e.1 h d base idx r g) s = .next t ∧ Claims.raised s c true L (BitVec.ofNat 64 (s.ea h base idx L)) t) ∧
    (s.ready h [s.pre.op d 2] [s.pre.op idx 1] [] = true → Claims.accessFaults s .dec (s.ea h base idx L) 1 c →
      ∃ t, exec (.ldDec h d base idx r g) s = .next t ∧ Claims.raised s c true L (BitVec.ofNat 64 (s.ea h base idx L)) t))

/-- R130, R132, R227, R231: a store puts one write a lane in flight, in lane order, each in its thread's store buffer, with the low bytes of
its registers, and a release store releases at its scope first (R137); a read of any byte outside the stored ones gives what it gave before. A store
whose lowest thread meets a fault of its access raises it with the address (R109, R111, R226). -/
def Obligations.StoreResult : Prop :=
  (∀ e ∈ Claims.stores, ∀ (h : Hdr) (d base idx : BitVec 6) (r : BitVec 2) (g : BitVec 3) (s : State) (L : Nat) (c : Cause), Claims.lowest s h L →
    s.ready h [] [s.pre.op idx 1, s.pre.op d e.2.2.2] [] = true → s.wv.atomicPending L = false →
    Claims.accessFaults s e.2.1 (s.ea h base idx L) e.2.2.1 c →
    ∃ t, exec (e.1 h d base idx r g) s = .next t ∧ Claims.raised s c true L (BitVec.ofNat 64 (s.ea h base idx L)) t) ∧
  ∀ e ∈ Claims.stores, ∀ (h : Hdr) (d base idx : BitVec 6) (r : BitVec 2) (g : BitVec 3) (s : State) (x : Nat → Xlat),
    s.ready h [] [s.pre.op idx 1, s.pre.op d e.2.2.2] [] = true →
    Claims.reaches s h base idx e.2.1 e.2.2.1 x →
    (∀ L ∈ lanesOf (s.performers h), s.ordWait L (x L) e.2.2.1 = none ∧
      (e.2.1 = .rawStore → leafFmt (x L).leaf = 6 → q4Reserved (leafGeo (x L).leaf) (unitOff (s.ea h base idx L)) = false)) →
    s.unanswered = false → s.ucopies = [] →
    let new := (lanesOf (s.performers h)).zipIdx.map fun p =>
      (⟨s.nextWrite + p.2, s.bk.die, s.bk.tile, s.cur.uid, s.cur.wid, p.1, (x p.1).pa, s.ea h base idx p.1, s.bk.ctxn,
        leBytes (Claims.spanValue s.pre (s.pre.vnum d) p.1 e.2.2.2) e.2.2.1, 0, homeLevel (x p.1).pa, [], false, false, 0⟩ : PWrite)
    ∃ t, exec (e.1 h d base idx r g) s = .next t ∧
      t = { s with
        wv := { s.wv with wclk := s.clockAfter (countLanes s.cur.lanes) }, writes := t.writes, observed := t.observed
        nextWrite := s.nextWrite + countLanes (s.performers h) } ∧
      (r ≠ 2 → t.observed = s.observed) ∧ (r = 2 → (s.writes.map (·.id)).Nodup → Claims.releases s (s.performers h) g.toNat t) ∧
      t.writes.map (fun w => { w with deps := [] }) = s.writes.map (fun w => { w with deps := [] }) ++ new ∧
      s.writes <+: t.writes ∧
      ∀ (v : View) (k a : Nat), (∀ L ∈ lanesOf (s.performers h), a < (x L).pa ∨ (x L).pa + e.2.2.1 ≤ a) →
        t.readByte v k a = s.readByte v k a

/-- R66, R137, R142, R143, R233: outside a DET launch a returning atomic makes its release at its scope and takes the lowest free slot (log entry 109) with
its operands, to be performed once later; in one, a lane that holds the token performs it at the home at once: the location takes the operation's value, the
reply is the old value. -/
def Obligations.AtomicResult : Prop :=
  ∀ e ∈ Claims.atomics, ∀ (h : Hdr) (d base idx : BitVec 6) (g : BitVec 3) (s : State) (x : Nat → Xlat),
    let n := e.2.2.1
    let D := s.pre.op d e.2.2.2.1
    s.ready h [D] [s.pre.op idx 1, D] [] = true → s.wv.freeSlot.isSome = true → Claims.reaches s h base idx .atomic n x →
    s.unanswered = false → s.ucopies = [] →
    let req := fun L => ({ lane := L, va := s.ea h base idx L, pa := (x L).pa, width := n, aux := e.2.1, scope := g.toNat
                           opnd := D.regs.map (fun r => s.pre.vreg r L) } : Req)
    (s.curLaunch.rcd.det = false →
      ∃ t, exec (e.1 h d base idx g) s = .next t ∧ t = { s with wv := t.wv, observed := t.observed } ∧
        ((s.writes.map (·.id)).Nodup → Claims.releases s (s.performers h) g.toNat t) ∧
        ∃ u, s.wv.SlotTaken (s.performers h) .atomic (s.pre.op d e.2.2.2.2.1) ((lanesOf (s.performers h)).map req) u ∧
          t.wv = { u with wclk := s.clockAfter (countLanes s.cur.lanes) }) ∧
    (∀ L, L < 48 → s.curLaunch.rcd.det = true → s.performers h = BitVec.ofNat 48 (2 ^ L) →
      s.homeWait L g.toNat (x L).pa n = none → s.badRange (x L).pa n = false → (∀ k < n, s.imageLineAt ((x L).pa + k) = none) →
      let old := leNat (s.homeBytes (x L).pa n)
      let a := Claims.spanValue s.pre (s.pre.vnum d) L (n / 4)
      let b := Claims.spanValue s.pre (s.pre.vnum d + n / 4) L (n / 4)
      ∃ t, exec (e.1 h d base idx g) s = .next t ∧ t.writes = s.writes ∧
        t.homeBytes (x L).pa n = leBytes (e.2.2.2.2.2 old a b) n ∧
        (∀ p, p < (x L).pa ∨ (x L).pa + n ≤ p → t.homeByte p = s.homeByte p) ∧
        ∃ i, s.wv.freeSlot = some i ∧ (t.wv.slot i).reqs = [{ req L with
          val := some ((List.range e.2.2.2.2.1).map fun k => BitVec.ofNat 32 (old / 2 ^ (32 * k))) }])

/-- R144, R145, R234: outside a DET launch, on a location of the module, a reduction goes to the update-only copy of its core: a new partial where the core
holds none of that word, else combined with the partial of its operation and width; the core's L1 keeps no copy of the word, so that it prefers its own
write (R134). In a DET launch it is combined into the home. -/
def Obligations.ReductionToMemoryResult : Prop :=
  ∀ e ∈ Claims.memoryReductions, ∀ (h : Hdr) (d base idx : BitVec 6) (g : BitVec 3) (s : State) (x : Nat → Xlat),
    let n := e.2.2.1
    let D := s.pre.op d e.2.2.2.1
    let val := fun L => Claims.spanValue s.pre (s.pre.vnum d) L e.2.2.2.1
    s.ready h [] [s.pre.op idx 1, D] [] = true → Claims.reaches s h base idx .atomic n x → s.unanswered = false →
    (∀ L ∈ lanesOf (s.performers h), s.lockOf (x L).pa = none ∧ s.depsOf (s.view L).key = []) →
    (s.curLaunch.rcd.det = false →
      (∀ L ∈ lanesOf (s.performers h), isHbm (x L).pa = true ∧ s.inFlight (s.view L) (x L).pa n = false ∧
        s.rmwInFlight (x L).pa n = false ∧
        ∀ u ∈ s.ucopies, u.die ≠ s.bk.die ∨ u.tile ≠ s.bk.tile ∨ u.pa / 8 ≠ (x L).pa / 8) →
      (lanesOf (s.performers h)).Pairwise (fun K L => (x K).pa / 8 ≠ (x L).pa / 8) →
      exec (e.1 h d base idx g) s = .next { s with
        wv := { s.wv with wclk := s.clockAfter (countLanes s.cur.lanes) }
        stale := ((lanesOf (s.performers h)).foldl (fun u L => u.dropOwn s.bk.die s.bk.tile 2 (x L).pa n) s).stale
        ucopies := s.ucopies ++ (lanesOf (s.performers h)).map fun L =>
          ⟨s.bk.die, s.bk.tile, (x L).pa, n, e.2.1, BitVec.ofNat 64 (val L)⟩ }) ∧
    (∀ (L : Nat) (u : UPart) (us vs : List UPart), L < 48 → s.curLaunch.rcd.det = false →
      s.performers h = BitVec.ofNat 48 (2 ^ L) → isHbm (x L).pa = true →
      s.inFlight (s.view L) (x L).pa n = false → s.rmwInFlight (x L).pa n = false →
      s.ucopies = us ++ u :: vs → u.die = s.bk.die → u.tile = s.bk.tile → u.pa = (x L).pa → u.width = n → u.op = e.2.1 →
      (∀ p ∈ us ++ vs, p.die ≠ s.bk.die ∨ p.tile ≠ s.bk.tile ∨ p.pa / 8 ≠ (x L).pa / 8) →
      exec (e.1 h d base idx g) s = .next { s with
        wv := { s.wv with wclk := s.clockAfter (countLanes s.cur.lanes) }
        stale := (s.dropOwn s.bk.die s.bk.tile 2 (x L).pa n).stale
        ucopies := us ++ { u with val := BitVec.ofNat 64 (e.2.2.2.2 u.val.toNat (val L)) } :: vs }) ∧
    (∀ L, L < 48 → s.curLaunch.rcd.det = true → s.tokenCheck = none → s.performers h = BitVec.ofNat 48 (2 ^ L) → s.ucopies = [] →
      s.writes.any (fun w => w.hits (x L).pa n) = false → s.badRange (x L).pa n = false →
      ∃ t, exec (e.1 h d base idx g) s = .next t ∧ t.writes = s.writes ∧ t.ucopies = [] ∧
        t.homeBytes (x L).pa n = leBytes (e.2.2.2.2 (leNat (s.homeBytes (x L).pa n)) (val L)) n ∧
        ∀ p, p < (x L).pa ∨ (x L).pa + n ≤ p → t.homeByte p = s.homeByte p)

/-! ### Scratchpad and buffers (05, 10) -/

namespace Sys2Proof.Claims

/-- The constructor of a scratchpad access. -/
abbrev Spm := Hdr → BitVec 6 → BitVec 6 → BitVec 6 → Bool → Instr

/-- R235: the loads and stores of plain buffers, with their widths; the loads carry their form. -/
def spmLoads : List (Spm × Nat × Nat) := [(.sldW, 0, 4), (.sldH, 1, 2), (.sldB, 2, 1)]
def spmStores : List (Spm × Nat) := [(.sstW, 4), (.sstH, 2), (.sstB, 1)]

/-- R235: the buffer that sB names, and the offset of a lane: sB bits [31:0] and vA. -/
def spmId (s : State) (b : BitVec 6) : Nat := field (s.pre.sreg b) 37 32
def spmOff (s : State) (a b : BitVec 6) (L : Nat) : Nat := field (s.pre.sreg b) 31 0 + (s.pre.vreg (s.pre.vnum a) L).toNat

/-- The lanes of `m` are parked no more, the others as before. -/
def unparked (s : State) (m : Lanes) (p : Tab (Option (Nat × Nat))) : Prop :=
  ∀ L, p.get L none = if laneIn m L = true then none else s.wv.parked.get L none

end Sys2Proof.Claims

/-- R69, R112, R121, R126, R235: a scratchpad load of a buffer that may be read takes a slot that holds what the buffer's bytes give at issue; a lane
that was parked is parked no more, and its threads, which see presence bits set, acquire at `core` scope, which drops no copy and makes the writes
performed there observed (R124, R138). The slot is the lowest free one, and holds the value from the issue on (log entries 36, 109). A load of an EMPTY
buffer raises BUF_STATE with the id and the offset. -/
def Obligations.ScratchpadLoadResult : Prop :=
  ∀ (h : Hdr) (d a b : BitVec 6) (x : Bool) (s : State),
    let id := Claims.spmId s b
    let off := Claims.spmOff s a b
    let u := s.bk.buf id
    let at_ := fun o n => leNat (s.bk.bufBytes id o n)
    let seen := (s.acquireHere (s.performers h) 0).observed
    let clean := fun (form : Nat) => ∀ L ∈ lanesOf (s.performers h), s.spmMarked form id (off L) = false
    s.wv.freeSlot.isSome = true → s.cur.held &&& s.cur.lanes = s.cur.held →
    (∀ L ∈ lanesOf (s.performers h), s.parkFault L id (off L) = none) →
    (∀ e ∈ Claims.spmLoads, s.ready h [s.pre.op d 1] [s.pre.op a 1 x] [] = true → u.fmt = 0 →
      (∀ L ∈ lanesOf (s.performers h), s.bk.readable id (off L) e.2.2 = true) → clean e.2.1 →
      ∃ w p, exec (e.1 h d a b x) s = .next { s.retired { w with parked := p } (countLanes s.cur.lanes) with observed := seen } ∧
        Claims.unparked s (s.performers h) p ∧
        s.wv.SlotTaken (s.performers h) .load (s.pre.op d 1) ((lanesOf (s.performers h)).map fun L =>
          { lane := L, aux := e.2.1, val := some [BitVec.ofNat 32 (at_ (off L) e.2.2)] }) w) ∧
    (s.ready h [s.pre.op d 2] [s.pre.op a 1 x] [] = true → u.fmt ≠ 0 → u.fmt ≠ 6 →
      (∀ L ∈ lanesOf (s.performers h), s.bk.readable id (off L) (elemSize u.fmt) = true) → clean 9 →
      ∃ w p, exec (.sldDec h d a b x) s = .next { s.retired { w with parked := p } (countLanes s.cur.lanes) with observed := seen } ∧
        Claims.unparked s (s.performers h) p ∧
        s.wv.SlotTaken (s.performers h) .load (s.pre.op d 1) ((lanesOf (s.performers h)).map fun L =>
          { lane := L, aux := 9, val := some [elem32 u.fmt (at_ (off L) (elemSize u.fmt))] }) w) ∧
    (s.ready h [s.pre.op d 2] [s.pre.op a 1 x] [] = true → u.fmt = 6 →
      (∀ L ∈ lanesOf (s.performers h), s.bk.readable id (off L) 1 = true ∧ (q4BufScales u.geo u.size (off L)).isSome = true) → clean 9 →
      ∃ w p, exec (.sldDec h d a b x) s = .next { s.retired { w with parked := p } (countLanes s.cur.lanes) with observed := seen } ∧
        Claims.unparked s (s.performers h) p ∧
        s.wv.SlotTaken (s.performers h) .load (s.pre.op d 2) ((lanesOf (s.performers h)).map fun L =>
          let q := (q4BufScales u.geo u.size (off L)).getD (0, 0, 0)
          { lane := L, aux := 9, val := some [q4f32 (at_ q.1 1) (at_ q.2.1 1) (at_ (off L) 1 % 16),
              q4f32 (at_ q.1 1) (at_ q.2.2 1) (at_ (off L) 1 / 16)] }) w) ∧
    (∀ e ∈ Claims.spmLoads, ∀ L, Claims.lowest s h L → s.ready h [s.pre.op d 1] [s.pre.op a 1 x] [] = true →
      u.decl = true → u.state = .empty → off L + e.2.2 ≤ u.size → off L % e.2.2 = 0 →
      ∃ t, exec (e.1 h d a b x) s = .next t ∧ Claims.raised s .bufState true L (bufBad id (off L)) t)

/-- R121, R126, R153, R235: a scratchpad store to a plain buffer that is EMPTY or FULL writes the low bytes of vD; where lanes meet, the
highest lane's byte remains; no other byte changes. A store to a buffer that is FILLING or DRAINING raises BUF_STATE. -/
def Obligations.ScratchpadStoreResult : Prop :=
  (∀ e ∈ Claims.spmStores, ∀ (h : Hdr) (d a b : BitVec 6) (x : Bool) (s : State) (L : Nat), Claims.lowest s h L →
    let u := s.bk.buf (Claims.spmId s b)
    let off := Claims.spmOff s a b L
    s.ready h [] [s.pre.op a 1 x, s.pre.op d 1] [] = true → u.decl = true → (u.state = .filling ∨ u.state = .draining) →
    off + e.2 ≤ u.size → off % e.2 = 0 →
    ∃ t, exec (e.1 h d a b x) s = .next t ∧ Claims.raised s .bufState true L (bufBad (Claims.spmId s b) off) t) ∧
  ∀ e ∈ Claims.spmStores, ∀ (h : Hdr) (d a b : BitVec 6) (x : Bool) (s : State),
    let id := Claims.spmId s b
    let at_ := fun L => (s.bk.buf id).offset + Claims.spmOff s a b L
    s.ready h [] [s.pre.op a 1 x, s.pre.op d 1] [] = true → (s.bk.buf id).fmt = 0 →
    (∀ L ∈ lanesOf (s.performers h), s.bk.writable id (Claims.spmOff s a b L) e.2 = true) →
    ∃ t, exec (e.1 h d a b x) s = .next t ∧
      t = { s with wv := { s.wv with wclk := s.clockAfter (countLanes s.cur.lanes) }, bk := { s.bk with spm := t.bk.spm, spmMarks := t.bk.spmMarks } } ∧
      (s.bk.spmMarks = [] → t.bk.spmMarks = []) ∧
      (∀ L ∈ lanesOf (s.performers h), ∀ k < e.2,
        (∀ K ∈ lanesOf (s.performers h), L < K → at_ L + k < at_ K ∨ at_ K + e.2 ≤ at_ L + k) →
        t.bk.spm.get (at_ L + k) 0 = BitVec.ofNat 8 ((s.pre.vreg (s.pre.vnum d) L).toNat / 256 ^ k)) ∧
      ∀ p, (∀ L ∈ lanesOf (s.performers h), p < at_ L ∨ at_ L + e.2 ≤ p) → t.bk.spm.get p 0 = s.bk.spm.get p 0

/-- R118 to R121, R236 to R239: `bdecl` declares a buffer that nothing holds, EMPTY, or FULL with its lines present; `bset` moves an idle buffer to EMPTY or FULL;
`bstat` reads its state, and where that is FULL acquires at `core` scope for every live thread; `bwait` completes on a FULL, or a drained, buffer, the
former with the same acquire. A state that refuses `bset` or `bdecl`, and an undeclared id in `bset` or `bstat`, raise BUF_STATE, whose offset here is 0
(log entry 113). -/
def Obligations.BufferResult : Prop :=
  ∀ (h : Hdr) (a : BitVec 6) (s : State),
    let id := field (s.pre.sreg a) 5 0
    let u := s.bk.buf id
    let done := { s.wv with wclk := s.clockAfter (countLanes s.pre.live) }
    (∀ (b : BitVec 6) (n : Buf), s.cur.lanes = s.pre.live →
      n = { offset := field (s.pre.sreg b) 31 0, size := field (s.pre.sreg b) 63 32, fmt := field (s.pre.sreg (b + 1)) 7 0
            geo := field (s.pre.sreg (b + 1)) 15 8, flags := field (s.pre.sreg (b + 1)) 31 16, key := field (s.pre.sreg (b + 1)) 47 32 } →
      field (s.pre.sreg (b + 1)) 63 48 = 0 → n.entryOk s.bk.spmb (s.feature 3) = true →
      (∀ i < 64, i ≠ id → (s.bk.buf i).decl = true → n.overlaps (s.bk.buf i) = false) →
      (u.decl = true → u.state = .empty ∧ u.heldN = 0) →
      (n.flags % 2 = 1 → n.key ∈ s.keysOf s.bk.pid ∧ (s.sealed s.bk.pid = true ∨ s.ctxSealimg s.bk.ctxn = true)) →
      ∃ t, exec (.bdecl h a b) s = .next t ∧
        t = { s with wv := done, bk := { s.bk with bufs := t.bk.bufs, present := t.bk.present } } ∧
        t.bk.buf id = { n with decl := true, state := if n.flags / 2 % 2 = 1 then .full else .empty, fails := u.fails } ∧
        (∀ i, i ≠ id → t.bk.buf i = s.bk.buf i) ∧
        ∀ l, t.bk.present.get l false =
          if n.offset / 192 ≤ l ∧ l < (n.offset + n.size - 1) / 192 + 1 then decide (n.flags / 2 % 2 = 1) else s.bk.present.get l false) ∧
    (s.cur.lanes = s.pre.live → u.decl = true → u.heldN = 0 → (u.state = .empty ∨ u.state = .full) →
      exec (.bsetEmpty h a) s = .next { s with
        wv := done, bk := { s.bk with bufs := s.bk.bufs.set id { u with state := .empty } {} } } ∧
      ∃ t, exec (.bsetFull h a) s = .next t ∧
        (u.state = .full → t = { s with wv := done }) ∧
        (u.state = .empty → t = { s with wv := done, bk := { s.bk with
            bufs := s.bk.bufs.set id { u with state := .full, bytes := 0, awaited := [] } {}, present := t.bk.present } } ∧
          ∀ l, t.bk.present.get l false =
            if u.offset / 192 ≤ l ∧ l < (u.offset + u.size - 1) / 192 + 1 then true else s.bk.present.get l false)) ∧
    (∀ d : BitVec 6, s.cur.lanes = s.pre.live → u.decl = true →
      exec (.bstat h d a) s = .next { s.scalarWritten d (BitVec.ofNat 64 (u.state.code + u.flags % 2 * 2 ^ 2 +
        u.flags / 4 % 2 * 2 ^ 3 + u.heldN % 2 ^ 10 * 2 ^ 12 + u.outs % 2 ^ 10 * 2 ^ 22 + u.bytes % 2 ^ 32 * 2 ^ 32)) with
        observed := if u.state = .full then (s.acquireHere s.pre.live 0).observed else s.observed }) ∧
    (∀ L ls, s.cur.lanes = s.pre.live → lanesOf s.pre.live = L :: ls → s.wv.skidding = false → s.cur.chained = false →
      (u.decl = false ∨ u.state = .filling ∨ u.state = .draining ∨ u.heldN ≠ 0 →
        ∀ i ∈ [Instr.bsetEmpty h a, .bsetFull h a],
          ∃ t, exec i s = .next t ∧ t.bk.bufs = s.bk.bufs ∧ Claims.raised s .bufState false L (bufBad id 0) t) ∧
      (u.decl = true → (u.state ≠ .empty ∨ u.heldN ≠ 0) → ∀ b : BitVec 6,
        ∃ t, exec (.bdecl h a b) s = .next t ∧ t.bk.bufs = s.bk.bufs ∧ Claims.raised s .bufState false L (bufBad id 0) t) ∧
      (u.decl = false → ∀ d : BitVec 6,
        ∃ t, exec (.bstat h d a) s = .next t ∧ t.wv.sregs = s.wv.sregs ∧ Claims.raised s .bufState false L (bufBad id 0) t)) ∧
    (s.guardKnown h = true → s.cur.held &&& s.cur.lanes = s.cur.held → u.decl = true →
      (u.heldN = 0 → (u.state = .empty ∨ u.state = .full) →
        ∃ p, exec (.bwaitDrained h a) s = .next (s.retired { s.wv with parked := p } (countLanes s.cur.lanes)) ∧
          Claims.unparked s (s.performers h) p) ∧
      (u.state = .full → (∀ L ∈ lanesOf (s.performers h), s.parkFault L id 0 = none) →
        ∃ p, exec (.bwaitFull h a) s = .next
            { s.retired { s.wv with parked := p } (countLanes s.cur.lanes) with observed := (s.acquireHere (s.performers h) 0).observed } ∧
          Claims.unparked s (s.performers h) p))

/-! ### Order, barriers, semaphores, transactions, work lists (06, 10) -/

/-- R137, R138, R140, R141, R157: `fence.rel` puts every write that a performing thread made or saw, and that the scope covers, among what its later writes wait
for, at the scope's level; `fence.acq` drops the copies that could be older than what is performed at the scope and counts what is performed there
as seen; `fence.full` does both once everything before it is performed. `ifb` empties the quarter's instruction cache. In a transaction
they do nothing. -/
def Obligations.FenceResult : Prop :=
  ∀ (h : Hdr) (g : BitVec 3) (s : State),
    let m := s.performers h
    let done := { s.wv with wclk := s.clockAfter (countLanes s.cur.lanes) }
    s.guardKnown h = true →
    ((∀ L ∈ lanesOf m, s.wv.txOf L = none ∧ s.wv.atomicPending L = false) → s.unanswered = false → (s.writes.map (·.id)).Nodup →
      (∃ t, exec (.fenceRel h g) s = .next t ∧ t = { s with wv := done, observed := t.observed } ∧ Claims.releases s m g.toNat t) ∧
      (∃ t, exec (.fenceAcq h g) s = .next t ∧ t = { s with wv := done, stale := t.stale, observed := t.observed } ∧ Claims.acquires s m g.toNat t) ∧
      ((∀ L ∈ lanesOf m, s.releasedLane L g.toNat = true) →
        ∃ t, exec (.fenceFull h g) s = .next t ∧ t = { s with wv := done, stale := t.stale, observed := t.observed } ∧
          Claims.releases s m g.toNat t ∧ Claims.acquires s m g.toNat t)) ∧
    ((∀ L ∈ lanesOf m, (s.wv.txOf L).isSome = true) →
      ∀ i ∈ [Instr.fenceRel h g, .fenceAcq h g, .fenceFull h g, .ifb h], exec i s = .next { s with wv := done }) ∧
    ((∃ L ∈ lanesOf m, s.wv.txOf L = none) →
      exec (.ifb h) s = .next { s with wv := done, icache := s.icache.filter fun c =>
        !(c.die == s.bk.die && c.tile == s.bk.tile && c.quarter == s.pre.quarter) })

/-- R240 to R242, for the block's own barrier (handle 0) outside a DET launch: an arrival is a release at `core` scope by every live thread, waits, and counts
in `wclk`; the last arrival starts the next phase and releases every wave that waits; a released `bar` completes, with an acquire at `core` scope. `bar.arv` arrives and goes on; `bar.wt` completes with nothing outstanding, or
once its phase is over. -/
def Obligations.BarrierResult : Prop :=
  ∀ (h : Hdr) (a : BitVec 6) (s : State),
    let counted := s.clockAfter (countLanes s.pre.live)
    let open_ := ((List.range s.bk.waves.length).filter (fun i => !(s.wave s.cur.uid i).ended)).length
    let p := s.bk.barPhase
    s.cur.lanes = s.pre.live → s.pre.sreg a = 0 → s.unanswered = false → s.curLaunch.rcd.det = false → (s.writes.map (·.id)).Nodup →
    (s.wv.arv.get 0 0 = 0 → s.wv.waiting = .none → s.mayArrive 0 = true →
      (s.bk.barArrived.length + 1 < open_ →
        (∃ t, exec (.bar h a) s = .next t ∧ Claims.releases s s.pre.live 0 t ∧ (∀ L, t.wv.pcOf L = if laneIn s.pre.live L then s.cur.pc else s.wv.pcOf L) ∧
          t = { s with
            wv := { s.wv with waiting := .barrier 0 p, wclk := counted, pc := t.wv.pc }
            bk := { s.bk with barArrived := s.bk.barArrived ++ [s.cur.wid] }
            observed := t.observed, cur := { s.cur with held := s.cur.held ||| s.cur.lanes, acted := true } }) ∧
        (∃ t, exec (.barArv h a) s = .next t ∧ Claims.releases s s.pre.live 0 t ∧
          t = { s with
            wv := { s.wv with arv := s.wv.arv.set 0 (p + 1) 0, wclk := counted }
            bk := { s.bk with barArrived := s.bk.barArrived ++ [s.cur.wid] }, observed := t.observed })) ∧
      (open_ ≤ s.bk.barArrived.length + 1 → s.cur.wid < s.bk.waves.length →
        ∃ t, exec (.bar h a) s = .next t ∧ t.wv.waiting = .released 0 ∧ t.wv.wclk = counted ∧ Claims.releases s s.pre.live 0 t ∧
          t.bk.barPhase = (p + 1) % 2 ^ 32 ∧ t.bk.barArrived = [] ∧ t.mem = s.mem ∧ t.writes = s.writes ∧ t.wv.v = s.wv.v ∧
          ∀ i < s.bk.waves.length, i ≠ s.cur.wid →
            t.bk.waves[i]? = (s.bk.waves[i]?).map fun w =>
              if w.waiting = .barrier 0 p then { w with waiting := .released 0 } else w)) ∧
    (s.wv.arv.get 0 0 = 0 → s.wv.waiting = .released 0 →
      ∃ t, exec (.bar h a) s = .next t ∧ Claims.acquires s s.pre.live 0 t ∧
        t = { s with wv := { s.wv with waiting := .none }, stale := t.stale, observed := t.observed }) ∧
    (s.wv.arv.get 0 0 = 0 →
      ∃ t, exec (.barWt h a) s = .next t ∧ Claims.acquires s s.pre.live 0 t ∧
        t = { s with wv := { s.wv with waiting := .none, wclk := counted }, stale := t.stale, observed := t.observed }) ∧
    (∀ q, s.wv.arv.get 0 0 = q + 1 → p ≠ q →
      ∃ t, exec (.barWt h a) s = .next t ∧ Claims.acquires s s.pre.live 0 t ∧
        t = { s with
          wv := { s.wv with arv := s.wv.arv.set 0 0 0, waiting := .none, wclk := counted }
          stale := t.stale, observed := t.observed }) ∧
    (∀ q, s.wv.arv.get 0 0 = q + 1 → p = q → s.wv.waiting ≠ .released 0 →
      ∃ t, exec (.barWt h a) s = .next t ∧ t.wv.waiting = .barrier 0 q ∧ t.wv.wclk = s.wv.wclk ∧
        (∀ L, laneIn s.pre.live L = true → t.wv.pcOf L = s.cur.pc) ∧ t.mem = s.mem ∧ t.bk = s.bk)

/-- R243, R244, R326: `sem.sig` releases at `pkg` scope for every live thread and adds its count, at most to 2^32 - 1, and a first wait that the sum covers is granted; `sem.wait` of 0, or one that has been
granted, completes; another joins the waits, and is granted at once where none waits and the value covers it. Its completion is an acquire
at `pkg` scope, or `sys` for an EXTERNAL semaphore. `tlwait` completes once the timeline has come to its number, with an acquire at its scope. -/
def Obligations.SemaphoreAndTimelineResult : Prop :=
  ∀ (h : Hdr) (a b : BitVec 6) (s : State),
    let n := (s.pre.sreg b).toNat
    let done := { s.wv with wclk := s.clockAfter (countLanes s.pre.live) }
    (∀ (k : Nat) (ext : Bool), s.cur.lanes = s.pre.live → s.semNamed a 61 = some (k, ext) → n < 2 ^ 32 →
      (∀ L ∈ lanesOf s.pre.live, s.releasedLane L 3 = true) → s.unanswered = false → (s.sem k).value + n < 2 ^ 32 →
      (s.writes.map (·.id)).Nodup →
      ((s.sem k).waits = [] →
        ∃ t, exec (.semSig h a b) s = .next t ∧ Claims.releases s s.pre.live 3 t ∧
          t = { s with wv := done, sems := s.sems.set k { value := (s.sem k).value + n, waits := [] } {}, observed := t.observed }) ∧
      (∀ u w c e x, (s.sem k).waits = [(u, w, c)] → c ≤ (s.sem k).value + n → ¬ (u = s.cur.uid ∧ w = s.cur.wid) →
        (s.wave u w).waiting = .semaphore k c x e → (s.wave u w).stopped = false → w < (s.block u).waves.length →
        ∃ t, exec (.semSig h a b) s = .next t ∧ Claims.releases s s.pre.live 3 t ∧ t.wv = done ∧ t.mem = s.mem ∧
          t.sem k = { value := (s.sem k).value + n - c, waits := [] } ∧ (t.wave u w).waiting = .semaphore k c true e)) ∧
    (∀ (k : Nat) (ext : Bool), s.cur.lanes = s.pre.live → s.semNamed a 60 = some (k, ext) → n < 2 ^ 32 →
      (s.wv.waiting = .semaphore k n true ext ∨ (n = 0 ∧ s.wv.waiting = .none) →
        ∃ t, exec (.semWait h a b) s = .next t ∧ (s.cur.on = true → Claims.acquires s s.pre.live (if ext then 5 else 3) t) ∧
          t = { s with wv := { done with waiting := .none }, stale := t.stale, observed := t.observed }) ∧
      (s.wv.waiting = .none → n ≠ 0 → s.cur.on = true → s.wv.stopped = false → (s.sem k).waits = [] →
        ∃ t, exec (.semWait h a b) s = .next t ∧ t.cur = { s.cur with held := s.cur.held ||| s.cur.lanes, acted := true } ∧
          t.bk = s.bk ∧ t.mem = s.mem ∧ t.wv.wclk = s.wv.wclk ∧ t.wv.waiting = .semaphore k n (decide (n ≤ (s.sem k).value)) ext ∧
          t.sem k = if n ≤ (s.sem k).value then { value := (s.sem k).value - n, waits := [] }
            else { value := (s.sem k).value, waits := [(s.cur.uid, s.cur.wid, n)] })) ∧
    (∀ g : BitVec 3, s.guardKnown h = true → (s.engEntry s.bk.ctxn (field (s.pre.sreg a) 15 0)).isSome = true →
      n ≤ (s.engAt s.bk.ctxn (field (s.pre.sreg a) 15 0)).timeline →
      ∃ t, exec (.tlwait h g a b) s = .next t ∧ (s.cur.on = true → Claims.acquires s (s.performers h) g.toNat t) ∧
        t = { s with wv := { s.wv with wclk := s.clockAfter (countLanes s.cur.lanes) }, stale := t.stale, observed := t.observed })

namespace Sys2Proof.Claims

/-- The transaction of every lane of `m` has aborted with a cause, its threads stand at the resume points (R148, R247). -/
def aborted (s : State) (m : Lanes) (cause : Nat) (t : State) : Prop :=
  ∀ L ∈ lanesOf m, ∀ x, s.wv.txOf L = some x →
    t.wv.txOf L = none ∧ t.wv.pcOf L = x.resumePc ∧ t.wv.tstatOf L = BitVec.ofNat 32 (cause * 16 + 8)

/-- Loads, stores, atomics and reductions inside transactions (R147, R148, R248): a load joins its sector to the read set and takes a slot, a store joins
its sector to the write set and keeps its bytes there, and no write begins; the 17th sector read or the 9th written aborts with CAPACITY, an
atomic or a reduction with ATOMIC. Order fields have no effect. -/
def InTransaction (h : Hdr) (s : State) : Prop :=
  let m := s.performers h
  let counted := s.clockAfter (countLanes s.cur.lanes)
  let joined := fun (pa : Nat) (l : List Nat) => if l.contains (sectorOf pa) then l else l ++ [sectorOf pa]
  ∀ (d base idx : BitVec 6) (r : BitVec 2) (g : BitVec 3) (x : Nat → Xlat) (tx : Nat → Tx),
    (∀ L ∈ lanesOf m, s.wv.txOf L = some (tx L) ∧ s.wv.atomicPending L = false) → s.unanswered = false →
    let reached := fun (k : AccKind) (width : Nat) => ∀ L ∈ lanesOf m,
      s.access s.who k (s.ea h base idx L) width = .ok (x L) ∧ (x L).maint = false ∧ isHbm (x L).pa = true ∧
      s.bpData L k.needsR k.needsW (s.ea h base idx L) width = none ∧
      (leafFmt (x L).leaf = 6 → q4Reserved (leafGeo (x L).leaf) (unitOff (s.ea h base idx L)) = false)
    (∀ e ∈ Claims.loads, s.ready h [s.pre.op d e.2.2.2.1] [s.pre.op idx 1] [] = true → s.wv.freeSlot.isSome = true →
      reached (if e.2.1 = 7 then .rawLoad else .load) e.2.2.1 →
      ((∀ L ∈ lanesOf m, sectorOf (x L).pa ∈ (tx L).reads ∨ (tx L).reads.length < 16) →
        ∃ t u, exec (e.1 h d base idx r g) s = .next t ∧ t = { s with wv := { u with tx := t.wv.tx, wclk := counted } } ∧
          s.wv.SlotTaken m .load (s.pre.op d e.2.2.2.1) ((lanesOf m).map fun L =>
            { lane := L, va := s.ea h base idx L, pa := (x L).pa, width := e.2.2.1, aux := e.2.1, scope := g.toNat, tx := true }) u ∧
          ∀ L ∈ lanesOf m, ∃ y, t.wv.txOf L = some y ∧
            y = { tx L with reads := joined (x L).pa (tx L).reads, grans := y.grans }) ∧
      ((∀ L ∈ lanesOf m, sectorOf (x L).pa ∉ (tx L).reads ∧ 16 ≤ (tx L).reads.length) →
        ∃ t, exec (e.1 h d base idx r g) s = .next t ∧ t.mem = s.mem ∧ t.writes = s.writes ∧ Claims.aborted s m 3 t)) ∧
    (∀ e ∈ Claims.stores, s.ready h [] [s.pre.op idx 1, s.pre.op d e.2.2.2] [] = true → reached e.2.1 e.2.2.1 →
      ((∀ L ∈ lanesOf m, sectorOf (x L).pa ∈ (tx L).writes ∨ (tx L).writes.length < 8) →
        ∃ t, exec (e.1 h d base idx r g) s = .next t ∧ t = { s with wv := { s.wv with tx := t.wv.tx, wclk := counted } } ∧
          ∀ L ∈ lanesOf m, ∃ y, t.wv.txOf L = some y ∧
            y = { tx L with writes := joined (x L).pa (tx L).writes, data := y.data, grans := y.grans } ∧
            ∀ p b, (p, b) ∈ y.data ↔ ((p, b) ∈ (tx L).data ∧ (p < (x L).pa ∨ (x L).pa + e.2.2.1 ≤ p)) ∨
              ∃ k < e.2.2.1, p = (x L).pa + k ∧ b = BitVec.ofNat 8 (Claims.spanValue s.pre (s.pre.vnum d) L e.2.2.2 / 256 ^ k)) ∧
      ((∀ L ∈ lanesOf m, sectorOf (x L).pa ∉ (tx L).writes ∧ 8 ≤ (tx L).writes.length) →
        ∃ t, exec (e.1 h d base idx r g) s = .next t ∧ t.mem = s.mem ∧ t.writes = s.writes ∧ Claims.aborted s m 3 t)) ∧
    (∀ e ∈ Claims.atomics, s.ready h [s.pre.op d e.2.2.2.1] [s.pre.op idx 1, s.pre.op d e.2.2.2.1] [] = true → s.wv.freeSlot.isSome = true →
      ∃ t, exec (e.1 h d base idx g) s = .next t ∧ t.mem = s.mem ∧ t.writes = s.writes ∧ t.ucopies = s.ucopies ∧ Claims.aborted s m 6 t) ∧
    (∀ e ∈ Claims.memoryReductions, s.ready h [] [s.pre.op idx 1, s.pre.op d e.2.2.2.1] [] = true →
      ∃ t, exec (e.1 h d base idx g) s = .next t ∧ t.mem = s.mem ∧ t.writes = s.writes ∧ t.ucopies = s.ucopies ∧ Claims.aborted s m 6 t)

end Sys2Proof.Claims

/-- R73, R147 to R149, R245 to R248: `txb` raises DEPTH, sets ACTIVE and its predicate, and at DEPTH 0 opens the transaction with its resume point, predicate and
call-stack depth; `txe` above DEPTH 1 lowers it, at DEPTH 0 it does nothing, at DEPTH 1 it begins validation and stays, while of several lanes that commit
together each that a lower one's write set meets aborts with CONFLICT_LANE; `txb` at DEPTH 255 aborts with CAPACITY; `txa` aborts with EXPLICIT and its user
code. Loads, stores and atomics inside a transaction are as `Claims.InTransaction`. What aborting threads add to `wclk` is the model's choice (log
entry 115). -/
def Obligations.TransactionResult : Prop :=
  ∀ (h : Hdr) (s : State), s.guardKnown h = true →
    let m := s.performers h
    let depth := fun L => tsDepth (s.wv.tstatOf L)
    let counted := s.clockAfter (countLanes s.cur.lanes)
    (∀ d : BitVec 3, predsKnown s.pre m [d] = true → (∀ L ∈ lanesOf m, depth L < 255) →
      ∃ t, exec (.txb h d) s = .next t ∧
        t = { s with wv := { s.wv with
          tstat := t.wv.tstat, tx := t.wv.tx, wclk := counted
          preds := if d = 7 then s.wv.preds else s.wv.preds.set d.toNat (s.wv.pred d ||| m) 0 } } ∧
        ∀ L, if laneIn m L = true then
            tsActive (t.wv.tstatOf L) = true ∧ tsDepth (t.wv.tstatOf L) = depth L + 1 ∧
            t.wv.txOf L = if depth L = 0 then some ⟨s.cur.next, d.toNat, (s.wv.stack.get L []).length, [], [], [], [], false, []⟩ else s.wv.txOf L
          else t.wv.tstatOf L = s.wv.tstatOf L ∧ t.wv.txOf L = s.wv.txOf L) ∧
    ((∀ L ∈ lanesOf m, depth L ≠ 1) →
      ∃ t, exec (.txe h) s = .next t ∧ t = { s with wv := { s.wv with tstat := t.wv.tstat, wclk := counted } } ∧
        ∀ L, if laneIn m L = true ∧ 2 ≤ depth L then tsActive (t.wv.tstatOf L) = true ∧ tsDepth (t.wv.tstatOf L) = depth L - 1
          else t.wv.tstatOf L = s.wv.tstatOf L) ∧
    (∀ (L : Nat) (x : Tx), m = BitVec.ofNat 48 (2 ^ L) → L < 48 → s.cur.lanes = m → depth L = 1 → s.wv.txOf L = some x → x.validating = false →
      s.tokenCheck = none → s.unanswered = false → s.wv.stopped = false →
      ∃ t, exec (.txe h) s = .next t ∧ t.wv.txOf L = some { x with validating := true } ∧ t.wv.pcOf L = s.cur.pc ∧
        t.wv.tstat = s.wv.tstat ∧ t.wv.wclk = s.wv.wclk ∧ t.mem = s.mem ∧ t.writes = s.writes ∧
        t.cur = { s.cur with held := s.cur.held ||| m, acted := true }) ∧
    ((∀ L ∈ lanesOf m, depth L = 1 ∧ ∃ x, s.wv.txOf L = some x ∧ x.validating = false) → s.cur.lanes = m → s.tokenCheck = none →
      s.unanswered = false → s.wv.stopped = false →
      ∃ t, exec (.txe h) s = .next t ∧ t.wv.wclk = s.wv.wclk ∧ t.mem = s.mem ∧ t.writes = s.writes ∧
        ∀ L ∈ lanesOf m, ∀ x, s.wv.txOf L = some x →
          ((∀ K ∈ lanesOf m, K < L → ∀ y, s.wv.txOf K = some y → ∀ z ∈ y.writes, z ∉ x.reads ∧ z ∉ x.writes) →
            t.wv.txOf L = some { x with validating := true } ∧ t.wv.pcOf L = s.cur.pc ∧ t.wv.tstatOf L = s.wv.tstatOf L) ∧
          (∀ K ∈ lanesOf m, K < L → ∀ y, s.wv.txOf K = some y → ∀ z ∈ y.writes, (z ∈ x.reads ∨ z ∈ x.writes) →
            t.wv.txOf L = none ∧ t.wv.pcOf L = x.resumePc ∧ t.wv.tstatOf L = BitVec.ofNat 32 (2 * 16 + 8))) ∧
    (∀ d : BitVec 3, predsKnown s.pre m [d] = true → (∀ L ∈ lanesOf m, depth L = 255) →
      ∃ t, exec (.txb h d) s = .next t ∧ t.wv.wclk = counted ∧ t.mem = s.mem ∧ t.writes = s.writes ∧ Claims.aborted s m 3 t) ∧
    Claims.InTransaction h s ∧
    (∀ a : BitVec 6, s.wv.skidding = false →
      ∃ t, exec (.txa h a) s = .next t ∧ t.mem = s.mem ∧ t.writes = s.writes ∧ t.bk = s.bk ∧ t.wv.v = s.wv.v ∧ t.wv.wclk = counted ∧
        ∀ L, (∀ x, s.wv.txOf L = some x → laneIn m L = true →
            t.wv.txOf L = none ∧ t.wv.pcOf L = x.resumePc ∧ t.wv.tstatOf L = BitVec.ofNat 32 (field (s.pre.sreg a) 7 0 * 2 ^ 24 + 7 * 16 + 8) ∧
            t.wv.stack.get L [] = (s.wv.stack.get L []).take x.depth ∧ (BitVec.ofNat 3 x.pred ≠ 7 → laneIn (t.wv.pred (BitVec.ofNat 3 x.pred)) L = false)) ∧
          ((s.wv.txOf L = none ∨ laneIn m L = false) → t.wv.txOf L = s.wv.txOf L ∧ t.wv.pcOf L = s.wv.pcOf L ∧
            t.wv.tstatOf L = s.wv.tstatOf L ∧ t.wv.stack.get L [] = s.wv.stack.get L []))

/-- R46, R249 to R251: `wlput` makes its release at `die`, sends its items in lane order and takes a slot for its predicate; `wlget` takes a slot, makes the wave a registered worker and, in a
launch that is not quiet, enters its requests, each answered by the next item of the core's list if there is one; in a quiet launch it is answered
QUIET. `amrecv` takes a slot whose lanes wait for the inbox, each answered by the next message.
The slots are the lowest free ones (log entry 109). -/
def Obligations.WorkListAndInboxResult : Prop :=
  ∀ (h : Hdr) (s : State) (i : Nat), s.wv.freeSlot = some i → s.performers h ≠ 0 → s.unanswered = false →
    let m := s.performers h
    let l := s.curLaunch
    let counted := s.clockAfter (countLanes s.cur.lanes)
    let key := s.inboxHere
    (∀ (d : BitVec 3) (a b : BitVec 6) (x y : Bool), s.ready h [] [s.pre.op a 2 x, s.pre.op b 1 y] [d] = true →
      s.areaCheck = none → s.tokenCheck = none →
      (∀ L ∈ lanesOf m, (s.pre.src b L).toNat < (s.tilesOf s.bk.die s.bk.pid).length) →
      ∃ t, exec (.wlput h d a b x y) s = .next t ∧
        t = { s with
          wv := { s.wv with slots := t.wv.slots, slotSeq := s.wv.slotSeq + 1, wclk := counted }
          launches := t.launches, observed := t.observed } ∧
        ((s.writes.map (·.id)).Nodup → Claims.releases s m 2 t) ∧
        t.wv.slot i = { kind := .wlput, reg := d.toNat, lanes := m, ord := s.wv.slotSeq } ∧ (∀ j, j ≠ i → t.wv.slot j = s.wv.slot j) ∧
        t.curLaunch = { l with ownsArea := true, inFlight := l.inFlight ++ (lanesOf m).map fun L =>
          ⟨s.cur.uid, s.cur.wid, i, L, (s.pre.src b L).toNat, s.pre.vreg (s.pre.vnum a + 1) L ++ s.pre.src a L⟩ }) ∧
    (∀ d : BitVec 6, s.ready h [s.pre.op d 3] [] [] = true → s.areaCheck = none → s.tokenCheck = none →
      l.lists.get (s.vcidAt s.bk.die s.bk.tile s.bk.pid) [] = [] →
      ∃ t u, exec (.wlget h d) s = .next t ∧
        s.wv.SlotTaken m .wlget (s.pre.op d 3) ((lanesOf m).map fun L => { lane := L, val := if l.quiet then some [0, 0, 1] else none }) u ∧
        t = { s with
          wv := { u with worker := true, wclk := counted, wlgetOut := if l.quiet then u.wlgetOut else u.wlgetOut ||| m }
          launches := t.launches } ∧
        t.curLaunch = { l with
          ownsArea := true, workers := if (s.cur.uid, s.cur.wid) ∈ l.workers then l.workers else l.workers ++ [(s.cur.uid, s.cur.wid)]
          getters := if l.quiet then l.getters else l.getters ++ (lanesOf m).map fun L =>
            ⟨s.cur.uid, s.cur.wid, i, L, s.vcidAt s.bk.die s.bk.tile s.bk.pid⟩ }) ∧
    (∀ (d a : BitVec 6), s.ready h [s.pre.op d 3] [] [] = true → s.capHere a ≠ 0 → s.inbox (key a) = [] →
      ∃ u, s.wv.SlotTaken m .amrecv (s.pre.op d 3) ((lanesOf m).map fun L => { lane := L }) u ∧
        exec (.amrecv h d a) s = .next { s with
          wv := { u with wclk := counted }, amWaits := s.amWaits ++ (lanesOf m).map fun L => ⟨key a, s.cur.uid, s.cur.wid, i, L⟩ }) ∧
    (∀ (d a : BitVec 6) (L : Nat) (x : Msg) (r : List Msg), s.ready h [s.pre.op d 3] [] [] = true → s.capHere a ≠ 0 →
      m = BitVec.ofNat 48 (2 ^ L) → L < 48 → s.inbox (key a) = x :: r → (∀ w ∈ s.amWaits, w.key ≠ key a) →
      ∃ t, exec (.amrecv h d a) s = .next t ∧ t.inbox (key a) = r ∧ t.amWaits = s.amWaits ∧ t.mem = s.mem ∧ t.wv.wclk = counted ∧
        (t.wv.slot i).reqs = [{ lane := L, val := some [x.w0, x.w1, x.from_] }])

/-! ### The matrix unit (11) -/

namespace Sys2Proof.Claims

/-- The constructor of a register multiply. -/
abbrev Mma := Hdr → BitVec 3 → BitVec 6 → BitVec 6 → Bool → Bool → Instr

/-- R256 to R259: the register multiplies: the formats of A and B, the registers of an operand, the bits of an element, the elements of a lane. -/
def multiplies : List (Mma × Nat × Nat × Nat × Nat × Nat) := [
  (.mmaBf, 1, 1, 4, 16, 8), (.mmaH, 2, 2, 4, 16, 8), (.mmaE4, 3, 3, 4, 8, 16), (.mmaE5, 4, 4, 4, 8, 16),
  (.mmaE4e5, 3, 4, 4, 8, 16), (.mmaQ4, 6, 6, 5, 4, 32), (.mmaI8, 5, 5, 4, 8, 16)]

/-- Element `n` of the row of A, or the column of B, that a lane holds: its `b` bits; a Q4 element with its row and column scale bytes, from the
fifth register, above its code. -/
def mmaElement (w : Wave) (r L fmt b n : Nat) : W32 :=
  BitVec.ofNat 32 (spanValue w r L 4 / 2 ^ (b * n) % 2 ^ b + (if fmt = 6 then (w.vreg (r + 4) L).toNat % 2 ^ 16 * 2 ^ 8 else 0))

/-- May an engine or the matrix unit read `n` bytes of a buffer now (R121, R126)? -/
def engReadable (b : Block) (id off n align_ : Nat) : Prop :=
  (b.buf id).decl = true ∧ off + n ≤ (b.buf id).size ∧ off % align_ = 0 ∧
    ((b.buf id).state = .full ∨ (b.buf id).state = .draining ∨
      ((b.buf id).state = .filling ∧ b.rangeIn (b.buf id) off n = true))

/-- The machine with one more operation in the queue of the issuing wave's quarter, the live threads counted. -/
def queued (s : State) (w : Wave) (tile : BitVec 3) (op : MOp) (pins : List TlbE) : State :=
  { s with
    mqueue := s.mqueue.set s.myQueue (s.mq s.myQueue ++
      [{ uid := s.cur.uid, wid := s.cur.wid, tile := tile.toNat, op := op, pins := pins }]) []
    wv := { w with wclk := s.clockAfter (countLanes s.pre.live) } }

end Sys2Proof.Claims

/-- R255 to R264: with a free entry in its quarter's queue, a register multiply, `mzero`, `mld` and both forms of `mst` take one, with what they read at issue; `mst`
to registers also takes a slot for its 48 registers, `mst` to a buffer holds it. `mwait` completes when its tile is not busy and its stores are
written, with an acquire at `core` scope. Nothing else of the machine changes.
The slot of a store to registers is the lowest free one (log entry 109). -/
def Obligations.MatrixIssue : Prop :=
  ∀ (h : Hdr) (s : State), s.cur.lanes = s.pre.live →
    (s.mqRoom = true →
      (∀ e ∈ Claims.multiplies, ∀ (d : BitVec 3) (a b : BitVec 6) (x y : Bool),
        let A := s.pre.op a e.2.2.2.1 x
        let B := s.pre.op b e.2.2.2.1 y
        let rows := fun (o : VOp) (fmt : Nat) => (List.range 48).map fun L =>
          (List.range e.2.2.2.2.2).map (Claims.mmaElement s.pre o.reg L fmt e.2.2.2.2.1)
        d.toNat < s.pre.accN → inBounds s.pre [A, B] = true →
        (∀ L < 48, A.full s.pre L = true ∧ B.full s.pre L = true) →
        exec (e.1 h d a b x y) s = .next
          (Claims.queued s s.wv d (.steps false e.2.1 e.2.2.1 [(rows A e.2.1, rows B e.2.2.1)]) [])) ∧
      (∀ d : BitVec 3, d.toNat < s.pre.accN → exec (.mzero h d) s = .next (Claims.queued s s.wv d .zero [])) ∧
      (∀ (d : BitVec 3) (a b : BitVec 6),
        let id := field (s.pre.sreg a) 37 32
        let off := field (s.pre.sreg a) 31 0
        let t := (s.pre.sreg b).toNat
        d.toNat < s.pre.accN → t % 4 = 0 → t ≤ 2 ^ 31 → Claims.engReadable s.bk id off (47 * t + 192) 4 → (s.bk.buf id).fmt = 0 →
        (∀ i < 48, s.bk.bufMarked id (off + i * t) 192 = false) →
        exec (.mld h d a b) s = .next (Claims.queued s s.wv d (.load ((List.range 48).map fun i => (List.range 48).map fun j =>
          BitVec.ofNat 32 (leNat (s.bk.bufBytes id (off + i * t + 4 * j) 4)))) [])) ∧
      (∀ (d : BitVec 6) (a : BitVec 3) (i : Nat),
        a.toNat < s.pre.accN → inBounds s.pre [s.pre.op d 48] = true → s.wv.freeSlot = some i →
        (∀ L ∈ lanesOf s.pre.live, (s.pre.op d 48).free s.pre L = true) →
        ∃ u, s.wv.SlotTaken s.pre.live .mst (s.pre.op d 48) ((lanesOf s.pre.live).map fun L => { lane := L, aux := a.toNat }) u ∧
          exec (.mstReg h d a) s = .next (Claims.queued s u a (.storeReg i) [])) ∧
      (∀ (d : BitVec 6) (a : BitVec 3) (b : BitVec 6),
        let id := field (s.pre.sreg d) 37 32
        let off := field (s.pre.sreg d) 31 0
        let t := field (s.pre.sreg b) 31 0
        let ty := field (s.pre.sreg b) 35 32
        let u := s.bk.buf id
        a.toNat < s.pre.accN → field (s.pre.sreg b) 63 37 = 0 → ty ∈ [1, 2, 3, 4, 8] → t % elemSize ty = 0 → off % elemSize ty = 0 →
        u.decl = true → off + (47 * t + 48 * elemSize ty) ≤ u.size → (u.state = .empty ∨ u.state = .full) →
        (u.fmt = 0 ∨ (u.fmt ≤ 4 ∧ u.fmt = ty)) →
        exec (.mstBuf h d a b) s = .next (Claims.queued
          { s with bk := { s.bk with bufs := s.bk.bufs.set id { u with heldN := u.heldN + 1 } {} } }
          s.wv a (.storeBuf id off t ty ((s.pre.sreg b).getLsbD 36)) []))) ∧
    (∀ a : BitVec 3, a.toNat < s.pre.accN →
      (∀ e ∈ s.mq s.myQueue, e.uid = s.cur.uid → e.wid = s.cur.wid → e.tile ≠ a.toNat) →
      (∀ e ∈ (s.wave s.cur.uid s.cur.wid).slots, e.2.kind = .mst → ∀ q ∈ e.2.reqs, q.aux ≠ a.toNat) →
      ∃ t, exec (.mwait h a) s = .next t ∧ (s.cur.on = true → Claims.acquires s s.pre.live 0 t) ∧
        t = { s with wv := { s.wv with wclk := s.clockAfter (countLanes s.pre.live) }, stale := t.stale, observed := t.observed })

namespace Sys2Proof.Claims

/-- The word of an element of a streamed operand, as the issuing wave's lowest live thread sees it: a constant, the bytes of its place, or a Q4 code with
its two scale bytes. -/
def streamElement (s : State) (o : MSrc) (e : MElem) : W32 :=
  let word := fun (p : Nat × Nat) =>
    if o.isBuf then leNat (s.bk.bufBytes o.id p.1 p.2)
    else
      match s.access s.who .engRead p.1 p.2 with
      | .ok x => leNat (s.peekMem (s.view ((lanesOf s.pre.live).headD 0)) x.pa p.2)
      | _ => 0
  match e, s.elemPlaces o e with
  | .const x, _ => x
  | .mem _, some [p] => BitVec.ofNat 32 (word p)
  | .q4 _ _ col, some [c, r, k] => q4Word (word r) (word k) (if col % 2 = 0 then word c % 16 else word c / 16)
  | _, _ => 0

/-- R265, R268: a streamed multiply at which no start phase of its wave stands, and whose checks pass, enters its start phase and waits: `shape` is the
record it read, `form` what it does by it. Once that phase has ended, with a free entry and no store of its own wave unperformed before a read of global
memory, it issues with the elements of its steps, read through the pages that the phase has pinned, and its start phase is over. -/
def Streams (i : Instr) (s : State) (d : BitVec 3) (zero : Bool) (shape : List Byte) (form : List Byte → StreamForm) : Prop :=
  let mine := fun (p : StartPhase) => p.uid == s.cur.uid && p.wid == s.cur.wid
  let rest := s.starts.filter (fun p => !mine p)
  (let f := form shape
    let A := s.withFmt f.a f.fa
    let B := s.withFmt f.b f.fb
    let pins := s.streamPins f.b [.mem 0] (s.streamPins f.a [.mem 0] [])
    (∀ p ∈ s.starts, mine p = false) → s.baseCheck f.a = none → s.baseCheck f.b = none →
    (∀ x ∈ f.checks (s.withPins pins) A B, x = none) →
    ∃ t p, exec i s = .next t ∧ p.uid = s.cur.uid ∧ p.wid = s.cur.wid ∧ p.pc = s.cur.pc ∧ p.shape = shape ∧ p.ops = some (A, B) ∧
      p.checked = true ∧ p.done = false ∧
      (∀ L, t.wv.pcOf L = if laneIn s.cur.lanes L then s.cur.pc else s.wv.pcOf L) ∧
      t = { s with
        wv := { s.wv with pc := t.wv.pc }
        starts := s.starts ++ [p]
        cur := { s.cur with held := s.cur.held ||| s.cur.lanes, acted := true } }) ∧
  (∀ (p : StartPhase) (A B : MSrc), s.starts.find? (fun p => mine p && p.pc == s.cur.pc) = some p → p.checked = true → p.done = true →
    p.ops = some (A, B) → s.mqRoom = true → s.ucopies = [] → (s.ownStores = false ∨ (A.isBuf = true ∧ B.isBuf = true)) →
    let f := form p.shape
    let k := f.ks A
    let sp := s.withPins p.pins
    ∃ t ss, exec i s = .next t ∧
      t = { Claims.queued s s.wv d (.steps zero A.fmt B.fmt ss) p.pins with starts := rest, stale := t.stale, observed := t.observed } ∧
      ss.length = f.steps k ∧ ∀ st < f.steps k, ∀ r < 48, ∀ j < k,
        ((ss.getD st ([], [])).1.getD r []).getD j 0 = Claims.streamElement sp A (f.elemA A k st r j) ∧
        ((ss.getD st ([], [])).2.getD r []).getD j 0 = Claims.streamElement sp B (f.elemB B k st j r))

end Sys2Proof.Claims

/-- R265 to R271: `mloop` reads its operands from the six scalar registers of `a`, `mconv` from the shape record that it read as its start phase
began; with the named formats, the steps, the elements and the checks that their rules give, they issue as `Claims.Streams` says.
What an element in a page of another format meets, and the causes of a Q4 operand's checks, are the model's choice (log entries 111, 124). -/
def Obligations.StreamedMatrixIssue : Prop :=
  ∀ (h : Hdr) (d : BitVec 3) (a b : BitVec 6) (s : State), s.cur.lanes = s.pre.live → d.toNat < s.pre.accN →
    let c := s.pre.sreg b
    (let r := fun (i : Nat) => s.pre.sreg (a + BitVec.ofNat 6 i);
      field c 63 19 = 0 →
      Claims.Streams (.mloop h d a b) s d (c.getLsbD 16) [] fun _ =>
        { a := msrc (c.getLsbD 17) (r 0), b := msrc (c.getLsbD 18) (r 3), fa := field c 11 8, fb := field c 15 12
          ks := fun A => mKs A.fmt, steps := fun _ => field c 7 0 + 1
          elemA := fun A k => mloopElem A (r 1) (r 2) k false, elemB := fun B k => mloopElem B (r 4) (r 5) k true
          fmts := fun _ A B => [need (fmtNamed A.fmt && fmtNamed B.fmt) .access c,
            need (pairOk A.fmt B.fmt) .formatMismatch (A.bad A.base), A.geoCheck, B.geoCheck, A.q4Check (r 2), B.q4Check (r 5)] }) ∧
    (let id := field (s.pre.sreg a) 37 32
      let off := field (s.pre.sreg a) 31 0
      let r : Shape192 := ⟨s.bk.bufBytes id off 192⟩
      field c 63 49 = 0 → Claims.engReadable s.bk id off 192 48 → s.bk.bufMarked id off 192 = false → r.badFields = [] → 1 ≤ r.out true → 1 ≤ r.out false →
      Claims.Streams (.mconv h d a b) s d (c.getLsbD 48) r.bytes fun bs =>
        let r : Shape192 := ⟨bs⟩
        let K := r.at_ 4 4 * r.at_ 0x10 1 * r.at_ 0x11 1
        { a := msrc (r.at_ 0x1E 1 % 2 == 1) (BitVec.ofNat 64 (r.at_ 0x28 8)), b := msrc (r.at_ 0x1E 1 / 2 == 1) (BitVec.ofNat 64 (r.at_ 0x50 8))
          fa := r.at_ 0x1C 1, fb := r.at_ 0x1D 1, ks := fun A => mKs A.fmt, steps := fun k => (K + k - 1) / k
          elemA := fun A ks st i k => padTo A.es (r.input (field c 31 0 + i) (st * ks + k))
          elemB := fun B ks st k j =>
            if st * ks + k ≥ K ∨ field c 47 32 + j ≥ r.at_ 0x24 4 then MElem.const 0
            else .mem (((st * ks + k) * r.at_ 0x58 8 + (field c 47 32 + j) * B.es) % 2 ^ 64)
          fmts := fun _ A B => [r.fmtSrcCheck A (r.at_ 0x1C 1), r.fmtSrcCheck B (r.at_ 0x1D 1),
            need (pairOk A.fmt B.fmt && A.fmt != 6) .formatMismatch (A.bad A.base),
            need (decide ((K + mKs A.fmt - 1) / mKs A.fmt ≤ 256)) .access (bufBad id (off + 4))] })

/-! ### Engine jobs and the fabric (11 to 13) -/

namespace Sys2Proof.Claims

/-- Scalar register `d` takes `x` and the live threads are counted. -/
def answered (s : State) (w : Wave) (d : BitVec 6) (x : W64) : Wave :=
  { w with
    sregs := if d = 0 then w.sregs else w.sregs.set d.toNat x 0
    wclk := s.clockAfter (countLanes s.pre.live) }

/-- R150, R151, R273: context `h` accepts the records `works` as its next jobs: they get the next job numbers, the last of which goes to `d`; `bk` is
the block with its buffers marked, `u` the wave before that write; `more` is what the instruction changes besides. Every live thread releases at the
scope, and the jobs await what that release covers. -/
def Accepts (s : State) (i : Instr) (d : BitVec 6) (h scope : Nat) (works : List (Work × Buf)) (bk : Block) (u : Wave)
    (more : List (Nat × Nat) → State → State) : Prop :=
  let e := s.engAt s.bk.ctxn h
  ∃ t deps, exec i s = .next t ∧ Claims.releases s s.pre.live scope t ∧ Claims.awaits s s.pre.live scope deps ∧
    t = more deps { s with
      wv := answered s u d (BitVec.ofNat 64 (e.issued + works.length))
      bk := bk
      eng := t.eng
      observed := t.observed
      jobs := s.jobs ++ works.zipIdx.map fun w =>
        { ctxn := s.bk.ctxn, handle := h, num := e.issued + w.2 + 1, work := w.1.1, scope := scope, uid := s.cur.uid
          wid := s.cur.wid, pid := s.bk.pid, die := s.bk.die, tile := s.bk.tile, level := s.bk.level
          det := s.curLaunch.rcd.det, dbuf := w.1.2, deps := deps } } ∧
    ∀ k, t.eng.get k {} =
      if k = s.bk.ctxn * 1024 + h then { e with issued := e.issued + works.length } else s.eng.get k {}

/-- An answer of RETRY: nothing is accepted and `d` takes 0; the release is made nevertheless (R150). -/
def Retries (s : State) (i : Instr) (d : BitVec 6) (scope : Nat) : Prop :=
  ∃ t, exec i s = .next t ∧ Claims.releases s s.pre.live scope t ∧ t = { s with wv := answered s s.wv d 0, observed := t.observed }

/-- A control word that names an engine context of a type: reserved bits zero, SCOPE at most 5. -/
def ctlGood (s : State) (c : W64) (t : EngType) : Prop :=
  field c 63 42 = 0 ∧ field c 31 19 = 0 ∧ field c 18 16 ≤ 5 ∧ s.engEntry s.bk.ctxn (field c 15 0) = some t.code

end Sys2Proof.Claims

/-- R273, R277, R279, R303, R374: where the checks pass and the context accepts, `kick` accepts its descriptors in order, each marking its buffers; `vchain`,
`pair` and `tlbinv` accept one job, holding the buffers they will write. A partition that accepts nothing answers 0; the
release at the scope is made in both cases (R150). -/
def Obligations.EngineJobsAccepted : Prop :=
  ∀ (h : Hdr) (d a b : BitVec 6) (s : State), s.cur.lanes = s.pre.live → s.unanswered = false → (s.writes.map (·.id)).Nodup →
    let c := s.pre.sreg b
    let buf := field (s.pre.sreg a) 37 32
    let off := field (s.pre.sreg a) 31 0
    let ctx := field c 15 0
    (let ds := (List.range (field c 41 32)).map fun i => CopyDesc.ofBytes (s.bk.bufBytes buf (off + 48 * i) 48)
      ∀ bk, s.kickCheck a b = none → s.bk.applyDescs ds = .ok bk →
      (s.retries s.bk.pid s.bk.ctxn = false →
        Claims.Accepts s (.kick h d a b) d ctx (field c 18 16)
          (ds.zipIdx.map fun x => (.copy x.1, match s.bk.applyDescs (ds.take (x.2 + 1)) with
            | .ok y => if x.1.dbuf then y.buf (opId x.1.dst) else {}
            | .error _ => {})) bk s.wv (fun _ => id)) ∧
      (s.retries s.bk.pid s.bk.ctxn = true → Claims.Retries s (.kick h d a b) d (field c 18 16))) ∧
    (let bs := s.bk.bufBytes buf off 48
      let x := ChainDesc.ofBytes bs
      Claims.ctlGood s c .chain → field c 41 32 = 0 → Claims.engReadable s.bk buf off 48 48 → s.bk.bufMarked buf off 48 = false → chainBad bs ctx = none →
      s.bk.chainBufs x.copy = none →
      (s.retries s.bk.pid s.bk.ctxn = false →
        Claims.Accepts s (.vchain h d a b) d ctx (field c 18 16) [(.chain x, {})]
          (if x.copy.dbuf then s.bk.holdBuf (opId x.dst) else s.bk) s.wv (fun _ => id)) ∧
      (s.retries s.bk.pid s.bk.ctxn = true → Claims.Retries s (.vchain h d a b) d (field c 18 16))) ∧
    (let bs := s.bk.bufBytes buf off 192
      let r := PairRec.ofBytes bs
      let q := quadOf s.bk.die s.bk.tile
      Claims.ctlGood s c .pair → field c 41 32 = 0 → s.boundQuad s.bk.pid s.bk.ctxn ctx = some q →
      Claims.engReadable s.bk buf off 192 48 → s.bk.bufMarked buf off 192 = false → pairBad bs ctx = none → s.bk.pairBufs r = none →
      (s.retries s.bk.pid s.bk.ctxn = false → (s.pairQueue q).length < 16 →
        Claims.Accepts s (.pair h d a b) d ctx (field c 18 16) [(.pair r none, {})] (r.holds.foldl Block.holdBuf s.bk) s.wv (fun _ => id)) ∧
      (s.retries s.bk.pid s.bk.ctxn = true → Claims.Retries s (.pair h d a b) d (field c 18 16))) ∧
    (let va := s.pre.sreg a
      let kind := field c 41 40
      let n := field c 31 20
      1 ≤ s.bk.level.code → field c 63 42 = 0 → field c 39 32 = 0 → field c 19 16 = 0 → kind ≤ 2 →
      s.engEntry s.bk.ctxn ctx = some 4 → s.ownCtx n = true → (s.ctxPid n).isSome = true →
      (if kind = 0 then va.toNat < 2 ^ 56 else va = 0) →
      (s.retries s.bk.pid s.bk.ctxn = false →
        Claims.Accepts s (.tlbinv h d a b) d ctx 3 [(.tlbinv kind (va.toNat / 2 ^ 17 * 2 ^ 17) n, {})] s.bk s.wv (fun _ => id)) ∧
      (s.retries s.bk.pid s.bk.ctxn = true → Claims.Retries s (.tlbinv h d a b) d 3))

/-- R305, R306: `pair.resume` of a context whose suspended job it names queues that job again, its accumulators scaled down by SHIFT and its FSCALE
less by it, or with ACT 1 ends it with status 9; either way the held PAIR_SAT goes and `d` gets its number. Where there is no such job, `d` gets 0. Every live thread
releases at the scope, which the resumed job awaits (R150). -/
def Obligations.PairResumeResult : Prop :=
  ∀ (h : Hdr) (d a b : BitVec 6) (s : State), s.cur.lanes = s.pre.live → s.unanswered = false → (s.writes.map (·.id)).Nodup →
    let c := s.pre.sreg b
    let scope := field c 18 16
    let buf := field (s.pre.sreg a) 37 32
    let off := field (s.pre.sreg a) 31 0
    let ctx := field c 15 0
    let bs := s.bk.bufBytes buf off 48
    Claims.ctlGood s c .pair → field c 41 32 = 0 → Claims.engReadable s.bk buf off 48 48 → s.bk.bufMarked buf off 48 = false → s.resumeBad s.bk.ctxn ctx bs = none →
    (s.retries s.bk.pid s.bk.ctxn = true ∨ s.suspendedJob s.bk.ctxn ctx = none →
      Claims.Retries s (.pairResume h d a b) d scope) ∧
    (∀ j r cur, s.suspendedJob s.bk.ctxn ctx = some (j, r, cur) → s.retries s.bk.pid s.bk.ctxn = false →
      let calm := { s.block j.uid with
        held := (s.block j.uid).held.filter (fun x => !(x.cause == .pairSat && x.ebad == pairSatBad j)) }
      (j.num ≠ recAt bs 8 8 →
        Claims.Retries s (.pairResume h d a b) d scope) ∧
      (j.num = recAt bs 8 8 → recAt bs 0 1 = 0 →
        ∃ t deps, exec (.pairResume h d a b) s = .next t ∧ Claims.releases s s.pre.live scope t ∧ Claims.awaits s s.pre.live scope deps ∧
          t = { s with
            wv := Claims.answered s s.wv d (BitVec.ofNat 64 j.num), observed := t.observed, bk := t.bk, blocks := t.blocks
            jobs := s.jobs.map fun x => if x.is j.ctxn j.handle j.num then { j with
              phase := .queued, work := .pair { r with fscale := r.fscale - recAt bs 1 1 } cur, deps := j.deps ++ deps } else x } ∧
          ∀ u, t.block u = if u = j.uid then calm.rescaleJob r (recAt bs 1 1) else s.block u) ∧
      (j.num = recAt bs 8 8 → recAt bs 0 1 = 1 →
        ∃ t, exec (.pairResume h d a b) s = .next t ∧ Claims.releases s s.pre.live scope t ∧
          t = { s with
            wv := Claims.answered s s.wv d (BitVec.ofNat 64 j.num), observed := t.observed, bk := t.bk, blocks := t.blocks
            eng := s.eng.set (j.ctxn * 1024 + j.handle) (((s.engAt j.ctxn j.handle).fail j.num 9 0).finish j.num) {}
            jobs := s.jobs.filter (fun x => !x.is j.ctxn j.handle j.num) } ∧
          ∀ u, t.block u = if u = j.uid then r.holds.foldl Block.unholdBuf calm else s.block u))

namespace Sys2Proof.Claims

/-- The issuing core's operation in the next instance of a route (R319), and the route's count of it. -/
def joined (s : State) (k : FabKind) (x : W64) (src dst : Option Nat) (slot num : Nat) (dbuf : Buf) (deps : List (Nat × Nat)) (t : State) : State :=
  let n := field x 57 52
  let r := s.route s.bk.pid n
  let m := (r.memberOf s.myDieid s.myVcid).getD 0
  { t with
    routes := s.routes.set (s.bk.pid * 64 + n) { r with counts := r.counts.set m (r.counts.get m 0 + 1) 0 } {}
    fab := s.fab ++ [{ pid := s.bk.pid, route := n, inst := r.counts.get m 0, member := m, kind := k, op := field x 51 48
                       len := field x 47 32, scope := field x 18 16, uid := s.cur.uid, wid := s.cur.wid, src := src, dst := dst
                       slot := slot, ctxn := s.bk.ctxn, handle := field x 15 0, num := num, lanes := s.pre.live
                       dbuf := dbuf, deps := deps }] }

end Sys2Proof.Claims

/-- R316 to R322, R324: where the checks pass, on a READY route `csend` and `cred` accept one job and `crecv` takes a slot for `d`, each marks its buffers as
a copy would, and joins the route's next instance; a `csend` on a route of one member is done at once; on a FAILED route `csend` and `cred` end with status 9 and
`crecv` is answered 9. `amsend` accepts one job and puts one message in flight for each live lane that sends; with none it is done at once. Each is a release
at its scope by every live thread, which its job, its part of the instance and its messages await (R150, R322).
The slot of `crecv` is the lowest free one (log entry 109). -/
def Obligations.FabricIssue : Prop :=
  ∀ (h : Hdr) (a b : BitVec 6) (s : State), s.cur.lanes = s.pre.live → s.unanswered = false → (s.writes.map (·.id)).Nodup →
    let x := s.pre.sreg b
    let ctx := field x 15 0
    let e := s.engAt s.bk.ctxn ctx
    let r := s.route s.bk.pid (field x 57 52)
    let p := field (s.pre.sreg a) 37 0
    let q := field (s.pre.sreg (a + 1)) 37 0
    (∀ (d : BitVec 6), ∀ f ∈ [(FabKind.csend, Instr.csend h d a b, some p, (none : Option Nat)), (.cred, .cred h d a b, some p, some q)],
      ∀ bk, s.fabCtl f.1 x = none → s.bk.fabBufs f.2.2.1 f.2.2.2 (fcLen x) = none → s.retries s.bk.pid s.bk.ctxn = false →
      s.bk.applyDesc (fabDesc f.2.2.1 f.2.2.2 (fcLen x)) = .ok bk →
      let dbuf := if f.2.2.2.isSome then bk.buf (opId q) else {}
      (r.state = .ready → ¬ (f.1 = .csend ∧ r.members.length = 1) →
        Claims.Accepts s f.2.1 d ctx (field x 18 16) [(.fabric, dbuf)] bk s.wv
          (fun deps => Claims.joined s f.1 x f.2.2.1 f.2.2.2 0 (e.issued + 1) dbuf deps)) ∧
      (r.state = .ready → f.1 = .csend → r.members.length = 1 → s.writes = [] → s.job s.bk.ctxn ctx (e.issued + 1) = none →
        (∀ o ∈ s.fab, o.pid = s.bk.pid → o.route ≠ field x 57 52) →
        ∃ t, exec f.2.1 s = .next t ∧
          t = { s with
            wv := Claims.answered s s.wv d (BitVec.ofNat 64 (e.issued + 1)), bk := bk.copyOutDone (opId p), eng := t.eng, observed := t.observed
            routes := s.routes.set (s.bk.pid * 64 + field x 57 52) { r with
              counts := r.counts.set ((r.memberOf s.myDieid s.myVcid).getD 0) (r.counts.get ((r.memberOf s.myDieid s.myVcid).getD 0) 0 + 1) 0 } {} } ∧
          ∀ k, t.eng.get k {} = if k = s.bk.ctxn * 1024 + ctx then Eng.finish { e with issued := e.issued + 1 } (e.issued + 1)
            else s.eng.get k {}) ∧
      (r.state = .failed → s.job s.bk.ctxn ctx (e.issued + 1) = none →
        ∃ t, exec f.2.1 s = .next t ∧ Claims.releases s s.pre.live (field x 18 16) t ∧
          t = { s with
            wv := Claims.answered s s.wv d (BitVec.ofNat 64 (e.issued + 1)), eng := t.eng, observed := t.observed } ∧
          ∀ k, t.eng.get k {} = if k = s.bk.ctxn * 1024 + ctx then
              (Eng.fail { e with issued := e.issued + 1 } (e.issued + 1) 9 0).finish (e.issued + 1)
            else s.eng.get k {})) ∧
    (∀ (d : BitVec 6) (i : Nat) (bk : Block), s.fabCtl .crecv x = none → s.bk.fabBufs none (some p) (fcLen x) = none →
      s.bk.applyDesc (fabDesc none (some p) (fcLen x)) = .ok bk →
      inBounds s.pre [s.pre.op d 1] = true → (∀ L ∈ lanesOf s.pre.live, (s.pre.op d 1).free s.pre L = true) → s.wv.freeSlot = some i →
      ∃ t u deps, exec (.crecv h d a b) s = .next t ∧ Claims.releases s s.pre.live (field x 18 16) t ∧
        Claims.awaits s s.pre.live (field x 18 16) deps ∧
        s.wv.SlotTaken s.pre.live .crecv (s.pre.op d 1)
          ((lanesOf s.pre.live).map fun L => { lane := L, val := if r.state = .failed then some [9] else none }) u ∧
        t = (if r.state = .failed then id else Claims.joined s .crecv x none (some p) i 0 (bk.buf (opId p)) deps) { s with
          wv := { u with wclk := s.clockAfter (countLanes s.pre.live) }
          bk := if r.state = .failed then s.bk else bk
          observed := t.observed }) ∧
    (∀ (d : BitVec 6) (y : Bool),
      let v := s.pre.vnum a
      let dest := fun (L : Nat) => (s.pre.vreg (v + 2) L).toNat
      let from_ := (lanesOf s.pre.live).filter fun L => (s.pre.vreg (v + 2) L).getLsbD 31
      inBounds s.pre [s.pre.op a 3] = true → (∀ L ∈ lanesOf s.pre.live, (s.pre.op a 3).full s.pre L = true) →
      field x 63 60 = 0 → field x 31 19 = 0 → field x 18 16 ≤ 5 → s.engEntry s.bk.ctxn ctx = some 3 →
      (∀ L ∈ from_, dest L / 2 ^ 14 % 2 ^ 17 = 0) → s.retries s.bk.pid s.bk.ctxn = false →
      (from_ ≠ [] →
        Claims.Accepts s (.amsend h d a b y) d ctx (field x 18 16) [(.amsend, {})] s.bk s.wv fun deps t => { t with
          ams := s.ams ++ from_.map fun L =>
            { uid := s.cur.uid, wid := s.cur.wid, pid := s.bk.pid, dieid := dest L / 2 ^ 8 % 64, vcid := dest L % 256
              ctxn := field x 47 36, gen := field x 59 48, inbox := field x 35 32, w0 := s.pre.vreg v L, w1 := s.pre.vreg (v + 1) L
              from_ := BitVec.ofNat 32 (s.myVcid + s.myDieid * 256), scope := field x 18 16, deps := deps
              jctxn := s.bk.ctxn, jhandle := ctx, jnum := e.issued + 1, lane := L
              src := tileTag s.bk.die s.bk.tile, sdie := s.bk.die } }) ∧
      (from_ = [] → s.job s.bk.ctxn ctx (e.issued + 1) = none →
        ∃ t, exec (.amsend h d a b y) s = .next t ∧ Claims.releases s s.pre.live (field x 18 16) t ∧
          t = { s with
            wv := Claims.answered s s.wv d (BitVec.ofNat 64 (e.issued + 1)), eng := t.eng, observed := t.observed } ∧
          ∀ k, t.eng.get k {} = if k = s.bk.ctxn * 1024 + ctx then
              (Eng.finish { e with issued := e.issued + 1 } (e.issued + 1)) else s.eng.get k {}))

/-! ### Launches, services, the supervisor (11, 13, 16) -/

namespace Sys2Proof.Claims

/-- `estat` fields 0 to 7 of a context with `jobs` jobs in flight (R282). -/
def statusValue (e : Eng) (jobs n : Nat) : W64 :=
  BitVec.ofNat 64 (if n = 0 then e.timeline
    else if n = 1 then e.issued
    else if n = 2 ∨ n = 5 then e.errStatus % 256 + e.errCount * 2 ^ 32
    else if n = 3 then e.errJob
    else if n = 4 then e.errAddr.toNat
    else jobs)

end Sys2Proof.Claims

/-- R281, R282, R399: `lnch` writes the 192 bytes of its record into slot TAIL at `pkg`, increments TAIL and answers 0; it answers 2 where the partition accepts
nothing, 1 where the queue is full, 3 where the slot cannot be written; every live thread releases at its scope first (R150). `estat` reads a field; field 5 also clears the error. -/
def Obligations.LaunchAndStatusResult : Prop :=
  ∀ (h : Hdr) (d a b : BitVec 6) (s : State), s.cur.lanes = s.pre.live →
    (let buf := field (s.pre.sreg a) 37 32
      let off := field (s.pre.sreg a) 31 0
      let x := s.pre.sreg b
      let bs := s.bk.bufBytes buf off 192
      ∀ r, s.unanswered = false → s.ucopies = [] → field x 63 42 = 0 → field x 31 19 = 0 → field x 18 16 ≤ 5 → field x 41 32 < 64 →
      s.lnchQueue x = some r → Claims.engReadable s.bk buf off 192 48 → s.bk.bufMarked buf off 192 = false → s.allReleased (field x 18 16) = true → s.slotLocked r = false →
      let refused := fun (n : Nat) =>
        ∃ t, exec (.lnch h d a b) s = .next t ∧ ((s.writes.map (·.id)).Nodup → Claims.releases s s.pre.live (field x 18 16) t) ∧
          t = { s with wv := Claims.answered s s.wv d (BitVec.ofNat 64 n), observed := t.observed }
      (s.retries s.bk.pid s.bk.ctxn = true → refused 2) ∧
      (s.retries s.bk.pid s.bk.ctxn = false → s.qcount r = 2 ^ s.qlog2n r → refused 1) ∧
      (s.retries s.bk.pid s.bk.ctxn = false → s.qcount r ≠ 2 ^ s.qlog2n r → s.slotParts r = none → refused 3) ∧
      (∀ ps, s.retries s.bk.pid s.bk.ctxn = false → s.qcount r ≠ 2 ^ s.qlog2n r → s.slotParts r = some ps →
        let at_ := fun (p : Nat × TlbE) => p.2.pa (s.slotVa r (s.qtail r) + p.1)
        (∀ p ∈ ps, isHbm (at_ p) = true) → ps.Pairwise (fun p q => at_ p + 64 ≤ at_ q ∨ at_ q + 64 ≤ at_ p) →
        ∃ t, exec (.lnch h d a b) s = .next t ∧ ((s.writes.map (·.id)).Nodup → Claims.releases s s.pre.live (field x 18 16) t) ∧
          t = { s with
            wv := Claims.answered s s.wv d 0, observed := t.observed, mem := t.mem, ptag := t.ptag, marks := t.marks
            stale := t.stale, maint := t.maint } ∧
          t.reg (r.reg 0x18) = withField (s.reg (r.reg 0x18)) 31 0 (s.qtail r + 1) ∧
          (∀ k, k ≠ r.reg 0x18 → t.reg k = s.reg k) ∧
          (∀ p ∈ ps, t.homeBytes (at_ p) 64 = (bs.drop p.1).take 64) ∧
          ∀ k, (∀ p ∈ ps, k < at_ p ∨ at_ p + 64 ≤ k) → t.homeByte k = s.homeByte k)) ∧
    (∀ n : BitVec 6,
      let c := field (s.pre.sreg a) 15 0
      let e := s.engAt s.bk.ctxn c
      let mine := s.jobs.filter fun j => j.ctxn == s.bk.ctxn && j.handle == c
      let v := if n.toNat < 7 then Claims.statusValue e mine.length n.toNat
        else if s.engEntry s.bk.ctxn c = some 2 then s.pairField s.bk.pid s.bk.ctxn c n.toNat else 0
      (s.engEntry s.bk.ctxn c).isSome = true →
      exec (.estat h d a n) s = .next { s with
        wv := Claims.answered s s.wv d v
        eng := if n = 5 then s.eng.set (s.bk.ctxn * 1024 + c) { e with errStatus := 0, errCount := 0, errJob := 0, errAddr := 0 } {}
          else s.eng })

/-- R192, R330 to R332, R379: `svc` takes a slot for its two registers and the lowest free batch slot, puts the record of its lanes into the drone's memory, and queues a
message for the drone; `wake` frees the batch slot whose address it is given and answers each lane with its two reply words.
The slot of `svc` is the lowest free one (log entry 109). -/
def Obligations.ServiceResult : Prop :=
  ∀ (h : Hdr) (s : State),
    (∀ (d a b : BitVec 6) (x : Bool) (ctxn vcid n i : Nat) (e : TlbE),
      let m := s.performers h
      let D := s.pre.op d 2
      let A := s.pre.op a 4
      let die := s.bk.die
      let pid := s.bk.pid
      let seq := s.batchSeq.get (die * 256 + pid) 0 + 1
      let va := s.batchVa pid die n
      let key := inboxKey ctxn s.myDieid vcid 15
      let me := BitVec.ofNat 32 (s.myVcid + s.myDieid * 256)
      s.ready h [D] [s.pre.op a 4 x] [] = true → m ≠ 0 → s.wv.freeSlot = some i → s.drone die pid = some (ctxn, vcid) →
      s.freeBatch pid die = some n → s.dieXlat die ctxn pid va = some e → isHbm (e.pa va) = true → s.ucopies = [] →
      s.lockOf (e.pa va) = none → (∀ w ∈ s.amWaits, w.key ≠ key) →
      ∃ t u, exec (.svc h d a b x) s = .next t ∧ s.wv.SlotTaken m .svc D ((lanesOf m).map fun L => { lane := L }) u ∧
        t = { s with
          wv := { u with wclk := s.clockAfter (countLanes s.cur.lanes) }
          batches := s.batches ++ [⟨pid, die, n, s.cur.uid, s.cur.wid, i, s.bk.ctxn, s.bk.gen, m⟩]
          batchSeq := s.batchSeq.set (die * 256 + pid) seq 0
          maint := t.maint
          stale := t.stale
          nextWrite := s.nextWrite + 1
          writes := s.writes ++ [⟨s.nextWrite, die, 999, 0, 0, 49, e.pa va, va, ctxn, s.batchRecord (s.pre.sreg b) A.reg m seq, 3, 4, [], false, false, 0⟩]
          inboxes := s.inboxes.set key (s.inbox key ++ [⟨BitVec.ofNat 32 va, BitVec.ofNat 32 (va / 2 ^ 32), me, 2, []⟩]) [] } ∧
        ∀ p, s.pslot die pid = some p → ∀ k, k ≠ partReg die p 0x30 → t.reg k = s.reg k) ∧
    (∀ (a : BitVec 6) (q : Batch),
      let va := (s.pre.sreg a).toNat
      s.cur.lanes = s.pre.live → 1 ≤ s.bk.level.code → s.unanswered = false → s.batchAt va = some q → s.allReleased 2 = true →
      s.ctxGen q.ctxn = q.gen → (q.uid ≠ s.cur.uid ∨ q.wid ≠ s.cur.wid) → (s.block q.uid).waves.length > q.wid →
      (s.block q.uid).uid = q.uid → (s.block q.uid).resident = true →
      (∀ L ∈ lanesOf q.lanes, (s.replyWords q va L).isSome = true) →
      ∃ t, exec (.wake h a) s = .next t ∧ t.batches = s.batches.erase q ∧ t.mem = s.mem ∧ t.writes = s.writes ∧ t.inboxes = s.inboxes ∧
        t.wv = { s.wv with wclk := s.clockAfter (countLanes s.pre.live) } ∧
        ∀ r ∈ ((s.wave q.uid q.wid).slot q.wslot).reqs,
          (if laneIn q.lanes r.lane = true then { r with val := s.replyWords q va r.lane } else r) ∈
            ((t.wave q.uid q.wid).slot q.wslot).reqs)

namespace Sys2Proof.Claims

/-- The handle in a scalar register names block `u`, whose context the executing level may act on (R362, R371). -/
def names (s : State) (x : W64) (u : Nat) : Prop :=
  1 ≤ s.bk.level.code ∧ s.named x = some u ∧ s.ownCtx (field x 43 32) = true

/-- Block `u` has become `b`; every other block stands as it stood. -/
def blockBecomes (s t : State) (u : Nat) (b : Block) : Prop := ∀ k, t.block k = if k = u then b else s.block k

/-- A block without the record of which vector lines its images in memory hold. -/
def noImage (b : Block) : Block := { b with waves := b.waves.map fun w => { w with inImage := [] } }

/-- Block `u` as it runs again (R154, R372): each wave of it still waits if what its threads made or saw is not performed at `pkg`. -/
def runsAgain (s : State) (u : Nat) : Block :=
  { (s.block u).resumed with waves := (s.block u).waves.zipIdx.map fun e =>
      { e.1.resumed with refence := !(lanesOf e.1.live).all fun L => s.released u e.2 L 3 } }

end Sys2Proof.Claims

/-- R154, R372, R376, R377: `resume` lets a HALTED block that stands on its core run again, each wave after a `fence.full.pkg`, and makes any other HALTED block, or a SEALED one without a kept
breakpoint, SWAPPED; `rfe` does so and ends its wave; `halt` leaves a HALTED block, makes a SWAPPED one HALTED, and completes when a stop it waited for is over, as
`seal` does; `seal` writes a HALTED or SWAPPED block to its images and takes its lines from the register cache; `idle` goes on once a message or its time has come.
FCODE is cleared when a wave resumes (log entry 46). -/
def Obligations.SupervisorResult : Prop :=
  ∀ (h : Hdr) (a : BitVec 6) (s : State), s.cur.lanes = s.pre.live → s.unanswered = false →
    let x := s.pre.sreg a
    let done := { s.wv with wclk := s.clockAfter (countLanes s.pre.live) }
    (∀ u b', Claims.names s x u → u ≠ s.cur.uid → s.allReleased 3 = true → (s.block u).uid = u → (s.block u).waves.length ≤ 32 → s.cur.wid < 32 →
      (∀ w ∈ (s.block u).waves, ∀ e ∈ w.slots, ∀ q ∈ e.2.reqs, q.open_ = false) →
      (((s.block u).state = .halted ∧ (s.block u).resident = true ∧ b' = Claims.runsAgain s u) ∨
        ((s.block u).state = .halted ∧ (s.block u).resident = false ∧ b' = { s.block u with state := .swapped }) ∨
        ((s.block u).state = .sealedImg ∧ (∀ w ∈ (s.block u).waves, w.dbgpend < 0x80) ∧ b' = { s.block u with state := .swapped })) →
      (∃ t, exec (.resume h a) s = .next t ∧ Claims.blockBecomes s t u b' ∧
        t = { s with wv := done, blocks := t.blocks, observed := t.observed, stale := t.stale }) ∧
      (s.bk.barArrived = [] →
        ∃ t, exec (.rfe h a) s = .next t ∧ Claims.blockBecomes s t u b' ∧ t.wv.live = 0 ∧ t.wv.ended = true ∧
          t = { s with wv := t.wv, blocks := t.blocks, observed := t.observed, stale := t.stale })) ∧
    (∀ u, s.wv.waiting = .none → Claims.names s x u → u ≠ s.cur.uid →
      ((s.block u).state = .halted → exec (.halt h a) s = .next { s with wv := done }) ∧
      ((s.block u).state = .swapped →
        ∃ t, exec (.halt h a) s = .next t ∧ t = { s with wv := done, blocks := t.blocks } ∧
          Claims.blockBecomes s t u { s.block u with state := .halted }) ∧
      ((s.block u).state = .halted ∨ (s.block u).state = .swapped → s.satHeld u = false →
        ∃ t, exec (.sealBlock h a) s = .next t ∧
          Claims.noImage (t.block u) = Claims.noImage { s.block u with
            state := .sealedImg, stopping := .no, broadcast := false, resident := false } ∧
          (∀ r ∈ t.rcache, r.uid ≠ u) ∧
          t = { t with wv := done, bk := s.bk, cur := s.cur, launches := s.launches, jobs := s.jobs, eng := s.eng })) ∧
    (s.wv.waiting = .targetDone → ∀ i ∈ [Instr.halt h a, .sealBlock h a, .idle h a],
      exec i s = .next { s with wv := { done with waiting := .none } }) ∧
    (1 ≤ s.bk.level.code → s.wv.waiting = .none → s.anyInbox = true ∨ x.toNat ≤ s.time →
      exec (.idle h a) s = .next { s with wv := done }) ∧
    (1 ≤ s.bk.level.code → s.wv.waiting = .none → s.anyInbox = false → s.time < x.toNat →
      ∃ t, exec (.idle h a) s = .next t ∧
        t = { s with
          wv := { s.wv with waiting := .idle x.toNat, pc := t.wv.pc }
          cur := { s.cur with held := s.cur.held ||| s.cur.lanes, acted := true } })

/-- R314, R373, R375, R378, R387: `rtwr` puts a route that passes the checks into the table and answers 0, or answers 1 or 2; the paths that it lays for a route pass,
beside its members, only tiles of the partition, and FREE or SPARE ones. `ctxrd` and `ctxwr` read and write one word of
an image of a stopped block; `psrd` and `pswr` one word of a context's tables: a newly enabled engine context starts at 0, and a descriptor whose ENABLED is
cleared is torn down.
An engine context declared anew begins with its timeline and errors clear (log entry 49), and paths are the shortest in a fixed order (log entry 102). -/
def Obligations.SupervisorTables : Prop :=
  ∀ (h : Hdr) (s : State), s.cur.lanes = s.pre.live → 1 ≤ s.bk.level.code →
    let done := { s.wv with wclk := s.clockAfter (countLanes s.pre.live) }
    (∀ d a : BitVec 6,
      let buf := field (s.pre.sreg a) 37 32
      let off := field (s.pre.sreg a) 31 0
      let n := leNat (s.bk.bufBytes buf (off + 2) 2)
      let bs := s.bk.bufBytes buf off (48 + 8 * n)
      (∀ pid r, (∀ e ∈ r.members.zipIdx, e.2 = r.root ∨ e.1.1 < r.members.length) → ∀ p ∈ (s.layPaths pid r).paths,
        (s.worldIn p.1 p.2 pid).isSome = true ∨ s.tileKind p.1 p.2 = 0 ∨ s.tileKind p.1 p.2 = 2 ∨
          ∃ m ∈ r.members, p = tileAt (s.memberPlace pid m)) ∧
      (Claims.engReadable s.bk buf off 48 48 → Claims.engReadable s.bk buf off (48 + 8 * n) 48 →
      s.bk.bufMarked buf off 48 = false → s.bk.bufMarked buf off (48 + 8 * n) = false → s.chanterHalted = false →
      exec (.rtwr h d a) s = .next (if s.quiescing s.bk.pid = true then { s with wv := Claims.answered s s.wv d 2 }
        else if s.routeOk s.bk.pid bs = true then { s with
          wv := Claims.answered s s.wv d 0
          routes := s.routes.set (s.bk.pid * 64 + recAt bs 0 2)
            (s.layPaths s.bk.pid { state := .ready, root := recAt bs 4 2, members := routeMembers bs n }) {} }
        else { s with wv := Claims.answered s s.wv d 1 }))) ∧
    (∀ (d a b : BitVec 6) (u k : Nat),
      let x := s.pre.sreg b
      let t := s.block u
      Claims.names s (s.pre.sreg a) u → ¬ (s.bk.level = .m ∧ s.imageSealed t.pid t.ctxn = true) →
      field x 63 48 = 0 → field x 39 32 = 0 → t.partSize (field x 47 40) = some k → field x 31 0 % 8 = 0 → field x 31 0 + 8 ≤ k →
      t.state ≠ .running → t.state ≠ .swapped →
      (s.imageBad (s.pre.sreg a) x = none → exec (.ctxrd h d a b) s = .next { s with
        wv := Claims.answered s s.wv d (s.imageWordOf t (field x 47 40) (field x 31 0)) }) ∧
      (t.state ≠ .lost → t.fillsAtomic (field x 47 40) (field x 31 0) (s.pre.sreg d) = false → t.uid = u → u ≠ s.cur.uid →
        let r := t.putPart (field x 47 40) (field x 31 0) (s.pre.sreg d)
        ∃ v, exec (.ctxwr h d a b) s = .next v ∧ v.wv = done ∧ Claims.noImage (v.block u) = Claims.noImage r.1 ∧
          (∀ k, k ≠ u → v.block k = s.block k) ∧
          (t.resident = true → t.lineOf (field x 47 40) (field x 31 0) = none →
            v = { s with
              wv := done, bk := v.bk, blocks := v.blocks, maint := if r.2 then (s.logIgnored 0).maint else s.maint }))) ∧
    (∀ d a : BitVec 6,
      let x := s.pre.sreg a
      let space := field x 63 56
      let c := field x 43 32
      let i := field x 31 0
      indexOk space i = true → field x 55 44 = 0 → s.ownCtx c = true →
      (¬ (space = 0 ∧ i = 0) → exec (.psrd h d a) s = .next { s with wv := Claims.answered s s.wv d (s.ctxWord space c i) }) ∧
      (∀ b : BitVec 6,
        let v := s.pre.sreg b
        let old := s.ctxWord space c i
        v &&& BitVec.ofNat 64 (reservedMask space i v) = 0 → s.wordOk space c i v = true → s.unanswered = false → s.allReleased 2 = true →
        (¬ (space = 0 ∧ i = 0) →
          ∃ t, exec (.pswr h a b) s = .next t ∧
            t = { s with
              wv := done, observed := t.observed, ctxWords := s.ctxWords.set (stAddr space c i) v 0
              eng := if space = 3 ∧ v.getLsbD 63 = true ∧ old.getLsbD 63 = false then s.eng.set (c * 1024 + i) {} {} else s.eng }) ∧
        (space = 0 ∧ i = 0 → field v 11 0 = 0 → v.getLsbD 16 = false → s.tearing.contains c = false →
          ∃ t, exec (.pswr h a b) s = .next t ∧
            t = { s with
              wv := done, observed := t.observed
              ctxWords := s.ctxWords.set (stAddr 0 c 0)
                (withField (withField old 17 17 (field v 17 17)) 18 18 (field v 18 18)) 0
              tearing := if old.getLsbD 17 = true ∧ v.getLsbD 17 = false then s.tearing ++ [c] else s.tearing })))

/-! ### Steps of the memory system (02, 03, 06, 17) -/

namespace Sys2Proof.Claims

/-- Wave `wid` of block `uid` is there, and no instruction stands in the issue stage, as between two issues. -/
def stands (s : State) (uid wid : Nat) : Prop := s.cur.on = false ∧ wid < (s.block uid).waves.length

/-- Wave `wid` of block `uid` has become `w`; every other wave and the rest of every block stand as they stood. -/
def waveBecomes (s t : State) (uid wid : Nat) (w : Wave) : Prop :=
  ∀ u, t.block u = if u = uid then { s.block u with waves := (s.block u).waves.set wid w } else s.block u

/-- Bytes of home memory from `pa` have become `bs`, no other byte has changed. -/
def homeBecomes (s t : State) (pa : Nat) (bs : List Byte) : Prop :=
  t.homeBytes pa bs.length = bs ∧ ∀ p, p < pa ∨ pa + bs.length ≤ p → t.homeByte p = s.homeByte p

end Sys2Proof.Claims

/-- R131, R132, R155, R419, R445, R471: a write in flight that nothing stands before is performed one level further out; at its last level it leaves the list and
its bytes are at the home, or, where no group serves the location or its stack is not enabled, it is lost; past its thread, a write to a locked frame is held
(log entry 58); one outside the reach of its partition is dropped on its way from the core
(log entry 135). R386: a walk that finds a leaf puts it into the TLB of its quarter and into the walk
cache (log entry 88); one that does not is only asked for no longer. R156: the lines of a packet that decodes are kept. R78: a register line that is not there is brought in; a full quarter gives one up. -/
def Obligations.MemoryEventResult : Prop :=
  ∀ s : State,
    (∀ (id : Nat) (w : PWrite), s.writes.find? (fun x => x.id == id) = some w → s.mayRaise w = true →
      let rest := s.writes.filter (fun x => x.id != w.id)
      (w.level = 1 → w.lane < 48 → s.outside w.ctxn w.pa = true →
        ∃ t, exec (.memoryWritePerform id) s = .next t ∧ t.mem = s.mem ∧ ∀ x ∈ t.writes, x ∈ rest) ∧
      (¬ (w.level = 1 ∧ w.lane < 48 ∧ s.outside w.ctxn w.pa = true) →
      (1 ≤ w.level → (s.lockOf w.pa).isSome = true →
        exec (.memoryWritePerform id) s = .next { s with writes := rest ++ [{ w with held := true }] }) ∧
      (w.level = 0 ∨ s.lockOf w.pa = none → w.level + 1 < w.target →
        ∃ t, exec (.memoryWritePerform id) s = .next t ∧
          t = { s with writes := rest ++ [{ w with level := w.level + 1 }], stale := t.stale }) ∧
      (w.level = 0 ∨ s.lockOf w.pa = none → w.target ≤ w.level + 1 → s.ucopies = [] → w.sealGen = 0 →
        (if isHbm w.pa = true then s.stackOn (w.pa / 2 ^ 27 / 384) = true else s.served w.pa = true) → Claims.noLine s w.pa w.bytes.length →
        ∃ t, exec (.memoryWritePerform id) s = .next t ∧ Claims.homeBecomes s t w.pa w.bytes ∧
          t = { s with writes := rest, stale := t.stale, mem := t.mem, ptag := t.ptag, marks := t.marks }) ∧
      (w.level = 0 ∨ s.lockOf w.pa = none → w.target ≤ w.level + 1 →
        (if isHbm w.pa = true then s.stackOn (w.pa / 2 ^ 27 / 384) = false else s.served w.pa = false ∧ s.draining w.pa = false) →
        ∃ t, exec (.memoryWritePerform id) s = .next t ∧ t = { s with writes := rest, stale := t.stale, maint := t.maint } ∧
          t.fld 0xF00 7 0 = (s.fld 0xF00 7 0 + 1) % 256))) ∧
    (∀ (die quarter ctxn va pid : Nat), s.ctxPid ctxn = some pid → s.walkRuns die quarter ctxn va = true →
      let page := va / 2 ^ 17 * 2 ^ 17
      (∀ e, s.dieXlat die ctxn pid va = some e →
        ∃ t, exec (.pageWalk die quarter ctxn va) s = .next t ∧ t = { s with walks := t.walks, tlb := t.tlb, maint := t.maint } ∧
          { e with quarter := some (quarter / 4, quarter % 4) } ∈ t.tlb ∧ { e with quarter := none } ∈ t.tlb ∧
          (die, quarter, ctxn, page) ∉ t.walks ∧
          ∀ x ∈ s.walks, (x.1 ≠ die ∨ x.2.1 ≠ quarter ∨ x.2.2.1 ≠ ctxn) → x ∈ t.walks) ∧
      (s.dieXlat die ctxn pid va = none →
        ∃ t, exec (.pageWalk die quarter ctxn va) s = .next t ∧
          t = { s with maint := t.maint, walks := s.walks.filter fun x =>
            !(x.1 == die && x.2.1 == quarter && x.2.2.1 == ctxn && x.2.2.2 == page) })) ∧
    (∀ (uid wid lane : Nat) (ws : List W32),
      let w := s.wave uid wid
      let p := w.pcOf lane / 12 * 12
      let who := (s.block uid).who w
      s.mayIssue uid wid = true → laneIn w.live lane = true → s.packetStop who p = none → s.packet who p = .ok ws → (s.block uid).die ≠ 64 →
      ∃ t, exec (.packetDecode uid wid lane) s = .next t ∧ t = { s with icache := t.icache } ∧
        ∀ k ∈ [0, 4, 8], ∀ x, s.access who .fetch (p + k) 4 = .ok x → x.maint = false → s.badRange (192 * (x.pa / 192)) 192 = false →
          s.codeLine who x.pa = none →
          ⟨who.die, who.tile, who.q, x.pa / 192, (s.recall (192 * (x.pa / 192)) 192).peekMem { die := who.die, tile := who.tile }
            (192 * (x.pa / 192)) 192⟩ ∈ t.icache) ∧
    (∀ uid wid reg : Nat,
      let b := s.block uid
      let x : RLine := { quarter := s.quarterOf uid wid, uid := uid, wid := wid, reg := reg, readAt := s.clk, usedAt := s.clk }
      let mine := s.rcache.filter (fun y => y.quarter == x.quarter)
      b.standing = true → reg < (s.wave uid wid).vregs → wid < b.waves.length → s.lineCached uid wid reg = false →
      (mine.length < 1024 → (s.wave uid wid).inImage.contains reg = false →
        ∃ t, exec (.regLineFill uid wid reg) s = .next t ∧
          t = { s with rcache := s.rcache ++ [x], lineWants := s.lineWants.erase (uid, wid, reg), maint := t.maint }) ∧
      (mine.length < 1024 → ∃ t, exec (.regLineFill uid wid reg) s = .next t ∧ t.rcache = s.rcache ++ [x] ∧ t.mem = s.mem) ∧
      (∀ y, 1024 ≤ mine.length → s.victim mine = some y →
        ∃ t, exec (.regLineFill uid wid reg) s = .next t ∧ t.rcache = s.rcache.erase y ++ [x] ∧
          (y.dirty = false → (s.wave uid wid).inImage.contains reg = false → t.blocks = s.blocks ∧ t.wv = s.wv ∧ t.mem = s.mem)))

/-- R66, R70, R142, R143, R229, R232: an atomic whose release is complete, performed at a home in module HBM: the location takes the operation's value and the
lane's request the old value; no other byte changes. A reply writes its lane's registers, makes them full, and ends the lane's share of its slot; one of an
uncorrectable error, or of an atomic whose reply is lost, leaves them empty and marked; memory stays where the wave stands on its core. A load that has no value yet takes first what is performed for its thread: when it does is the model's choice
(log entries 36, 120). -/
def Obligations.ReplyEventResult : Prop :=
  ∀ (s : State) (uid wid i L : Nat), Claims.stands s uid wid → L < 48 →
    let w := s.wave uid wid
    let sl := w.slot i
    (∀ e ∈ Claims.atomics, ∀ (pa : Nat) (q : Req),
      sl.openAt pa = [q] → q.lane = L → q.pa = pa → q.aux = e.2.1 → q.width = e.2.2.1 → q.opnd.length = e.2.2.2.1 → 3 ≤ q.scope →
      s.atomReady uid wid q = true → s.badRange pa q.width = false → s.ucopies = [] → s.outside (s.block uid).ctxn pa = false →
      Claims.noLine s pa q.width →
      let n := q.width
      let num := fun (k : Nat) => leNat ((q.opnd.drop k).take (n / 4) |>.flatMap fun x => leBytes x.toNat 4)
      let old := leNat (s.homeBytes pa n)
      ∃ t, exec (.atomicPerform uid wid i pa) s = .next t ∧ Claims.homeBecomes s t pa (leBytes (e.2.2.2.2.2 old (num 0) (num (n / 4))) n) ∧
        (t.wave uid wid).slot i = { sl with reqs := sl.reqs.map fun r => if r.lane = L then { q with
          val := some ((List.range e.2.2.2.2.1).map fun k => BitVec.ofNat 32 (old / 2 ^ (32 * k))) } else r } ∧
        (t.wave uid wid).v = w.v ∧ (t.wave uid wid).empty = w.empty ∧ t.writes = s.writes) ∧
    (∀ (q : Req) (stale : Nat) (xs : List W32) (v : Lanes), sl.reqs.find? (fun r => r.lane == L) = some q → v = BitVec.ofNat 48 (2 ^ L) →
      laneIn sl.lanes L = true →
      let home := (s.block uid).uid = uid ∧ (s.block uid).resident = true ∧ w.inImage = []
      let ends := fun (t : State) (ys : List W32) =>
        (home → t.mem = s.mem ∧ t.writes = s.writes) ∧
        (∀ r K, K < 48 → (t.wave uid wid).vreg r K =
          if K = L ∧ sl.reg ≤ r ∧ r < sl.reg + ys.length then ys.getD (r - sl.reg) 0 else w.vreg r K) ∧
        (∀ r K, K < 48 → (t.wave uid wid).isEmpty r K =
          if K = L ∧ sl.reg ≤ r ∧ r < sl.reg + ys.length then false else w.isEmpty r K) ∧
        ∀ r ∈ ((t.wave uid wid).slot i).reqs, r.lane ≠ L
      (sl.kind ≠ .load → sl.kind ≠ .amrecv → q.err = false → q.val = some xs → (sl.kind = .atomic → stale = 0) →
        ∃ t, exec (.replyWrite uid wid i v stale) s = .next t ∧ ends t xs ∧
          (home → t = { s with blocks := t.blocks, rcache := t.rcache })) ∧
      (let bad := { sl with
          lanes := setLane sl.lanes L false
          err := setLane sl.err L true
          errAddr := sl.errAddr.set L q.va 0
          reqs := sl.reqs.filter (fun r => r.lane != L) };
        sl.kind ≠ .load → sl.kind ≠ .amrecv → q.err = true ∨ (sl.kind = .atomic ∧ q.val.isSome = true ∧ stale ≠ 0) → home →
        ∃ t, exec (.replyWrite uid wid i v stale) s = .next t ∧
          Claims.waveBecomes s t uid wid { w with slots := w.slots.set i bad {} }) ∧
      (∀ e ∈ Claims.loads, sl.kind = .load → q.aux = e.2.1 → q.width = e.2.2.1 → q.val = none → q.err = false → q.tx = false → s.ucopies = [] →
        s.outside (s.block uid).ctxn q.pa = false → Claims.noLine s q.pa q.width →
        (∀ k < q.width, (s.readByte (s.viewOf uid wid L) 0 (q.pa + k)).bad = false) → w.slots.all (fun x => decide (sl.ord ≤ x.2.ord)) = true →
        ∃ t, exec (.replyWrite uid wid i v 0) s = .next t ∧
          ends t (e.2.2.2.2 (leNat (s.peekMem (s.viewOf uid wid L) q.pa q.width)))))

/-- R147, R149, R247: a commit whose release is complete writes its write set at the homes, if every value that it read still stands there, and the thread is
outside any transaction, with TSTAT 0; otherwise the transaction aborts with CONFLICT and no byte changes. Neither adds to `wclk`, as the model reads the
rules (log entry 115); when a ready commit is decided is its choice (log entry 37). -/
def Obligations.CommitResult : Prop :=
  ∀ (s : State) (uid wid L : Nat) (x : Tx), Claims.stands s uid wid → L < 48 →
    let w := s.wave uid wid
    w.txOf L = some x → x.validating = true → s.commitReady uid wid L x = true → s.lowerCommits uid wid L = false → s.ucopies = [] →
    (∀ e ∈ x.seen ++ x.data, s.imageLineAt e.1 = none) →
    ((∀ e ∈ x.seen, s.homeByte e.1 = e.2) → x.data.Pairwise (fun a b => a.1 ≠ b.1) →
      ∃ t, exec (.txCommitValidate uid wid L) s = .next t ∧ (∀ e ∈ x.data, t.homeByte e.1 = e.2) ∧
        (∀ p, (∀ e ∈ x.data, e.1 ≠ p) → t.homeByte p = s.homeByte p) ∧ (t.wave uid wid).txOf L = none ∧
        (t.wave uid wid).tstatOf L = 0 ∧ (t.wave uid wid).wclk = w.wclk ∧ (t.wave uid wid).v = w.v ∧ (t.wave uid wid).pc = w.pc ∧ t.writes = s.writes) ∧
    ((∃ e ∈ x.seen, s.homeByte e.1 ≠ e.2) →
      ∃ t, exec (.txCommitValidate uid wid L) s = .next t ∧ t = { s with blocks := t.blocks } ∧ (t.wave uid wid).txOf L = none ∧
        (t.wave uid wid).tstatOf L = BitVec.ofNat 32 (1 * 16 + 8) ∧ (t.wave uid wid).pcOf L = x.resumePc ∧ (t.wave uid wid).wclk = w.wclk ∧
        (t.wave uid wid).v = w.v)

/-! ### Steps of work lists, messages and the fabric (02, 10, 13) -/

/-- R46, R51, R249, R324, R325: an item whose release is complete and before which nothing stands is appended to its list, and its lane of the `wlput` reads true; a quiet
launch discards it, and the lane reads false. A launch with nothing on its lists and every worker at rest becomes quiet, and every blocked `wlget` is answered QUIET.
The commit token goes to the counted wave of the least pair. A message reaches its inbox, or fails its lane: 11 for a full inbox, 12 for no such context; once none
is on its way, its job retires. -/
def Obligations.WorkListAndMessageEvents : Prop :=
  ∀ s : State,
    (∀ (id k : Nat) (x : WlItem),
      let l := s.launch id
      let w := s.wave x.uid x.wid
      let sent := { l with inFlight := l.inFlight.eraseIdx k }
      l.inFlight[k]? = some x → Claims.stands s x.uid x.wid → (s.block x.uid).uid = x.uid → (s.block x.uid).resident = true →
      (l.quiet = true →
        ∃ t, exec (.wlputAnswer id k) s = .next t ∧ t = { s with blocks := t.blocks, launches := s.launches.set id sent {} } ∧
          Claims.waveBecomes s t x.uid x.wid (w.wlAnswered x.slot x.lane false)) ∧
      (l.quiet = false → l.itemWaits k x = false → s.released x.uid x.wid x.lane 2 = true →
        s.depsOf (tkey x.uid x.wid x.lane) = [] →
        (l.lists.get x.vcid []).length < 2 ^ s.listLog l → (∀ g ∈ l.getters, g.vcid ≠ x.vcid) →
        ∃ t, exec (.wlputAnswer id k) s = .next t ∧
          Claims.waveBecomes s t x.uid x.wid (w.wlAnswered x.slot x.lane true) ∧ t.wv = s.wv ∧ t.jobs = s.jobs ∧
          t.launch id = { sent with lists := l.lists.set x.vcid (l.lists.get x.vcid [] ++ [x.item]) [], heads := (t.launch id).heads } ∧
          ∀ o, o ≠ id → t.launch o = s.launch o)) ∧
    (∀ id : Nat,
      let l := s.launch id
      l.quiet = false → l.ownsArea = true → l.lists = [] → l.inFlight = [] → l.workers ≠ [] →
      (∀ e ∈ l.workers, s.workerRests e.1 e.2 = true) → (∀ g ∈ l.getters, Claims.stands s g.uid g.wid) →
      ∃ t, exec (.launchQuiet id) s = .next t ∧
        t = { s with blocks := t.blocks, launches := s.launches.set id { l with quiet := true, getters := [] } {} } ∧
        ∀ g ∈ l.getters, ∀ r ∈ ((t.wave g.uid g.wid).slot g.slot).reqs, r.lane = g.lane → r.val = some [0, 0, 1]) ∧
    (∀ id n : Nat,
      let l := s.launch id
      l.rcd.det = true → leastId (s.tokens id l.rcd.waves) = some n → l.token ≠ some n →
      ∃ t, exec (.commitTokenHandoff id) s = .next t ∧
        t = { s with launches := s.launches.set id { l with token := some n } {}, maint := t.maint }) ∧
    (∀ (k : Nat) (m : AmMsg), s.ams[k]? = some m → s.depsDone m.deps = true →
      (∀ e ∈ s.ams.take k, e.uid ≠ m.uid ∨ e.wid ≠ m.wid ∨ e.pid ≠ m.pid ∨ e.dieid ≠ m.dieid ∨ e.vcid ≠ m.vcid ∨ e.ctxn ≠ m.ctxn ∨
        e.inbox ≠ m.inbox) →
      (∀ key cap, s.amDest m = some (key, cap) → (s.inbox key).length < cap → (∀ w ∈ s.amWaits, w.key ≠ key) →
        exec (.amArrival k) s = .next { s with
          ams := s.ams.eraseIdx k
          inboxes := s.inboxes.set key (s.inbox key ++ [⟨m.w0, m.w1, m.from_, m.scope, m.deps⟩]) [] }) ∧
      (∀ key cap j, s.amDest m = some (key, cap) → cap ≤ (s.inbox key).length → s.job m.jctxn m.jhandle m.jnum = some j →
        exec (.amArrival k) s = .next { s with
          ams := s.ams.eraseIdx k
          jobs := s.jobs.map fun i => if i.is m.jctxn m.jhandle m.jnum then j.failLane m.lane 11 else i }) ∧
      (∀ j, s.amDest m = none → s.job m.jctxn m.jhandle m.jnum = some j →
        ∃ t, exec (.amArrival k) s = .next t ∧ t.ams = s.ams.eraseIdx k ∧ t.blocks = s.blocks ∧ t.mem = s.mem ∧
          t.jobs = s.jobs.map fun i => if i.is m.jctxn m.jhandle m.jnum then j.failLane m.lane 12 else i)) ∧
    (∀ (c h n : Nat) (j : Job), s.job c h n = some j → j.work = .amsend → (∀ m ∈ s.ams, m.jctxn ≠ c ∨ m.jhandle ≠ h ∨ m.jnum ≠ n) →
      exec (.amsendJobRetire c h n) s = .next { s with
        jobs := s.jobs.filter (fun i => !i.is c h n)
        eng := s.eng.set (c * 1024 + h)
          ((if j.status = 0 then s.engAt c h else (s.engAt c h).fail n j.status j.errAddr).finish n) {} })

namespace Sys2Proof.Claims

/-- Every member of a route has issued its operation of an instance, their releases are performed, and no earlier instance is incomplete (R319). -/
def instanceReady (s : State) (pid route inst : Nat) : Prop :=
  (∀ m < (s.route pid route).members.length, ∃ o ∈ s.instOps pid route inst, o.member = m) ∧ s.instOps pid route inst ≠ [] ∧
    (∀ o ∈ s.instOps pid route inst, s.depsDone o.deps = true) ∧
    ∀ o ∈ s.fab, o.pid = pid → o.route = route → inst ≤ o.inst

end Sys2Proof.Claims

/-- R123, R315, R319 to R323: while a destination of a well-formed instance that is ready lacks a line, a line arrives at such a destination, with the root's words or
the route's combination; once all are there, or where it is not well formed, it completes for every participant, with status 0 or 10: its operations are gone,
the jobs of `csend` and `cred` retire, every lane of a `crecv` is answered with the status.
The order of the lines is free (log entry 103). -/
def Obligations.FabricInstanceResult : Prop :=
  ∀ (s : State) (pid route inst : Nat), Claims.instanceReady s pid route inst → s.cur.on = false →
    let r := s.route pid route
    let ops := s.instOps pid route inst
    let status := if wellFormedInst r ops = true then 0 else 10
    ops.Pairwise (fun a b => a.uid ≠ b.uid ∧ a.ctxn * 1024 + a.handle ≠ b.ctxn * 1024 + b.handle) →
    (∀ o ∈ ops, o.kind ≠ .crecv → (s.job o.ctxn o.handle o.num).isSome = true) →
    (∀ o ∈ ops, o.wid < (s.block o.uid).waves.length) →
    (wellFormedInst r ops = true → (∃ o ∈ ops, o.landed = false) → (∀ o ∈ ops, o.start % 4 = 0) →
      ∃ t, ∃ o ∈ ops, o.landed = false ∧ exec (.fabricInstanceComplete pid route inst) s = .next t ∧
        t = { s with picks := s.picks + 1, fab := s.fab.map (fun p => if p = o then { p with got := p.got + 1 } else p), blocks := t.blocks } ∧
        (∀ u, u ≠ o.uid → t.block u = s.block u) ∧
        (∀ w < o.len, (o.start + 4 * w) / 192 = o.start / 192 + o.got →
          (t.block o.uid).spmBytes (o.start + 4 * w) 4 = leBytes (s.instWord r ops w).toNat 4) ∧
        ∀ k, k / 192 ≠ o.start / 192 + o.got → (t.block o.uid).spm.get k 0 = (s.block o.uid).spm.get k 0) ∧
    (wellFormedInst r ops = false ∨ (∀ o ∈ ops, o.landed = true) →
    ∃ t, exec (.fabricInstanceComplete pid route inst) s = .next t ∧
      t = { s with
        blocks := t.blocks, jobs := t.jobs, eng := t.eng, stale := t.stale, observed := t.observed
        fab := s.fab.filter (fun o => !(o.pid == pid && o.route == route && o.inst == inst)) } ∧
      (∀ o ∈ ops, o.kind ≠ .crecv → t.job o.ctxn o.handle o.num = none ∧
        t.engAt o.ctxn o.handle = (if status = 0 then s.engAt o.ctxn o.handle
          else (s.engAt o.ctxn o.handle).fail o.num 10 0).finish o.num) ∧
      (∀ o ∈ ops, o.kind = .crecv → ∀ q ∈ ((t.wave o.uid o.wid).slot o.slot).reqs, laneIn o.lanes q.lane = true →
        q.val = some [BitVec.ofNat 32 status]))

/-! ### Steps of the matrix unit and the engines (11, 12, 17) -/

/-- R103, R255, R258, R260 to R263, R265: the oldest queued operation of a quarter is performed and leaves the queue: a tile is cleared, loaded, or every element takes the
sums of the steps in order, each rounded once; a store to registers replies a column to each lane; a store to a buffer keeps the tile that it read, and its
bytes are then written, row by row, and the buffer held no longer. A start phase whose checks are made and whose lines are present ends.
The sign of a Q4 zero in a product is the model's reading (log entry 131). -/
def Obligations.MatrixUnitResult : Prop :=
  ∀ (s : State) (k : Nat),
    (∀ (front back : List MEntry) (e : MEntry), s.mq k = front ++ e :: back → (∀ x ∈ front, x.sampled.isSome = true) → e.sampled = none →
      Claims.stands s e.uid e.wid →
      let w := s.wave e.uid e.wid
      let left := fun (l : List MEntry) (t : State) => t = { s with blocks := t.blocks, mqueue := s.mqueue.set k l [] }
      let tile := fun (t : State) (f : Nat → Nat → W32) =>
        left (front ++ back) t ∧ (∀ i < 48, ∀ j < 48, ∀ n, (t.wave e.uid e.wid).accAt n i j = if n = e.tile then f i j else w.accAt n i j) ∧
        (t.wave e.uid e.wid).v = w.v ∧ ∀ u, u ≠ e.uid → t.block u = s.block u
      (e.op = .zero → ∃ t, exec (.matrixOpComplete k) s = .next t ∧ tile t (fun _ _ => 0)) ∧
      (∀ rows, e.op = .load rows → ∃ t, exec (.matrixOpComplete k) s = .next t ∧ tile t (fun i j => (rows.getD i []).getD j 0)) ∧
      (∀ z fa fb ss, e.op = .steps z fa fb ss → ∃ t, exec (.matrixOpComplete k) s = .next t ∧
        tile t (fun i j => ss.foldl (fun x p => dotStep x
          (groupSum fa (((p.1.map (·.map (mVal fa))).getD i [])) ((p.2.map (·.map (mVal fb))).getD j []))) (if z then 0 else w.accAt e.tile i j))) ∧
      (∀ n, e.op = .storeReg n → ∃ t, exec (.matrixOpComplete k) s = .next t ∧ left (front ++ back) t ∧
        Claims.waveBecomes s t e.uid e.wid { w with slots := w.slots.set n { w.slot n with reqs := (w.slot n).reqs.map fun q =>
          { q with val := some ((List.range 48).map fun r => w.accAt e.tile r q.lane) } } {} }) ∧
      (∀ id off t ty sat, e.op = .storeBuf id off t ty sat →
        exec (.matrixOpComplete k) s = .next { s with mqueue := s.mqueue.set k (front ++ { e with
          sampled := some ((List.range 48).flatMap fun i => (List.range 48).map fun j => w.accAt e.tile i j) } :: back) [] })) ∧
    (∀ (front back : List MEntry) (e : MEntry) (ws : List W32) (id off t ty : Nat) (sat : Bool),
      s.mq k = front ++ e :: back → (∀ x ∈ front, x.sampled = none) → e.sampled = some ws → e.op = .storeBuf id off t ty sat →
      ty ∈ [1, 2, 3, 4, 8] → 48 * elemSize ty ≤ t → s.cur.on = false → ws.length = 2304 →
      let b := s.block e.uid
      ∃ u, exec (.mstBufferComplete k) s = .next u ∧ u = { s with blocks := u.blocks, mqueue := s.mqueue.set k (front ++ back) [] } ∧
        u.block e.uid = { b with spm := (u.block e.uid).spm, spmMarks := (u.block e.uid).spmMarks, bufs := b.bufs.set id { b.buf id with heldN := (b.buf id).heldN - 1 } {} } ∧
        (∀ i < 48, ∀ j < 48,
          (u.block e.uid).spmBytes ((b.buf id).offset + (off + i * t) + j * elemSize ty) (elemSize ty) = mstBytes ty sat (ws.getD (48 * i + j) 0)) ∧
        ∀ v, v ≠ e.uid → u.block v = s.block v) ∧
    (∀ uid wid : Nat, exec (.streamStartPhaseEnd uid wid) s = .next { s with starts := s.starts.map fun p =>
      if p.uid = uid ∧ p.wid = wid ∧ p.checked = true ∧ (∀ x ∈ p.lines, (s.block uid).lineIn x.1 = true) then { p with done := true } else p })

namespace Sys2Proof.Claims

/-- No register line stands at `n` bytes of image memory from `pa` (R364). -/
def clearOf (s : State) (pa n : Nat) : Prop := ∀ k < n, s.imageLineAt (pa + k) = none

/-- No register line stands where a pair job reads global memory. -/
def pairClear (s : State) (j : Job) (r : PairRec) : Prop :=
  ∀ e ∈ r.reads, e.1 = true → ∀ p ∈ pageParts e.2.1 e.2.2, ∀ x, j.pin p.1 = some x → noLine s (x.pa p.1) p.2

/-- A job of context `c`, handle `h` has retired with a status: its number is done, a nonzero status is recorded (R151, R282). -/
def retired (s t : State) (c h n status : Nat) (addr : W64) : Prop :=
  t.jobs = s.jobs.filter (fun i => !i.is c h n) ∧
    t.eng = s.eng.set (c * 1024 + h)
      ((if status = 0 then s.engAt c h else (s.engAt c h).fail n status addr).finish n) {}

/-- A job has become `j`; no other has changed. -/
def jobBecomes (s t : State) (j : Job) : Prop :=
  t.jobs = s.jobs.map fun i => if i.is j.ctxn j.handle j.num then j else i

/-- The `n` elements of a job from a buffer of its block go to clear pages of module HBM at `pa`, disjoint, in no reserved place, and with no register
line there, at a scope of `pkg` or wider. -/
def outward (s : State) (j : Job) (d : CopyDesc) (ss ds n : Nat) (pa : Nat → Nat) : Prop :=
  d.sbuf = true ∧ d.dbuf = false ∧ 3 ≤ j.scope ∧ s.ucopies = [] ∧ s.cur.on = false ∧
    (∀ i < n, ∃ va e, j.pinned d true ds i = some (.mem va e) ∧ e.pa va = pa i ∧ leafKey e.leaf = 0 ∧ isHbm (pa i) = true ∧ s.lands (pa i) = true ∧
      noLine s (pa i) ds ∧ s.engHeld (pa i) ds = false ∧ s.reservedAt j true (.mem va e) = false) ∧
    (∀ i < n, ∀ p, j.pinned d false ss i = some p → s.reservedAt j false p = false) ∧
    ∀ i < n, ∀ k < n, i ≠ k → pa i + ds ≤ pa k ∨ pa k + ds ≤ pa i

/-- The bytes of element `i` in the source buffer. -/
def sourceBytes (s : State) (j : Job) (d : CopyDesc) (ss i : Nat) : List Byte :=
  (s.block j.uid).bufBytes (opId d.src) ((opOff d.src : Int) + d.rel false j.idx ss i).toNat ss

end Sys2Proof.Claims

/-- R123, R125, R127, R276, R278: a copy job whose release is performed starts: its pages pinned, or with the first status that it fails. A sector of a fill arrives: its elements are
written, converted, and counted. A job from a buffer to memory writes each of its elements, converted, and retires with status 0; a failed one retires with its status and moves nothing.
A copy that fills no buffer moves its elements in one step (log entry 44). -/
def Obligations.CopyJobResult : Prop :=
  ∀ (s : State) (c h n : Nat) (j : Job) (d : CopyDesc), s.job c h n = some j → j.work = .copy d →
    let st := (s.sideType j d false).1
    let dt := (s.sideType j d true).1
    (∀ idx, j.phase = .queued → s.depsDone j.deps = true → s.readIdx j d = some (.ok idx) →
      let k := { j with idx := idx }
      let r := s.copyStatus k d
      (r.1 ≠ 0 →
        ∃ t, exec (.copyJobStart c h n) s = .next t ∧ t = { s with jobs := t.jobs } ∧
          Claims.jobBecomes s t { k with phase := .started, status := r.1, errAddr := r.2 }) ∧
      (r.1 = 0 → (d.op ≠ 2 ∨ d.dbuf = false) →
        ∃ t, exec (.copyJobStart c h n) s = .next t ∧ t = { s with jobs := t.jobs, tlb := (s.keepPins (s.copyPins k d)).tlb } ∧
          Claims.jobBecomes s t { k with phase := .started, status := 0, errAddr := r.2, pins := s.copyPins k d })) ∧
    (j.phase = .queued → s.depsDone j.deps = true → ∀ e, s.readIdx j d = some (.error e) →
      ∃ t, exec (.copyJobStart c h n) s = .next t ∧ t = { s with jobs := t.jobs } ∧
        Claims.jobBecomes s t { j with phase := .started, status := e, errAddr := bufBad d.idxId d.idxOff }) ∧
    (j.phase = .started → j.status ≠ 0 → j.moved = false → d.sbuf = false → d.dbuf = false → (∀ w ∈ s.writes, w.id < s.nextWrite) →
      ∃ t, exec (.copyJobRetire c h n) s = .next t ∧ Claims.retired s t c h n j.status j.errAddr ∧ t.mem = s.mem ∧ t.writes = s.writes ∧
        ∀ u, t.block u = s.block u) ∧
    (∀ pa, j.phase = .started → j.status = 0 → j.moved = false → (∀ w ∈ s.writes, w.id < s.nextWrite) → Claims.outward s j d (elemSize st) (elemSize dt) d.total pa → (∀ i ∈ s.jobs, i.is c h n → i = j) →
      ∃ t, exec (.copyJobRetire c h n) s = .next t ∧ Claims.retired s t c h n 0 0 ∧
        (∀ i < d.total, t.homeBytes (pa i) (elemSize dt) =
          leBytes (convElem st dt (leNat (Claims.sourceBytes s j d (elemSize st) i)) (d.op == 3)) (elemSize dt)) ∧
        (∀ p, (∀ i < d.total, p < pa i ∨ pa i + elemSize dt ≤ p) → t.homeByte p = s.homeByte p) ∧
        ∀ u, t.block u = if u = j.uid then (s.block j.uid).copyOutDone (opId d.src) else s.block u) ∧
    (∀ (sector : Nat) (src : Nat → TlbE × Nat), j.phase = .started → j.status = 0 → d.dbuf = true → d.sbuf = false → j.arrived.contains sector = false →
      s.ucopies = [] → s.cur.on = false → j.dbuf.decl = true → (∀ i ∈ s.jobs, i.is c h n → i = j) →
      let es := (List.range d.total).filter (fun i => d.sectorOf j (elemSize dt) i == sector)
      let at_ := fun (i : Nat) => ((opOff d.dst : Int) + d.rel true j.idx (elemSize dt) i).toNat
      es ≠ [] →
      (∀ i ∈ es, j.pinned d false (elemSize st) i = some (.mem (src i).2 (src i).1) ∧ leafKey (src i).1.leaf = 0 ∧
        (s.engBytes j.die ((src i).1.pa (src i).2) (elemSize st)).2 = false ∧
        Claims.noLine s ((src i).1.pa (src i).2) (elemSize st) ∧ s.reservedAt j false (.mem (src i).2 (src i).1) = false ∧
        s.reservedAt j true (.buf (opId d.dst) (at_ i)) = false) →
      (∀ i ∈ es, ∀ k ∈ es, i ≠ k → at_ i + elemSize dt ≤ at_ k ∨ at_ k + elemSize dt ≤ at_ i) →
      ∃ t, exec (.fillSectorArrival c h n sector) s = .next t ∧ Claims.jobBecomes s t { j with arrived := j.arrived ++ [sector] } ∧
        t.mem = s.mem ∧ t.eng = s.eng ∧
        (∀ i ∈ es, (t.block j.uid).spmBytes (j.dbuf.offset + at_ i) (elemSize dt) =
          leBytes (convElem st dt (leNat (s.engBytes j.die ((src i).1.pa (src i).2) (elemSize st)).1) (d.op == 3)) (elemSize dt)) ∧
        (let u := (s.block j.uid).buf (opId d.dst)
        let v := (t.block j.uid).buf (opId d.dst)
        let left := u.bytes - elemSize dt * es.length
        if s.fillStale j (opId d.dst) = true then v = u
        else v.bytes = left ∧ v.state = if left = 0 then .full else .filling))

/-- R279, R280, R285, R299, R300, R389: a chain job from a buffer to memory writes its elements through the chain and retires; one that fails a check retires with that status. A pair
job is started in its turn, and goes on at its cursor once resumed; it is suspended where an accumulator would saturate, with PAIR_SAT held for its block, or abandoned once its
partition stops (9), or aborted while it is reset (8), and retires when its last pair is done or an operand of it cannot be read. An invalidation drops its
entries, and retires once nothing that they translated stands.
A resumed pair job has its own table again (log entry 98). -/
def Obligations.EngineEventResult : Prop :=
  ∀ (s : State) (c h n : Nat) (j : Job), s.job c h n = some j →
    (∀ x, j.work = .chain x → j.moved = false → s.depsDone j.deps = true → s.chainSource j x.copy = none →
      let d := x.copy
      let k := { j with pins := s.copyPins j d }
      ((s.chainStatus j d).1 ≠ 0 → d.dbuf = false →
        ∃ t, exec (.chainJobRetire c h n) s = .next t ∧ Claims.retired s t c h n (s.chainStatus j d).1 (s.chainStatus j d).2 ∧
          t = { s with jobs := t.jobs, eng := t.eng }) ∧
      (∀ pa, (s.chainStatus j d).1 = 0 → s.destHeld k d (elemSize (s.sideType k d true).1) = false →
        let p := s.keepPins k.pins
        let st := (p.sideType k d false).1
        let dt := (p.sideType k d true).1
        Claims.outward p k d (elemSize st) (elemSize dt) d.total pa →
        (∀ w ∈ s.writes, w.id < s.nextWrite) →
        ∃ t, exec (.chainJobRetire c h n) s = .next t ∧ Claims.retired s t c h n 0 0 ∧
          (∀ i < d.total, t.homeBytes (pa i) (elemSize dt) =
            leBytes (x.elem st dt (leNat (Claims.sourceBytes s k d (elemSize st) i))) (elemSize dt)) ∧
          (∀ p, (∀ i < d.total, p < pa i ∨ pa i + elemSize dt ≤ p) → t.homeByte p = s.homeByte p) ∧ ∀ u, t.block u = s.block u)) ∧
    (∀ r cur quad, j.work = .pair r cur → s.ucopies = [] →
      let served := { s.pairEng.get quad {} with lastCore := coreInQuad j.tile }
      (s.pairPick quad = some j → s.pairBusy quad = false → s.depsDone j.deps = true → s.pairLines j r = true →
        (cur = none → (s.pairPages j r).2 = [] →
          let k := { j with phase := .started, pins := (s.pairPages j r).1 }
          let load := s.loadTable k r served
          let res := if load.2.1 = 0 then s.cellStatus k r else load.2
          Claims.pairClear s k r →
          ∃ t, exec (.pairJobStart quad) s = .next t ∧ t = { s with jobs := t.jobs, eng := t.eng, pairEng := t.pairEng, tlb := (s.keepPins k.pins).tlb } ∧
            Claims.jobBecomes s t { k with status := res.1, errAddr := res.2, table := (load.1.header, load.1.coefs) } ∧
            t.pairEng = s.pairEng.set quad load.1 {} ∧
            t.eng = s.eng.set (c * 1024 + h) { s.engAt c h with pairs := 0, tested := 0 } {}) ∧
        (cur.isSome = true →
          ∃ t, exec (.pairJobStart quad) s = .next t ∧ Claims.jobBecomes s t { j with phase := .started } ∧
            t = { s with
              jobs := t.jobs
              pairEng := s.pairEng.set quad { served with storePid := some j.pid, header := j.table.1, coefs := j.table.2 } {} })) ∧
      (j.phase = .started → j.status = 0 → s.cur.on = false → Claims.pairClear s j r →
        let x := s.pairRun j r cur
        let e := { s.engAt c h with pairs := x.pairs, tested := x.tested }
        (∀ at_, x.fin = .sat at_ → (s.resetting.contains j.pid = true ∨ s.qstate j.pid ∈ [3, 4, 5, 6]) →
          ∃ t, exec (.pairJobSuspend c h n) s = .next t ∧ t = { s with jobs := t.jobs, eng := t.eng, blocks := t.blocks } ∧
            t.jobs = s.jobs.filter (fun i => !i.is c h n) ∧
            t.engAt c h = (e.fail n (if s.resetting.contains j.pid = true then 8 else 9) 0).finish n ∧
            Claims.blockBecomes s t j.uid (r.holds.foldl Block.unholdBuf x.b)) ∧
        (∀ a, x.fin = .error a →
          ∃ t, exec (.pairJobRetire c h n) s = .next t ∧ t.jobs = s.jobs.filter (fun i => !i.is c h n) ∧
            t.engAt c h = (e.fail n 7 a).finish n ∧ Claims.blockBecomes s t j.uid (r.holds.foldl Block.unholdBuf x.b)) ∧
        (∀ at_, x.fin = .sat at_ → s.resetting.contains j.pid = false → s.qstate j.pid ∉ [3, 4, 5, 6] →
          ∃ t, exec (.pairJobSuspend c h n) s = .next t ∧ t = { s with jobs := t.jobs, eng := s.eng.set (c * 1024 + h) e {}, blocks := t.blocks } ∧
            Claims.jobBecomes s t { j with phase := .suspended, work := .pair r (some at_) } ∧
            Claims.blockBecomes s t j.uid { x.b with held := x.b.held ++ [⟨.pairSat, j.wid, BitVec.ofNat 64 (h + n % 2 ^ 48 * 2 ^ 16)⟩] }) ∧
        (x.fin = .going →
          ∃ t, exec (.pairJobRetire c h n) s = .next t ∧
            t = { s with
              jobs := s.jobs.filter (fun i => !i.is c h n)
              eng := t.eng
              blocks := t.blocks } ∧
            t.engAt c h = e.finish n ∧ Claims.blockBecomes s t j.uid (r.holds.foldl Block.unholdBuf x.b))) ∧
      (j.phase = .started → j.status ≠ 0 → s.cur.on = false →
        ∃ t, exec (.pairJobRetire c h n) s = .next t ∧ Claims.retired s t c h n j.status j.errAddr ∧
          Claims.blockBecomes s t j.uid (r.holds.foldl Block.unholdBuf (s.block j.uid)))) ∧
    (∀ kind va m, j.work = .tlbinv kind va m →
      (j.phase = .queued → s.depsDone j.deps = true → s.ucopies = [] →
        ∃ t, exec (.tlbinvJobComplete c h n) s = .next t ∧ t.tlb = s.tlb.filter (fun e => !s.tlbDrops j e) ∧ t.mem = s.mem ∧ t.writes = s.writes ∧
          ∃ k : Job, k.ctxn = j.ctxn ∧ k.handle = j.handle ∧ k.num = j.num ∧ k.phase = .started ∧ k.work = j.work ∧ Claims.jobBecomes s t k) ∧
      (j.phase = .started → s.tlbWaits j = false → (kind ≠ 0 ∨ s.migrate m va = some s) →
        ∃ t, exec (.tlbinvJobComplete c h n) s = .next t ∧ Claims.retired s t c h n 0 0 ∧ t = { s with jobs := t.jobs, eng := t.eng, leaving := t.leaving }))

/-! ### Swaps, stops and timers of blocks (02, 16, 18) -/

namespace Sys2Proof.Claims

/-- An event of a partition on a die has been told: EVLAST of its slot there holds the event's two words (R408). -/
def told (s t : State) (pid die w0 w1 : Nat) : Prop :=
  ∀ n, s.pslot die pid = some n → t.reg (partReg die n 0x38) = BitVec.ofNat 64 (w1 % 2 ^ 32 * 2 ^ 32 + w0 % 2 ^ 32)

/-- The second word of an event about a block, beside its code (R408). -/
def eventTag (b : Block) (code : Nat) : Nat := code + b.ctxn % 4096 * 2 ^ 8 + b.gen % 4096 * 2 ^ 20

end Sys2Proof.Claims

/-- R43: a wave leaves the active set where a pending wave waits for its place; a forced swap sends out the one that has held its slot longest; a free place goes to the pending
wave that has been ready longest. R243, R300, R357, R358: a held cause is taken, the least code first, and its wave stops; the broadcast reaches the other waves; a wave that stops
waits for no semaphore that it was not granted. R359 to R363, R376, R380: a block whose waves and operations have stopped takes the state that its stop asks for, SEALED where a
stopped wave still asks so, and no wave waits for that stop any longer. R377: an idle wave wakes at its time. R407: each timer tells its event once. -/
def Obligations.BlockEventResult : Prop :=
  ∀ s : State, s.cur.on = false →
    (∀ uid wid : Nat,
      let w := s.wave uid wid
      let k := s.quarterOf uid wid
      w.active = true → w.ended = false → wid < (s.block uid).waves.length → 8 - (s.activeOf k).length < (s.pendingOf k).length →
      ∃ t, exec (.waveSwap uid wid) s = .next t ∧ t = { s with blocks := t.blocks } ∧
        Claims.waveBecomes s t uid wid { w with active := false, readySince := none, readyLast := false }) ∧
    (∀ (k : Nat) (e : Nat × Nat), s.longestReady k = some e → (s.activeOf k).length < 8 →
      let t := s.fillSlots k 1
      t = { s with blocks := t.blocks } ∧
        Claims.waveBecomes s t e.1 e.2 { s.wave e.1 e.2 with
          active := true, aslot := (t.wave e.1 e.2).aslot, heldSince := s.clk, readySince := none, readyLast := false }) ∧
    (∀ (q : Nat) (i o : Nat × Nat), s.longestReady q = some i → leastBy (fun e => (s.wave e.1 e.2).heldSince) (s.activeOf q) = some o →
      8 ≤ (s.activeOf q).length → (s.wave i.1 i.2).readySince.getD s.clk + 512 ≤ s.clk →
      (s.forcedAt.get q 0 = 0 ∨ s.forcedAt.get q 0 + 16 ≤ s.clk + 1) →
      ∃ t, exec (.forcedSwap q) s = .next t ∧
        t = { s with blocks := t.blocks, maint := t.maint, forcedAt := s.forcedAt.set q (s.clk + 1) 0 } ∧
        Claims.waveBecomes s t o.1 o.2 { s.wave o.1 o.2 with active := false, readySince := some s.clk, readyLast := false }) ∧
    (∀ (uid : Nat) (h : HeldCause),
      let b := s.block uid
      let w := s.wave uid h.wid
      b.nextHeld = some h → b.state = .running → b.stopping = .no → b.resident = true → h.wid < b.waves.length → w.ended = false →
      (∀ key n x, w.waiting = .semaphore key n false x →
        ∃ t, exec (.asyncCauseTake uid) s = .next t ∧ (t.wave uid h.wid).stopped = true ∧ (t.wave uid h.wid).waiting = .none ∧
          (t.block uid).stopping = .trap ∧ ∀ e ∈ (t.sem key).waits, ¬ (e.1 = uid ∧ e.2.1 = h.wid)) ∧
      ((∀ key n x, w.waiting ≠ .semaphore key n false x) →
      ∃ t, exec (.asyncCauseTake uid) s = .next t ∧ t = { s with blocks := t.blocks } ∧
        Claims.blockBecomes s t uid { b with
          held := b.held.erase h
          stopping := .trap
          causeWave := some h.wid
          broadcast := false
          haltClk := none
          waves := b.waves.set h.wid { w with
            ecause := ecauseWord h.cause false 0
            epc := BitVec.ofNat 64 w.lowPc
            ebad := h.ebad
            skid := 0
            stopped := true
            skidding := false
            parked := [] } })) ∧
    (∀ uid : Nat,
      let b := s.block uid
      s.preemptible b = true →
      (b.state = .running →
        ∃ t, exec (.preempt uid) s = .next t ∧ t = { s with blocks := t.blocks } ∧
          Claims.blockBecomes s t uid { b with stopping := .preempt, broadcast := false, causeWave := none }) ∧
      (b.state = .halted → s.satHeld uid = false →
        ∃ t, exec (.preempt uid) s = .next t ∧
          Claims.blockBecomes s t uid { b with stopping := .no, broadcast := false, resident := false })) ∧
    (∀ (uid : Nat) (keep : List Nat),
      let b := s.block uid
      b.state = .running → b.stopping ≠ .no → b.broadcast = false →
      (∀ i < b.waves.length, ∀ key n x, (s.wave uid i).waiting ≠ .semaphore key n false x) →
      ∃ t, exec (.blockHalt uid keep) s = .next t ∧ t = { s with blocks := t.blocks } ∧
        t.block uid = { b with broadcast := true, waves := (t.block uid).waves } ∧ (t.block uid).waves.length = b.waves.length ∧
        (∀ i < b.waves.length, t.wave uid i =
          let w := s.wave uid i
          if w.stopped = true ∨ w.ended = true then w
          else if i ∈ keep ∧ w.maySkid = true then { w with skidding := true, skid := 0 }
          else { w with stopped := true, skidding := false, skid := 0, ecause := ecauseWord .halted false 0, parked := [] }) ∧
        ∀ u, u ≠ uid → t.block u = s.block u) ∧
    (∀ uid : Nat,
      let b := s.block uid
      let asked := ∃ u ∈ s.uids, ∃ w ∈ (s.block u).waves, w.stopped = true ∧ w.waiting = .target uid true
      s.isStopped uid = true → s.satHeld uid = false →
      (asked → b.stopping ≠ .kill →
        ∃ t, exec (.blockStopped uid) s = .next t ∧ (t.block uid).state = .sealedImg ∧ (t.block uid).resident = false) ∧
      (¬ asked →
      ∃ t, exec (.blockStopped uid) s = .next t ∧
        (t.block uid).state = (match b.stopping with
          | .trap => .halted
          | .halt => .halted
          | .preempt => .swapped
          | .preemptHalt => .halted
          | .sealing => .sealedImg
          | _ => .running) ∧
        (t.block uid).stopping = .no ∧ (t.block uid).broadcast = false ∧ (t.block uid).resident = (b.resident && !b.stopping.moves) ∧
        (∀ u i x, (t.wave u i).waiting ≠ .target uid x) ∧ ∀ u, u ≠ uid → (t.block u).state = (s.block u).state)) ∧
    (∀ uid wid n : Nat,
      let w := s.wave uid wid
      w.waiting = .idle n → n ≤ s.time → wid < (s.block uid).waves.length →
      ∃ t, exec (.idleTimeReached uid wid) s = .next t ∧ t = { s with blocks := t.blocks } ∧
        Claims.waveBecomes s t uid wid { w with waiting := .targetDone }) ∧
    (∀ uid : Nat,
      let b := s.block uid
      let only := fun (t : State) => t = { s with blocks := t.blocks, maint := t.maint, inboxes := t.inboxes, msix := t.msix, irqs := t.irqs }
      (b.stallCounts = true → b.wdFired = false → s.overLimit b.stall (field (s.preg b.die b.pid 8) 47 0) = true →
        ∃ t, exec (.watchdog uid) s = .next t ∧ only t ∧ Claims.blockBecomes s t uid { b with wdFired := true } ∧
          Claims.told s t b.pid b.die (Claims.eventTag b 1) b.bid) ∧
      (∀ wid n : Nat, (s.wave uid wid).extSince = some n → (s.wave uid wid).extFired = false → wid < b.waves.length →
        s.overLimit (s.clk - n) (field (s.preg b.die b.pid 0x10) 47 0) = true →
        ∃ t, exec (.externalStall uid wid) s = .next t ∧ only t ∧
          Claims.waveBecomes s t uid wid { s.wave uid wid with extFired := true } ∧
          Claims.told s t b.pid b.die (Claims.eventTag b 2) b.bid) ∧
      (field (s.preg b.die b.pid 0) 23 16 ≠ 0 → field (s.preg b.die b.pid 0) 23 16 ≤ b.repCount → b.repFired = false →
        ∃ t, exec (.repeatTrap uid) s = .next t ∧ only t ∧ Claims.blockBecomes s t uid { b with repFired := true } ∧
          Claims.told s t b.pid b.die (Claims.eventTag b 3) b.bid))

/-! ### Queues, placement, partitions (18, 17, 19) -/

namespace Sys2Proof.Claims

/-- The registers of a list hold the values beside them, every other what it held, and nothing else has changed. -/
def regsBecome (s t : State) (l : List (Nat × W64)) : Prop :=
  t = { s with maint := t.maint } ∧ ∀ a, t.reg a = ((l.find? (fun e => e.1 == a)).map (·.2)).getD (s.reg a)

/-- A write reaches its register with every reserved field and every RO field zero (R5, R6). -/
def plain (a : Nat) (via : Via) (v : W64) : Prop := writeOk a v = true ∧ writesRo a via v = false

/-- A write of a slot's register comes so that it reaches it (R396, R440). -/
def slotOpen (s : State) (via : Via) (die pslot : Nat) : Prop := s.viaReaches via die pslot = true ∧ s.vfShut via = false

/-- The state register of a queue with STATE and CODE. -/
def queueState (s : State) (r : QRef) (st code : Nat) : W64 := withField (withField (s.reg (r.reg 0x20)) 1 0 st) 15 8 code

/-- What an event may change. -/
def telling (s t : State) : Prop := t = { s with maint := t.maint, inboxes := t.inboxes, msix := t.msix, irqs := t.irqs }

/-- Every slot that a partition holds is one of a die's 64 (R396). -/
def slotsSmall (s : State) : Prop := ∀ d p n, s.pslot d p = some n → n < 64

/-- A partition stands in a state, with DONE, and no register but its PSTATE has changed. -/
def stateIs (s t : State) (pid st : Nat) (done : Bool) : Prop :=
  t.qstate pid = st ∧ t.quiesceDone pid = done ∧ ∀ a, a ≠ partCtl pid 0 → t.reg a = s.reg a

end Sys2Proof.Claims

/-- R397, R398, R408: QTAIL takes a value that leaves at most N records; QCTL starts an empty queue, stops it, skips a record, or runs again. R400: the record at HEAD is
taken as a launch, or stops its queue with the code of its first failing check. R32 to R34, R401, R402: a block of the first launch goes to its best core; an ended block frees
its resources; a complete launch increases its timeline and DONE. R405, R406: a drone record starts its block, or DRONE_BAD is told. R418: a packet leaves a router by its first matching detour, else in x, then in y. R313, R419, R420: a dropped flit
is logged.
Log entries 16 (codes of DRONE_BAD), 17 (place of an image), 62 (one drone at a time), 78 (answers to drops) and 127 (suspended jobs of a killed block) are the model's. -/
def Obligations.DispatchEventResult : Prop :=
  ∀ s : State, s.cur.on = false →
    (∀ (via : Via) (die pslot q : Nat) (v : W64),
      let r : QRef := ⟨die, pslot, q⟩
      Claims.slotOpen s via die pslot →
      (Claims.plain (r.reg 0x18) via v → s.qdev r = false → (v.toNat + 2 ^ 32 - s.qhead r) % 2 ^ 32 ≤ 2 ^ s.qlog2n r →
        (v.toNat + 2 ^ 32 - s.qtail r) % 2 ^ 32 ≤ 2 ^ s.qlog2n r →
        ∃ t, exec (.qtailWrite via die pslot q v) s = .next t ∧ Claims.regsBecome s t [(r.reg 0x18, v)]) ∧
      (Claims.plain (r.reg 0) via v → s.qctlOk r v = true →
        let ctl := (r.reg 0, s.written (r.reg 0) via v)
        (s.qen r = false → v.getLsbD 0 = true → v.getLsbD 3 = false → v.getLsbD 4 = false →
          ∃ t, exec (.queueEnable via die pslot q v) s = .next t ∧
            Claims.regsBecome s t [ctl, (r.reg 0x10, 0), (r.reg 0x18, 0), (r.reg 0x20, Claims.queueState s r 1 0)]) ∧
        (s.qen r = true → v.getLsbD 0 = false → v.getLsbD 3 = false → v.getLsbD 4 = false →
          ∃ t, exec (.queueDisable via die pslot q v) s = .next t ∧
            Claims.regsBecome s t [ctl, (r.reg 0x20, Claims.queueState s r 0 0)]) ∧
        (s.qen r = v.getLsbD 0 → v.getLsbD 3 = true → v.getLsbD 4 = false → s.qstateOf r = 2 →
          ∃ t, exec (.queueSkip via die pslot q v) s = .next t ∧
            Claims.regsBecome s t [ctl, (r.reg 0x10, withField (s.reg (r.reg 0x10)) 31 0 (s.qhead r + 1)),
              (r.reg 0x20, Claims.queueState s r 1 0)]) ∧
        (s.qen r = v.getLsbD 0 → v.getLsbD 3 = false → v.getLsbD 4 = true → s.qstateOf r = 2 →
          ∃ t u, exec (.queueRetry via die pslot q v) s = .next t ∧
            Claims.regsBecome s u [ctl, (r.reg 0x20, Claims.queueState s r 1 0)] ∧
            ∀ pid, s.pidOfSlot die pslot = some pid →
              (u.mayTake pid r = true → exec (.launchTake die pslot q) u = .next t) ∧ (u.mayTake pid r = false → t = u)))) ∧
    (∀ die pslot q pid : Nat,
      let r : QRef := ⟨die, pslot, q⟩
      let bytes := s.ctxBytes die (s.qctxn r) pid (s.qlevel r) (s.slotVa r (s.qhead r)) 192
      let stops := fun (code : Nat) => ∃ t, exec (.launchTake die pslot q) s = .next t ∧ Claims.telling s t ∧ t.qstateOf r = 2 ∧
        t.fld (r.reg 0x20) 15 8 = code % 256 ∧ t.qhead r = s.qhead r ∧ Claims.told s t pid die (4 + q * 2 ^ 8 + code % 256 * 2 ^ 12) (s.qhead r)
      s.pidOfSlot die pslot = some pid → pslot < 64 → q < 16 → s.mayTake pid r = true →
      (bytes = none → stops 0x80) ∧
      (∀ bs bufs code, bytes = some bs → s.recCode die pid (s.qctxn r) (s.qlevel r) bs = (code, bufs) →
        (code ≠ 0 → stops code) ∧
        (code = 0 → ∃ t, exec (.launchTake die pslot q) s = .next t ∧
          t = { s with
            nextUid := s.nextUid + 1
            maint := t.maint
            launches := t.launches } ∧
          (∀ a, t.reg a = if a = r.reg 0x10 then withField (s.reg a) 31 0 (s.qhead r + 1) else s.reg a) ∧
          (∀ k, k ≠ s.nextUid → t.launch k = s.launch k) ∧
          t.launch s.nextUid = {
            uid := s.nextUid
            rcd := LRec.ofBytes bs
            bufs := bufs
            die := die
            pid := pid
            ctxn := s.qctxn r
            level := s.qlevel r
            queue := q
            s2 := BitVec.ofNat 64 (LRec.ofBytes bs).grid
            readySince := s.clk }))) ∧
    (∀ (die pid tile img : Nat) (l : Launch) (ls : List Launch) (qs : List Nat),
      s.qstate pid = 1 → s.placeSwappedDrone die pid = none → s.waitingHandlers die pid = [] → s.placeable die pid = l :: ls →
      s.launch l.uid = l → s.swappedOf l.uid = [] → l.nextBid < l.rcd.grid → l.rcd.det = false →
      s.bestCore (s.occ l.die) l.die l.pid (s.droneShut die pid) l.rcd = some (tile, qs) →
      s.imageRoom l.ctxn l.rcd.imageBytes = some img →
      ∃ t, exec (.blockPlace die pid) s = .next t ∧ t.nextUid = s.nextUid + 1 ∧
        t.launch l.uid = { l with nextBid := l.nextBid + 1, readySince := s.clk } ∧
        (let b := t.block s.nextUid
        b.launch = l.uid ∧ b.bid = l.nextBid ∧ b.ctxn = l.ctxn ∧ b.pid = l.pid ∧ b.level = l.level ∧ b.die = l.die ∧ b.tile = tile ∧
          b.state = .running ∧ b.resident = true ∧ b.imgAt = img ∧ b.waves.map (·.quarter) = qs) ∧
        t.mem = s.mem) ∧
    (∀ uid : Nat,
      let b := s.block uid
      let l := s.launch b.launch
      s.blockOver uid = true →
      let counted := b.state = .lost ∧ b.delivered = true
      ∃ t, exec (.blockEnd uid) s = .next t ∧ t = { s with
          blocks := t.blocks, launches := t.launches, drones := t.drones, jobs := t.jobs, eng := t.eng, msix := t.msix, irqs := t.irqs } ∧
        (b.killed = false → t.jobs = s.jobs ∧ t.eng = s.eng ∧ t.msix = s.msix ∧ t.irqs = s.irqs) ∧
        (b.killed = true → (∀ j ∈ t.jobs, j.uid = uid → j.phase = .suspended → ∀ r c, j.work ≠ .pair r c) ∧
          (s.bound b.pid = true → (s.msixWord (64 * b.pid + 5)).getLsbD 32 = false → (s.msixWord (64 * b.pid + 32)).getLsbD 2 = false →
            t.irqs = s.irqs ++ [(b.pid, 2)])) ∧
        Claims.blockBecomes s t uid { b with state := .ended, resident := false, spm := [], present := [], bufs := [] } ∧
        (∀ k, t.launch k = if k = b.launch then { l with endedN := l.endedN + if counted then 0 else 1 } else s.launch k) ∧
        (b.kind ≠ .drone → t.drones = s.drones) ∧ (b.kind = .drone → (s.drone l.die b.pid).isSome = true → (l.die, b.pid) ∈ t.drones)) ∧
    (∀ k : Nat,
      let l := s.launch k
      (∃ x ∈ s.launches, x.1 = k) → l.endedN = l.rcd.grid → s.launchDrained k = true →
      ∃ t, exec (.launchComplete k) s = .next t ∧ t = { s with blocks := t.blocks, launches := s.launches.erase k, eng := t.eng, maint := t.maint } ∧
        t.eng = (if l.rcd.cpflg = true then s.eng.set (l.ctxn * 1024 + l.rcd.cpctx) ((s.engAt l.ctxn l.rcd.cpctx).launchDone l.rcd.cpinc) {}
          else s.eng) ∧
        ∀ n, l.kind = .queue → s.pslot l.die l.pid = some n →
          t.fld (queueReg l.die n l.queue 0x20) 63 32 = (s.fld (queueReg l.die n l.queue 0x20) 63 32 + 1) % 2 ^ 32) ∧
    (∀ die pid : Nat, s.droneStands die pid = true → exec (.dronePlace die pid) s = .next s) ∧
    (∀ die pid : Nat, (die, pid) ∈ s.drones → (s.qstate pid = 1 ∨ s.qstate pid = 2) → s.droneStands die pid = false →
      let gone := s.drones.erase (die, pid)
      let unqueued := fun (t : State) => t.inboxes = s.inboxes ∧ ∀ n, s.pslot die pid = some n →
        t.fld (partReg die n 0x40) 31 0 = min (s.fld (partReg die n 0x40) 31 0 + 1) 0xFFFFFFFF
      (s.drone die pid = none → exec (.dronePlace die pid) s = .next { s with drones := gone }) ∧
      (∀ ctxn v, s.drone die pid = some (ctxn, v) →
        let bytes := s.ctxBytes die ctxn pid .s (field (s.preg die pid 0x48) 55 0) 192
        (bytes = none → ∃ t, exec (.dronePlace die pid) s = .next t ∧ t.drones = gone ∧ t.blocks = s.blocks ∧ unqueued t ∧
          Claims.told s t pid die (9 + (Config.droneBadCode 0).toNat % 256 * 2 ^ 12) 0) ∧
        (∀ bs bufs code, bytes = some bs → s.recCode die pid ctxn .s bs = (code, bufs) →
          let r := LRec.ofBytes bs
          (code ≠ 0 → ∃ t, exec (.dronePlace die pid) s = .next t ∧ t.drones = gone ∧ t.blocks = s.blocks ∧ unqueued t ∧
            Claims.told s t pid die (9 + code % 256 * 2 ^ 12) 0) ∧
          (code = 0 → r.grid ≠ 1 ∨ r.stflg = true ∨ r.cpflg = true →
            ∃ t, exec (.dronePlace die pid) s = .next t ∧ t.drones = gone ∧ t.blocks = s.blocks ∧ unqueued t ∧
              Claims.told s t pid die (9 + (Config.droneBadCode 1).toNat % 256 * 2 ^ 12) 0) ∧
          (∀ tile qs img, code = 0 → r.grid = 1 → r.stflg = false → r.cpflg = false → s.droneTile die pid = some tile →
            s.fitOn (s.occ die) die tile pid r = some qs → s.imageRoom ctxn r.imageBytes = some img →
            ∃ t, exec (.dronePlace die pid) s = .next t ∧ t.drones = gone ∧ t.nextUid = s.nextUid + 2 ∧
              (let b := t.block (s.nextUid + 1)
              b.kind = .drone ∧ b.launch = s.nextUid ∧ b.ctxn = ctxn ∧ b.pid = pid ∧ b.level = .s ∧ b.die = die ∧ b.tile = tile ∧
                b.state = .running) ∧
              (t.launch s.nextUid).rcd = { r with prio := 3 })))) ∧
    (∀ (via : Via) (die pslot off : Nat) (v : W64),
      let a := partReg die pslot off
      off ∈ [0x18, 0x20, 0x28, 0x48] → Claims.slotOpen s via die pslot → viaMaint via = true → Claims.plain a via v →
      s.droneRegOk die pslot off v = true →
      ∃ t, exec (.droneWrite via die pslot off v) s = .next t ∧ t = { s with maint := t.maint, drones := t.drones } ∧
        (∀ x, t.reg x = if x = a then v else s.reg x) ∧
        (off ≠ 0x18 → off ≠ 0x48 → t.drones = s.drones) ∧
        (off = 0x18 → v.getLsbD 63 = true → ∀ pid, s.pidOfSlot die pslot = some pid → (die, pid) ∈ t.drones)) ∧
    (∀ (p q : Nat × Nat) (dst : Nat),
      let e := fun (n : Nat) => s.reg (dieBase (tileAt p).1 + 0x81000 + 0x80 * (tileAt p).2 + 8 * n)
      let fits := fun (n : Nat) => (e n).getLsbD 63 = true ∧ (dst ^^^ field (e n) 45 32) &&& field (e n) 13 0 = 0
      (∀ n < 16, fits n → (∀ k < n, ¬ fits k) → s.output p dst q = field (e n) 59 58) ∧
      ((∀ n < 16, ¬ fits n) → p ≠ q →
        s.output p dst q = if p.1 < q.1 then 1 else if q.1 < p.1 then 3 else if p.2 < q.2 then 2 else 0)) ∧
    (∀ (die reason : Nat) (hdr : BitVec 128) (pa : Option Nat), s.dropStands hdr pa reason = true → s.flitArrives hdr = true →
      tagDie (hdrField hdr 31 18) = die → Claims.slotsSmall s →
      let n := s.fld (dropHead die) 4 0
      let logged := fun (t : State) => t.reg (dropReg die n) = BitVec.ofNat 64 (hdr.toNat % 2 ^ 46 + reason % 16 * 2 ^ 48) ∧
        t.fld (dropHead die) 4 0 = (n + 1) % 32 ∧ t.mem = s.mem
      (∃ t, exec (.flitDrop die ⟨hdr, pa⟩ reason .none) s = .next t ∧ logged t ∧ Claims.telling s t) ∧
      (∀ uid wid lane va, (s.block uid).waves ≠ [] → (s.block uid).state ≠ .ended → (s.block uid).state ≠ .lost →
        ∃ t, exec (.flitDrop die ⟨hdr, pa⟩ reason (.access uid wid lane va)) s = .next t ∧ logged t ∧
          (t.block uid).held = (s.block uid).held ++ [⟨.access, wid, BitVec.ofNat 64 va⟩] ∧ (∀ u, u ≠ uid → t.block u = s.block u) ∧
          (∀ i, ∀ q ∈ ((t.wave uid wid).slot i).reqs, ¬ (q.lane = lane ∧ q.va = va ∧ q.open_ = true)) ∧
          t.writes = s.writes.filter fun x => !(x.uid == uid && x.wid == wid && x.lane == lane && x.va == va && decide (x.level < x.target))) ∧
      (∀ c h k j, s.job c h k = some j → j.work ≠ .fabric →
        ∃ t, exec (.flitDrop die ⟨hdr, pa⟩ reason (.job c h k)) s = .next t ∧ logged t ∧ Claims.retired s t c h k 2 0 ∧
          ∀ d, j.work = .copy d → d.dbuf = true → s.fillStale j (opId d.dst) = false → d.sbuf = false →
            ((t.block j.uid).buf (opId d.dst)).state = .empty))

/-! ### Partitions and hosts (17, 19, 20) -/

namespace Sys2Proof.Claims

/-- A command is written to PSTATE so that nothing but CMD asks for anything: SEALED keeps its value. -/
def commands (s : State) (via : Via) (pid cmd : Nat) (v : W64) : Prop :=
  s.reaches via = true ∧ field v 11 8 = cmd ∧ plain (partCtl pid 0) via v ∧ pid < 256 ∧ (v.getLsbD 39 = s.sealed pid)

/-- The running blocks of a partition begin to stop. -/
def stopping (s t : State) (pid : Nat) : Prop :=
  ∀ u ∈ s.uids, (s.block u).pid = pid → (s.block u).die ≠ 64 → (s.block u).state = .running → (s.block u).resident = true →
    (s.block u).stopping = .no → (t.block u).stopping = .preempt ∧ (t.block u).broadcast = false

/-- The VF of a partition is bound and not in reset, so that a write of its host-control registers acts (R435, R440). -/
def vfActs (s : State) (pid : Nat) : Prop := (s.vfOf pid).isSome = true ∧ pid ∉ s.resetting

/-- Some edge group is ACTIVE as UALink (R445). -/
def peerLinked (s : State) : Prop := ∃ g < 24, s.fld (edgeReg g 0) 23 20 = 1 ∧ s.fld (edgeReg g 0) 19 16 = 2

/-- Only memory, and what a write at the home clears, has changed, beside the reply and the replay window. -/
def replied (s t : State) (r : Inbound) (reply : List Byte) : Prop :=
  t.reply = reply ∧ t.replay = s.replay ++ [(inboundSource r, r.seq, reply)] ∧ t.blocks = s.blocks ∧ t.maint = s.maint ∧ t.writes = s.writes

end Sys2Proof.Claims

/-- R387: a teardown ends a context's jobs, blocks and launches and raises its GEN. R403, R416: SPLITCFG clears the deficits, SEMOWN sets its semaphore to 0. R417, R421: the commands of
PSTATE and the ends of their states. R427, R428: a failed tile, its blocks LOST. R424, R426, R436: shape requests, answered with a count and a status. R327: doorbells signal semaphores.
R439, R440: kills and resets. R437: trusted interfaces. R438: unmasking sends what is pending. R155, R445: a request is performed once, answered again from the replay window, and kept no longer once it is acknowledged
(R471: not at a stack that is not enabled); a write to a locked frame waits. A doorbell rings after the host's earlier posted writes (R436).
Log entries 55, 67, 76, 77 and 128 are the model's: what a teardown drops, the order of a shape request's refusals, the bytes of a reply, its acknowledgement, and when an interface report is sent. -/
def Obligations.PartitionAndHostResult : Prop :=
  ∀ s : State, s.cur.on = false →
    (∀ c : Nat, c ∈ s.tearing → s.atomicsOpen c = false →
      ∃ t, exec (.contextTeardown c) s = .next t ∧ t.ctxGen c = (s.ctxGen c + 1) % 4096 ∧ t.ctxEnabled c = false ∧
        (∀ j ∈ t.jobs, j.ctxn ≠ c) ∧ (∀ u ∈ t.uids, (t.block u).ctxn ≠ c) ∧ (∀ e ∈ t.launches, e.2.ctxn ≠ c) ∧ (∀ e ∈ t.tlb, e.ctxn ≠ c) ∧
        t.tearing = s.tearing.erase c ∧ (∀ l ∈ t.locks, l.ctxn ≠ c) ∧ ((∀ w ∈ s.writes, w.held = false) → t.mem = s.mem)) ∧
    (∀ (via : Via) (die n : Nat) (v : W64), s.reaches via = true →
      (Claims.plain (splitReg die n) via v → field v 15 8 ≠ 0 → field v 7 0 ≠ 0 → v.getLsbD 16 = true →
        (∀ q < 4, ¬(v.getLsbD (16 + q) = true ∧ v.getLsbD (20 + q) = true)) →
        (∀ q < 4, v.getLsbD (16 + q) = true ∨ v.getLsbD (20 + q) = true → s.grade die n q ≠ 0) → s.tileHolds die n = false →
        ∃ u, exec (.splitcfgWrite via die n v) s = .next (s.reowned u die n) ∧
          Claims.regsBecome s u [(splitReg die n, s.written (splitReg die n) via v), (splitReg die n + 8, 0), (splitReg die n + 16, 0)]) ∧
      (Claims.plain (semOwnReg die n) via v → s.semHandled die n = false →
        ∃ t, exec (.semownWrite via die n v) s = .next t ∧ t = { s with maint := t.maint, sems := t.sems } ∧
          (∀ a, t.reg a = if a = semOwnReg die n then v else s.reg a) ∧
          ∀ k, t.sem k = if k = die * 4096 + n ∧ v.getLsbD 63 = true then { s.sem k with value := 0 } else s.sem k)) ∧
    (∀ (via : Via) (pid : Nat) (v : W64),
      let maint := fun (t : State) => t = { s with maint := t.maint }
      (Claims.commands s via pid 1 v → s.consistent pid = true →
        (s.qstate pid = 0 → s.fld 0x100 1 0 ≠ 2 ∧ s.featWritten = true ∧ (s.sealed pid = true → s.keysOf pid ≠ [])) →
        s.qstate pid = 0 ∨ s.qstate pid = 2 ∨ s.qstate pid = 6 →
        ∃ t, exec (.pstateCmdRun via pid v) s = .next t ∧ t.qstate pid = 1 ∧ t.quiesceDone pid = false ∧
          (s.qstate pid = 6 → t.vfReg pid 5 = s.vfReg pid 5 + 1)) ∧
      (Claims.commands s via pid 2 v → s.qstate pid = 1 →
        ∃ t, exec (.pstateCmdFreeze via pid v) s = .next t ∧ maint t ∧ Claims.stateIs s t pid 2 true) ∧
      (Claims.commands s via pid 3 v → s.qstate pid = 2 →
        ∃ t, exec (.pstateCmdStop via pid v) s = .next t ∧ t.qstate pid = 3 ∧ t.quiesceDone pid = false ∧ Claims.stopping s t pid) ∧
      (Claims.commands s via pid 4 v → s.qstate pid = 3 → s.quiesceDone pid = true →
        ∃ t, exec (.pstateCmdDrain via pid v) s = .next t ∧ maint t ∧ Claims.stateIs s t pid 4 false) ∧
      (Claims.commands s via pid 5 v → s.qstate pid = 4 → s.quiesceDone pid = true →
        ∃ t, exec (.pstateCmdFlush via pid v) s = .next t ∧ maint t ∧ Claims.stateIs s t pid 5 false) ∧
      (Claims.commands s via pid 6 v → s.qstate pid = 5 → s.quiesceDone pid = true →
        ∃ t, exec (.pstateCmdRemap via pid v) s = .next t ∧ Claims.stateIs s t pid 6 true ∧
          t = { s with maint := t.maint, coresWere := s.coresWere.set pid (s.coresOf pid) [] })) ∧
    (∀ pid : Nat, s.quiesceDone pid = false →
      (s.qstate pid = 3 → (∀ u ∈ s.blocksOf pid, s.outOrFabric u = true) →
        ∃ t, exec (.quiesceStateDone pid) s = .next t ∧ t = { s with maint := t.maint } ∧ Claims.stateIs s t pid 3 true) ∧
      (s.qstate pid = 4 → s.drained pid = true → (∀ o ∈ s.fab, o.pid ≠ pid) → (∀ u ∈ s.blocksOf pid, (s.block u).standing = false) →
        ∃ t, exec (.quiesceStateDone pid) s = .next t ∧ t = { s with maint := t.maint } ∧ Claims.stateIs s t pid 4 true) ∧
      (s.qstate pid = 5 → (∀ w ∈ s.writes, s.inMap pid w.pa = false) → s.ucopies = [] → (∀ x ∈ s.rcache, (s.block x.uid).pid ≠ pid) →
        ∃ t, exec (.quiesceStateDone pid) s = .next t ∧ Claims.stateIs s t pid 5 true ∧
          t = { s with maint := t.maint, stale := s.stale.filter fun e => !s.inMap pid (e.1 % 2 ^ 48) })) ∧
    (∀ (die n : Nat) (silent erring : List (Nat × Nat)), silent ++ erring = [(die, n)] → die < 64 → n < 144 → s.tileKind die n ≠ 3 →
      s.tileKind die n ≠ 4 → s.chanterHalted = false → Claims.slotsSmall s →
      ∃ t, exec (.tileProbe silent erring) s = .next t ∧ t.tileKind die n = 4 ∧
        (∀ u ∈ s.blocksAt die n, (t.block u).state = .lost ∧ (t.block u).resident = false ∧ (t.block u).held = []) ∧
        (∀ j ∈ t.jobs, j.die ≠ die ∨ j.tile ≠ n) ∧ ∀ w ∈ t.writes, w ∈ s.writes ∧ (w.die ≠ die ∨ w.tile ≠ n ∨ 3 ≤ w.level ∨ w.rmw = true)) ∧
    (∀ (pid : Nat) (v : W64), Claims.vfActs s pid →
      (∀ e ∈ [(Instr.shapereqGrow pid v, 1), (.shapereqShrink pid v, 2), (.shapereqCompact pid v, 3), (.shapereqMigrate pid v, 4)],
        shapeKind v = e.2 → v &&& BitVec.ofNat 64 (bits 63 48 + bits 39 38 + bits 31 30 + bits 23 4) = 0 → field (s.vfReg pid 2) 7 0 ≠ 1 →
        s.chanterHalted = false →
        ∃ t, exec e.1 s = .next t ∧ t = { s with vfr := t.vfr, msix := t.msix, irqs := t.irqs } ∧ t.vfReg pid 1 = v ∧
          t.vfReg pid 2 = BitVec.ofNat 64 ((field (s.vfReg pid 2) 63 32 + 1) % 2 ^ 32 * 2 ^ 32 + s.shapeStatus pid v)) ∧
      (s.postedWrites pid ≠ [] → exec (.doorbell pid v) s = .next { s with bells := s.bells ++ [(pid, v, s.postedWrites pid)] }) ∧
      (∀ k, s.postedWrites pid = [] → s.bellTarget pid v = some k → (s.sem k).waits = [] → (s.sem k).value + field v 63 32 < 2 ^ 32 →
        exec (.doorbell pid v) s = .next { s with sems := s.sems.set k { s.sem k with value := (s.sem k).value + field v 63 32 } {} }) ∧
      (∀ u : Nat,
        let b := s.block u
        let killed := { b with
          killWaves := b.killWaves ++ [field v 5 0]
          killer := some pid
          stopping := .kill
          broadcast := false
          causeWave := none }
        let kill := fun (i : Instr) => ∃ t, exec i s = .next t ∧ t = { s with blocks := t.blocks } ∧ Claims.blockBecomes s t u killed
        field v 62 6 = 0 → v.getLsbD 63 = true → s.named (s.vfReg pid 3) = some u → b.pid = pid → b.state = .running → b.stopping = .no →
        (field v 5 0 < b.waves.length → field v 5 0 ≠ 0x3F → kill (.killWave pid v)) ∧ (field v 5 0 = 0x3F → kill (.killBlock pid v))) ∧
      (∀ vector : Nat,
        let n := vector % 16
        let pba := s.msixWord (64 * pid + 32)
        ∃ t, exec (.msixUnmask pid vector) s = .next t ∧
          t = { s with msix := t.msix, irqs := if pba.getLsbD n = true then s.irqs ++ [(pid, n)] else s.irqs } ∧
          ∀ k, t.msixWord k = if k = 64 * pid + 2 * n + 1 then s.msixWord k &&& 0xFFFFFFFF
            else if k = 64 * pid + 32 then pba &&& ~~~ BitVec.ofNat 64 (2 ^ n) else s.msixWord k)) ∧
    (∀ (pid : Nat) (v : W64) (k : Nat), Claims.peerLinked s → s.bellTarget pid v = some k → (s.sem k).waits = [] →
      (s.sem k).value + field v 63 32 < 2 ^ 32 →
      exec (.ualinkSemaphoreDoorbell pid v) s =
        .next { s with sems := s.sems.set k { s.sem k with value := (s.sem k).value + field v 63 32 } {} }) ∧
    (∀ pid : Nat, pid < 256 → pid ∉ s.resetting →
      (∃ t, exec (.partitionReset pid) s = .next t ∧ t.resetting = s.resetting ++ [pid] ∧ t.qstate pid = 3 ∧ t.quiesceDone pid = false ∧
        Claims.stopping s t pid ∧ (s.hasTdi pid = true → exec (.stopInterface pid) s = .next t)) ∧
      (s.hasTdi pid = true → s.tdi.get pid 0 = 0 → exec (.tdispLockInterface pid) s = .next { s with tdi := s.tdi.set pid 1 0, reply := s.deviceReport pid }) ∧
      (s.hasTdi pid = true → s.tdi.get pid 0 = 1 → exec (.tdispStartInterface pid) s = .next { s with tdi := s.tdi.set pid 2 0 })) ∧
    (∀ pid : Nat, pid < 256 → pid ∈ s.resetting → s.resetReady pid = true →
      ∃ t, exec (.partitionResetComplete pid) s = .next t ∧ t.resetting = s.resetting.erase pid ∧ t.qstate pid = 0 ∧ t.tdi = s.tdi.erase pid ∧
        (∀ c ∈ t.mem, s.inMap pid c.1 = false) ∧ (∀ w ∈ t.writes, s.inMap pid w.pa = false) ∧ t.keysOf pid = [] ∧
        (∀ r < 64, t.route pid r = {}) ∧ ∀ b ∈ t.batches, b.pid ≠ pid) ∧
    (∀ ld : Nat, ld < 16 →
      ∃ t, exec (.ldReset ld) s = .next t ∧ (t.reg (ldReg ld 0)).getLsbD 31 = false ∧ ∀ p ∈ s.ldPids ld, p ∈ t.resetting) ∧
    (∀ r : Inbound, s.arrives r = true →
      (r.op = 18 → exec (.inboundMemoryRequest r) s = .next { s with replay := s.replay.filter fun e => !(e.1 == inboundSource r && e.2.1 == r.seq) }) ∧
      (∀ e, r.op ≠ 18 → s.replay.find? (fun e => e.1 == inboundSource r && e.2.1 == r.seq) = some e →
        exec (.inboundMemoryRequest r) s = .next { s with reply := e.2.2 }) ∧
      (s.replay.find? (fun e => e.1 == inboundSource r && e.2.1 == r.seq) = none → r.len ≠ 0 → isHbm (r.pa + r.len - 1) = true →
        (r.host = true → s.hostMay r = true) → s.ucopies = [] → s.bells = [] → Claims.noLine s r.pa r.len →
        (r.op ≠ 0 → r.op ≠ 18 → s.engHeld r.pa r.len = true →
          exec (.inboundMemoryRequest r) s = .next { s with inbound := s.inbound.erase r ++ [r] }) ∧
        (r.op = 0 → s.badRange r.pa r.len = false →
          ∃ t, exec (.inboundMemoryRequest r) s = .next t ∧ Claims.replied s t r (0 :: s.homeBytes r.pa r.len) ∧ t.mem = s.mem) ∧
        (r.op = 1 → r.data.length = r.len → s.stackOn (r.pa / 2 ^ 27 / 384) = true → s.engHeld r.pa r.len = false →
          ∃ t, exec (.inboundMemoryRequest r) s = .next t ∧ Claims.replied s t r [0] ∧ Claims.homeBecomes s t r.pa r.data) ∧
        (r.op = 1 → s.stackOn (r.pa / 2 ^ 27 / 384) = false → s.engHeld r.pa r.len = false →
          ∃ t, exec (.inboundMemoryRequest r) s = .next t ∧ Claims.replied s t r [1] ∧ t.mem = s.mem) ∧
        (∀ n < 16, r.op = n + 2 → Claims.noLine s r.pa (atomWidth n) → r.pa % atomWidth n = 0 → s.engHeld r.pa r.len = false → s.badRange r.pa (atomWidth n) = false →
          let old := leNat (s.homeBytes r.pa (atomWidth n))
          ∃ t, exec (.inboundMemoryRequest r) s = .next t ∧ Claims.replied s t r (0 :: leBytes old (atomWidth n)) ∧
            Claims.homeBecomes s t r.pa (leBytes (atomNew n old (leNat (r.data.take (atomWidth n)))
              (leNat ((r.data.drop (atomWidth n)).take (atomWidth n)))) (atomWidth n)))))

/-! ### Trust, the SPDM responder, the maintenance edge port (21, 22, 07) -/

namespace Sys2Proof.Claims

/-- A signed response is formed and waits to be sent: it begins with `head`, and ends with the signature, by the north rim's key, over request and response (R451). -/
def signs (s t : State) (ld slot : Nat) (msg head : List Byte) : Prop :=
  ∃ r body, t = { s with spdmReqs := s.spdmReqs ++ [r] } ∧ r.ld = ld ∧ r.slot = slot ∧ r.multi = false ∧
    r.resp = body ++ identitySign 64 (msg ++ body) ∧ body.take head.length = head ∧ r.until_ = s.time + 2 ^ 20 * 100

/-- Only registers, and what `f` says besides, have changed. -/
def regsAnd (s t u : State) (l : List (Nat × W64)) : Prop :=
  t = { u with maint := t.maint } ∧ ∀ a, t.reg a = ((l.find? (fun e => e.1 == a)).map (·.2)).getD (s.reg a)

end Sys2Proof.Claims

/-- R446, R455, R457: the feature vector is written once, key ids are created and destroyed. R449, R450, R474 to R477: an identity check and a check of the image run and end;
the descriptor is locked; the loader and the rim cores start. R451 to R454: the messages of SPDM. R2, R462: reads and writes through LD 0 (log entry 130). R459: the frames of the maintenance port, whose words are accessed one by one (log entry 84) and follow the rule of their
registers; a bad frame is answered with its status and does nothing. R461, R463: a write where no register stands is logged. R171, R183: a reserved encoding traps.
Log entries 4, 5, 23, 38, 70, 71, 79 and 85 are the model's: signatures, what SPDM leaves open, addresses with no register, FEATACC, DESTROY, INDEX, and parts of a certificate. -/
def Obligations.TrustAndMaintenanceResult : Prop :=
  ∀ s : State, s.cur.on = false →
    (∀ (via : Via) (v : W64), s.reaches via = true →
      let keyid := field v 11 0
      let pid := field v 27 20
      let held := (s.keys.get keyid none).map KeyRec.pid
      (∀ word < 2, Claims.plain (0x210 + 8 * word) via v → s.featWritten = false → v &&& ~~~ s.reg (0x200 + 8 * word) = 0 →
        ∃ t, exec (.feataccWrite via word v) s = .next t ∧
          Claims.regsAnd s t { s with featWritten := word == 0 } [(0x210 + 8 * word, v)]) ∧
      (Claims.plain 0x100000 via v → field v 31 30 = 1 → keyid ≠ 0 → held = none →
        ∃ t, exec (.keyCreate via v) s = .next t ∧
          Claims.regsAnd s t { s with
            keys := s.keys.set keyid (some ⟨pid, s.keyGen⟩) none
            keyGen := s.keyGen + 1 } [(0x100000, BitVec.ofNat 64 (keyid + pid * 2 ^ 20))]) ∧
      (Claims.plain 0x100000 via v → field v 31 30 = 2 → held = some pid → (s.qstate pid = 0 ∨ pid ∈ s.resetting) →
        ∃ t, exec (.keyDestroy via v) s = .next t ∧
          Claims.regsAnd s t { s with keys := s.keys.erase keyid } [(0x100000, BitVec.ofNat 64 (keyid + pid * 2 ^ 20))]) ∧
      (∀ e ∈ [(Instr.idcheck via v, 1), (.verifyxip via v, 2)], field v 3 0 = e.2 → Claims.plain 0x40000 via v → s.fld 0x40008 1 0 ≠ 1 →
        ∃ t, exec e.1 s = .next t ∧
          Claims.regsAnd s t { s with secOp := e.2 + field v 15 8 * 16 } [(0x40008, withField (s.reg 0x40008) 1 0 1)]) ∧
      (Claims.plain 0x300A8 via v → v.getLsbD 0 = true → s.xipLock = false →
        ∃ t, exec (.xipLock via v) s = .next t ∧ t = { s with maint := t.maint } ∧ t.xipLock = true ∧ ∀ a, a ≠ 0x300A8 → t.reg a = s.reg a) ∧
      (Claims.plain 0x40020 via v → v.getLsbD 0 = true → (s.reg 0x40020).getLsbD 0 = false → s.running = true → s.curFreq ≠ 0 → s.xipLock = true →
        ∃ t, exec (.loadgo via v) s = .next t ∧ (t.reg 0x40020).getLsbD 0 = true ∧ (t.reg 0x40028).getLsbD 0 = true ∧
          (let b := t.block (s.nextUid + 1)
          b.kind = .rim 0 ∧ b.die = 64 ∧ b.tile = 0 ∧ b.level = .m ∧ b.state = .running ∧ b.waves.length = 1) ∧
          (∀ L < 48, (t.wave (s.nextUid + 1) 0).pcOf L = 0x00F0000000060000) ∧ t.mem = s.mem) ∧
      (∀ c : Nat, 1 ≤ c → c < 8 → v = BitVec.ofNat 64 (2 ^ c) → Claims.plain 0x40028 via v → s.verified = true → s.rimRuns c = false →
        ∃ t, exec (.rimrun via v) s = .next t ∧ (t.reg 0x40028).getLsbD c = true ∧ t.rimRuns c = true ∧
          (∀ L < 48, (t.wave (s.nextUid + 1) 0).pcOf L = (s.reg 0x300B0).toNat) ∧ t.mem = s.mem) ∧
      (∀ n : Nat, n < 4096 → Claims.plain (ctxOwnReg n) via v → s.ctxEnabled n = false → (∀ p, via ≠ .vf p) →
        ∃ t, exec (.registerWrite via (ctxOwnReg n) v) s = .next t ∧ Claims.regsBecome s t [(ctxOwnReg n, v)]) ∧
      (∀ off : Nat, via = .ld0 →
        (off < 2 ^ 29 → off % 8 = 0 → exec (.registerWrite .ld0 (off + 4 * 2 ^ 32) v) s = exec (.registerWrite .ld0 off (v &&& 0xFFFFFFFF)) s) ∧
        (off < 2 ^ 29 → off % 8 = 4 →
          ∃ t, exec (.registerWrite .ld0 (off + 4 * 2 ^ 32) v) s = .next t ∧ t = { s with maint := t.maint } ∧
            t.reg (0x1000 + 16 * s.fld 0xF00 7 0) = BitVec.ofNat 64 (1 + (off - 4) * 2 ^ 16)) ∧
        (off < 2 ^ 32 → 2 ^ 29 ≤ off ∨ off % 8 ≠ 0 → exec (.registerWrite .ld0 off v) s = .next { s with reply := [1] })) ∧
      (∀ a : Nat, regDesc a = none → (∀ p, via ≠ .vf p) → (via = .ld0 → a < 2 ^ 29 ∧ a % 8 = 0) →
        let n := s.fld 0xF00 7 0
        ∃ t, exec (.registerWrite via a v) s = .next t ∧ t = { s with maint := t.maint } ∧ t.fld 0xF00 7 0 = (n + 1) % 256 ∧
          t.reg (0x1000 + 16 * n) = BitVec.ofNat 64 (1 + a % 2 ^ 29 * 2 ^ 16))) ∧
    (∀ (nonce : List Byte) (answer : Option (List Byte)), s.fld 0x40008 1 0 = 1 →
      let index := s.secOp / 16
      let failed := fun (t : State) (r : Nat) => t.fld 0x40008 1 0 = 3 ∧ t.fld 0x40008 15 8 = r
      (s.secOp % 16 = 1 → nonce.length = 48 →
        let r := s.idReason index nonce (answer.map fun _ => identityAnswer index (s.reg 0).toNat nonce)
        ∃ t, exec (.securityOpComplete nonce answer) s = .next t ∧ t.secOp = 0 ∧
          (if r = 0 then t.fld 0x40008 1 0 = 2 ∧ index ∈ t.idPassed ∧ t = { s with maint := t.maint, secOp := 0, idPassed := t.idPassed }
            else failed t r ∧ t = { s with maint := t.maint, secOp := 0 } ∧
              (s.fld 0x100 1 0 ≠ 2 → t.fld 0x100 1 0 = 2 ∧ t.fld 0x100 15 8 = index % 256))) ∧
      (s.secOp % 16 ≠ 1 →
        ∃ t, exec (.securityOpComplete nonce answer) s = .next t ∧ t = { s with maint := t.maint, secOp := 0 } ∧
          (if s.xipReason = 0 then t.fld 0x40008 1 0 = 2 ∧ t.verified = true ∧
              t.reg 0x300B0 = BitVec.ofNat 64 (s.xipBase + (s.reg 0x300A0).toNat)
            else failed t s.xipReason ∧ t.verified = s.verified))) ∧
    (∀ (ld : Nat) (msg : List Byte), s.spdmOn ld = true →
      let n := msgByte msg 2 % 16
      let stage := s.spdmStage ld
      let invalid : List Byte := [0x12, 0x7F, 1, 0]
      (4 ≤ msg.length → exec (.getVersion ld msg) s = .next { s with
        spdmVersion := s.spdmVersion.set ld 1 0
        certParts := if ld = 0 then [] else s.certParts
        spdmReqs := s.spdmReqs.filter (fun r => !(r.ld == ld && r.multi))
        reply := [0x12, 0x04, 0, 0, 0, 1, 0, 0x12] }) ∧
      (4 ≤ msg.length → 1 ≤ stage → exec (.getCapabilities ld msg) s = .next { s with
        spdmVersion := s.spdmVersion.set ld (max 2 stage) 0
        reply := [0x12, 0x61, 0, 0, 0, 20, 0, 0] ++ Config.spdmFlags }) ∧
      (2 ≤ stage → exec (.negotiateAlgorithms ld msg) s = .next (if spdmAccepts msg = true then { s with
          spdmVersion := s.spdmVersion.set ld 3 0
          reply := [0x12, 0x63, 0, 0] ++ spdmAlgorithms }
        else { s with reply := invalid })) ∧
      (3 ≤ stage →
        (4 ≤ msg.length → ∃ t, exec (.getDigests ld msg) s = .next t ∧ t = { s with reply := t.reply } ∧
          t.reply.take 3 = [0x12, 0x01, 0] ∧ t.reply.drop 4 = s.slotsHeld.flatMap (fun k => sha384 (s.certSlot k)) ∧
          ∀ k < 8, (t.reply.getD 3 0).getLsbD k = s.slotsHeld.contains k) ∧
        (8 ≤ msg.length → n ∈ s.slotsHeld → msgHalf msg 4 < (s.certSlot n).length →
          let part := ((s.certSlot n).drop (msgHalf msg 4)).take (msgHalf msg 6)
          let rest := (s.certSlot n).length - msgHalf msg 4 - part.length
          ∃ t, exec (.getCertificate ld msg) s = .next t ∧ t = { s with reply := t.reply, spdmReqs := t.spdmReqs } ∧
            t.reply = [0x12, 0x02, BitVec.ofNat 8 n, 0] ++ leBytes part.length 2 ++ leBytes (min rest 0xFFFF) 2 ++ part ∧
            ((∃ r ∈ t.spdmReqs, r.ld = ld ∧ r.multi = true ∧ r.slot = n) ↔ rest ≠ 0)) ∧
        (let chain := s.certParts.get n [] ++ msg.drop 4
        4 ≤ msg.length → ld = 0 → 1 ≤ n → n ≤ 7 → s.certBusy n = false → chain.length ≤ 16384 →
          exec (.setCertificate ld msg) s = .next (if moreParts msg = true then { s with
              certParts := s.certParts.set n chain []
              reply := [0x12, 0x6E, BitVec.ofNat 8 n, 0] }
            else if Config.chainVerifies chain = true then { s with
              certParts := s.certParts.erase n
              certs := s.certs.set n chain []
              reply := [0x12, 0x6E, BitVec.ofNat 8 n, 0] }
            else { s with certParts := s.certParts.erase n, reply := invalid })) ∧
        (36 ≤ msg.length → n ∈ s.slotsHeld →
          ∃ t, exec (.challenge ld msg) s = .next t ∧
            Claims.signs s t ld n msg ([0x12, 0x03, BitVec.ofNat 8 n, BitVec.ofNat 8 (2 ^ n)] ++ sha384 (s.certSlot n))) ∧
        (∀ vf count blocks, s.measBlocks (s.vfNamed ld vf) (msgByte msg 3) = some (count, blocks) →
          let head := fun (slot : Nat) => [(0x12 : Byte), 0x60, if msgByte msg 3 = 0 then 5 else 0, BitVec.ofNat 8 slot, BitVec.ofNat 8 count] ++
            leBytes blocks.length 3 ++ blocks
          (4 ≤ msg.length → msgByte msg 2 % 2 = 0 →
            exec (.getMeasurements ld vf msg) s = .next { s with reply := head 0 ++ Config.spdmNonce ld s.clk ++ [0, 0] }) ∧
          (37 ≤ msg.length → msgByte msg 2 % 2 = 1 → msgByte msg 36 % 16 ∈ s.slotsHeld →
            ∃ t, exec (.getMeasurements ld vf msg) s = .next t ∧ Claims.signs s t ld (msgByte msg 36 % 16) msg (head (msgByte msg 36 % 16)))))) ∧
    (∀ off width : Nat,
      (s.reaches .ld0 = true → off < 2 ^ 29 → (width = 4 ∨ width = 8) → off % width = 0 →
        s.bar2Read off width = some (if width = 8 then s.regRead off
          else BitVec.ofNat 64 ((s.regRead (off / 8 * 8)).toNat / 2 ^ (8 * (off % 8)) % 2 ^ 32))) ∧
      ((width ≠ 4 ∧ width ≠ 8) ∨ off % width ≠ 0 ∨ s.reaches .ld0 = false → s.bar2Read off width = none)) ∧
    (∀ f : List Byte, f.head? = some 0xA5 →
      let ok := mepResponse (mepSeq f) 0
      (∀ j : MepJob, (s.mepJob = some j ∧ j.frame = f) ∨ (s.mepJob = none ∧ mepStatus f = 0 ∧ j = { frame := f }) →
        let a := mepAddr f + 8 * j.done
        let on := fun (t : State) (data : List Byte) => if mepWords f ≤ j.done + 1 then { t with mepJob := none, reply := ok data }
          else { t with mepJob := some { j with done := j.done + 1, data := data } }
        (mepCmd f = 1 → exec (.mepRead f) s = .next (on s (j.data ++ leBytes (s.regRead a).toNat 8))) ∧
        (mepCmd f = 2 →
          ∃ t, exec (.registerWrite .mep a (BitVec.ofNat 64 (leNat ((f.drop (12 + 8 * j.done)).take 8)))) s = .next t ∧
            exec (.mepWrite f) s = .next (on t []))) ∧
      (s.mepJob = none → mepStatus f = 0 →
        (mepCmd f = 15 → exec (.mepReset f) s = .next { s.moduleReset with reply := ok [] } ∧
          (s.fuses = [] → s.moduleReset = { State.reset with agenda := s.agenda }))) ∧
      (s.mepJob = none → mepStatus f ≠ 0 →
        let answer := Host.Outcome.next { s with reply := mepResponse (mepSeq f) (mepStatus f) [] }
        (mepCmd f = 1 → exec (.mepRead f) s = answer) ∧ (mepCmd f = 2 → exec (.mepWrite f) s = answer) ∧
        (mepCmd f = 15 → exec (.mepReset f) s = answer) ∧
        (mepCmd f ≠ 1 → mepCmd f ≠ 2 → mepCmd f ≠ 15 → exec (.mepBadcmd f) s = answer))) ∧
    (∀ (u : State) (word : W32) (L : Nat), (lanesOf u.cur.lanes).head? = some L → u.cur.chained = false → u.wv.skidding = false →
      ∃ t, exec (.reservedEncodingIssue word) u = .next t ∧ t = { u with wv := t.wv, bk := Claims.beginsToStop u } ∧
        t.wv.stopped = true ∧ t.wv.ecause = ecauseWord .illegalInstruction (decide (wordKind word = .perThread)) L ∧
        t.wv.ebad = word.zeroExtend 64 ∧ t.wv.v = u.wv.v ∧
        ∀ K ∈ lanesOf u.cur.lanes, t.wv.fcode.get K 0 = Cause.illegalInstruction.code)

/-! ### Edge groups and the plant (20, 22) -/

namespace Sys2Proof.Claims

/-- A trip (R468, log entry 80): everything but the fuses and the error log, with an entry for the die, stands as after reset; no rail but VAUX is on. -/
def tripped (s t : State) (die : Nat) : Prop :=
  let n := s.fld 0xF00 7 0
  let fuse := fun (a : Nat) => 0x10000000 ≤ a ∧ a % 0x100000 ∈ [0x80000, 0x80008, 0x80010, 0x80018]
  t = { State.reset with maint := t.maint, agenda := s.agenda, clk := s.clk, sysLost := true } ∧
    t.reg (0x1000 + 16 * n) = BitVec.ofNat 64 (4 + die * 2 ^ 16) ∧ t.fld 0xF00 7 0 = (n + 1) % 256 ∧
    (∀ a, fuse a → t.reg a = s.reg a) ∧ (∀ a, (a < 0xF00 ∨ 0x2000 ≤ a) → ¬ fuse a → t.reg a = State.reset.reg a) ∧
    ∀ r < 4, t.railEn r = false ∧ t.railGood r = false

end Sys2Proof.Claims

/-- R443 to R445: a request of a personality begins a switch, or is refused with BUSY; the switch drains, trains and enumerates, or fails; a lost link goes DOWN.
R465 to R473: a rail, the time counter, the clock, the self-test and each operation of an HBM stack begin and end as their registers tell; MEMTEST leaves a stack zero.
R468: the limiter and the trip. R480, R481: a scrub marks an uncorrectable granule, and the chanter makes a pass for its owner. R411, R439, R458, R464: a module reset and power bring the reset state; FUSE and HOLES never change.
Log entries 2, 72, 73, 80 and 81 are the model's: fuses, ERR and BOUND, STATUS, what a trip keeps, and how a scrub names its word. -/
def Obligations.EdgeAndPlantResult : Prop :=
  ∀ s : State,
    (∀ (via : Via) (v : W64), s.reaches via = true →
      (∀ g : Nat,
        g < 24 → Claims.plain (edgeReg g 0) via v →
        ∀ e ∈ [(Instr.edgeReqOff via g v, 0), (.edgeReqCxl via g v, 1), (.edgeReqUalink via g v, 2), (.edgeReqUltraEthernet via g v, 3)],
          field v 15 12 = e.2 → s.egMay g e.2 = true →
          (s.egBusy g = false → ∃ t, exec e.1 s = .next t ∧
            Claims.regsAnd s t { s with egReq := s.egReq.set g (e.2 + 16 * field v 3 0) 0, blocks := (s.markSent g).blocks }
              [(edgeReg g 0, withField (s.reg (edgeReg g 0)) 23 20 2), (edgeReg g 8, withField (s.reg (edgeReg g 8)) 31 24 0)]) ∧
          (s.egBusy g = true → ∃ t, exec e.1 s = .next t ∧
            Claims.regsBecome s t [(edgeReg g 8, withField (s.reg (edgeReg g 8)) 31 24 1)])) ∧
      (∀ k : Nat, k < 32 → Claims.plain (hbmReg k 0) via v →
        ∀ e ∈ [(Instr.hbmReset via k v, 1), (.hbmZqcal via k v, 2), (.hbmCatrain via k v, 3), (.hbmRdtrain via k v, 4), (.hbmWrtrain via k v, 5),
            (.hbmRepair via k v, 6), (.hbmMemtest via k v, 7), (.hbmEnable via k v, 8)],
          let state := s.fld (hbmReg k 8) 1 0
          let last := s.fld (hbmReg k 8) 15 8
          field v 7 4 = e.2 → (state = 0 ∧ last = 0 ∧ e.2 = 1 ∨ state = 2 ∧ e.2 = last + 1 ∨ state = 3 ∧ e.2 = 1 ∧ s.hbmFails.get k 0 < 2) →
          ∃ t, exec e.1 s = .next t ∧ Claims.regsBecome s t [(hbmReg k 8, withField (withField (s.reg (hbmReg k 8)) 15 8 e.2) 1 0 1)]) ∧
      (Claims.plain 0x50000 via v → v.getLsbD 0 = true → s.fld 0x50000 2 0 = 0 → s.railGood 0 = true → s.railGood 1 = true → s.curFreq ≠ 0 →
        s.running = true →
        ∃ t, exec (.bistGo via v) s = .next t ∧ Claims.regsBecome s t [(0x50000, withField (s.reg 0x50000) 2 0 3)]) ∧
      (Claims.plain 0x20000 via v → v.getLsbD 0 = true →
        ∃ t, exec (.timeRun via v) s = .next t ∧ t = { s with maint := t.maint } ∧ t.running = true ∧ ∀ a, a ≠ 0x20000 → t.reg a = s.reg a) ∧
      (Claims.plain 0x10040 via v →
        let f := field v 63 56
        let at_ := field v 47 0
        let r := if f < 16 ∨ 56 < f then 1
          else if (if s.railEn 1 = true then s.railTarget 1 else 0) < leastVcore f then 2
          else if s.running = true ∧ at_ < s.time + 200 then 3
          else if s.pendFreq ≠ 0 then 4 else 0
        ∃ t, exec (.freqChangeRequest via v) s = .next t ∧
          (r ≠ 0 → t = { s with maint := t.maint } ∧ t.fld 0x10048 2 0 = 3 ∧ t.fld 0x10048 15 8 = r ∧ t.curFreq = s.curFreq ∧ t.pendFreq = s.pendFreq) ∧
          (r = 0 → s.running = true → Claims.regsAnd s t { s with freqAt := at_ }
            [(0x10048, withField (withField (s.reg 0x10048) 23 16 f) 2 0 1)]) ∧
          (r = 0 → s.running = false →
            Claims.regsBecome s t [(0x10048, withField (withField (withField (s.reg 0x10048) 31 24 f) 23 16 0) 2 0 2)])) ∧
      (∀ r < 4, Claims.plain (railReg r) via v → s.railOk r v = true →
        let n := s.written (railReg r) via v
        ∃ t, exec (.railWrite via r v) s = .next t ∧ Claims.regsBecome s t [(railReg r,
          if field n 16 0 = field (s.reg (railReg r)) 16 0 then n else withField n 31 31 0)])) ∧
    (∀ g : Nat, g < 24 →
      let stat := withField (withField (s.reg (edgeReg g 8)) 23 16 0) 15 0 0
      (s.egState g = 2 → s.groupIdle g = true →
        let req := s.egReq.get g 0 % 16
        ∃ t, exec (.edgeDrainComplete g) s = .next t ∧ t = { s with maint := t.maint } ∧
          t.egState g = (if req = 0 then 0 else 4) ∧ t.egPers g = req ∧ t.fld (edgeReg g 0) 3 0 = s.egReq.get g 0 / 16 % 16 ∧
          t.reg (edgeReg g 8) = stat ∧
          ∀ l < 16, (t.reg (ldReg l 0)).getLsbD 31 = ((s.reg (ldReg l 0)).getLsbD 31 &&
            !(s.egPers g == 1 && s.carries g l && !(s.activeGroups 1).any (fun h => h != g && s.carries h l)))) ∧
      (∀ rate lanes, s.egState g = 4 → rate ≠ 0 → rate ≤ s.fld (edgeReg g 0x10) 7 0 → rate ≤ (if s.egPers g = 1 then 32 else 106) →
        lanes ≠ 0 → lanes < 2 ^ (if (s.reg (edgeReg g 0x10)).getLsbD 16 = true then 8 else 16) →
        ∃ t, exec (.edgeTrainComplete g rate lanes) s = .next t ∧
          Claims.regsBecome s t [(edgeReg g 8, withField (withField (s.reg (edgeReg g 8)) 23 16 rate) 15 0 lanes),
            (edgeReg g 0, withField (s.reg (edgeReg g 0)) 23 20 5)]) ∧
      (s.egState g = 4 →
        ∃ t, exec (.edgeTrainTimeout g) s = .next t ∧ t = { s with maint := t.maint } ∧ t.egState g = 6 ∧
          t.reg (edgeReg g 8) = withField stat 31 24 2 ∧ t.fld 0xF00 7 0 = (s.fld 0xF00 7 0 + 1) % 256) ∧
      (s.egState g = 5 → (s.egPers g = 1 → ∃ l < 16, s.carries g l = true) →
        ∃ t, exec (.edgeEnumComplete g) s = .next t ∧ t = { s with maint := t.maint } ∧ t.egState g = 1 ∧ t.egPers g = s.egPers g ∧
          ∀ l < 16, (t.reg (ldReg l 0)).getLsbD 31 = ((s.reg (ldReg l 0)).getLsbD 31 || s.egPers g == 1 && s.carries g l)) ∧
      (s.egState g = 1 →
        ∃ t, exec (.linkLost g) s = .next t ∧
          Claims.regsBecome s t [(edgeReg g 8, withField stat 31 24 3), (edgeReg g 0, withField (s.reg (edgeReg g 0)) 23 20 6)])) ∧
    (∀ (k repaired : Nat), k < 32 → s.fld (hbmReg k 8) 1 0 = 1 →
      let op := s.fld (hbmReg k 8) 15 8
      (∃ t, exec (.hbmOpComplete k true repaired) s = .next t ∧ t.fld (hbmReg k 8) 1 0 = 2 ∧ t.fld (hbmReg k 8) 15 8 = op ∧
        (op = 6 → t.fld (hbmReg k 8) 31 16 = repaired % 2 ^ 16) ∧ (op ≠ 6 → t.fld (hbmReg k 8) 31 16 = s.fld (hbmReg k 8) 31 16) ∧
        (op ≠ 7 → t = { s with maint := t.maint }) ∧
        (op = 7 → t = { s with maint := t.maint, mem := t.mem, ptag := t.ptag, marks := t.marks } ∧
          ∀ c, c ∈ t.mem ↔ c ∈ s.mem ∧ c.1 / 2 ^ 27 / 384 ≠ k)) ∧
      ∃ t, exec (.hbmOpComplete k false repaired) s = .next t ∧ t.fld (hbmReg k 8) 1 0 = 3 ∧ t.fld (hbmReg k 8) 15 8 = op ∧
        t.hbmFails.get k 0 = s.hbmFails.get k 0 + 1 ∧ t = { s with maint := t.maint, hbmFails := t.hbmFails }) ∧
    (∀ (pa store : Nat), isHbm pa = true → s.stackOn (pa / 2 ^ 27 / 384) = true → (store = 3 ∨ store = 4) → pa / 8 ∉ s.marks →
      ∃ t, exec (.patrolScrub pa store true) s = .next t ∧ t.marks = s.marks ++ [pa / 8] ∧
        t = { s with maint := t.maint, inboxes := t.inboxes, msix := t.msix, irqs := t.irqs, marks := t.marks, shaped := t.shaped } ∧
        ∀ pid die, s.ownerOf pa = some (pid, die) → s.qstate pid ≠ 0 → pid ∈ t.shaped) ∧
    (s.cur.on = false → ∀ uid : Nat,
      let b := s.block uid
      let told := fun (t : State) => t = { s with
        maint := t.maint, inboxes := t.inboxes, msix := t.msix, irqs := t.irqs, shaped := t.shaped, blocks := t.blocks }
      (∀ a : Nat, b.standing = true → a < b.spmb → a < 2 ^ 32 → b.spmBad a 1 = false →
        ∃ t, exec (.patrolScrub (uid * 2 ^ 32 + a) 2 true) s = .next t ∧ told t ∧
          Claims.blockBecomes s t uid { b with spmMarks := b.spmMarks ++ (List.range 8).map (a / 8 * 8 + ·) }) ∧
      (∀ wid reg L : Nat, wid < b.waves.length → wid < 256 → reg < 2 ^ 18 → L < 64 → s.lineCached uid wid reg = true →
        let w := s.wave uid wid
        let m := maskOf (fun K => K / 2 == L / 2) &&& ~~~ w.empty.get reg 0
        m ≠ 0 →
        ∃ t, exec (.patrolScrub (uid * 2 ^ 32 + wid * 2 ^ 24 + reg * 64 + L) 1 true) s = .next t ∧ told t ∧
          Claims.waveBecomes s t uid wid (w.markLine reg m (b.partVa (wid + 1) (w.v0At + 192 * reg))))) ∧
    (∀ results : List (Nat × W64), s.fld 0x50000 1 1 = 1 → s.cur.on = false →
      ∃ t, exec (.bistComplete results) s = .next t ∧ t = { s with
          maint := t.maint, blocks := t.blocks, stale := t.stale, ucopies := t.ucopies, rcache := t.rcache, icache := t.icache, tlb := t.tlb } ∧
        t.fld 0x50000 2 1 = 2 ∧
        (∀ u, t.block u = if (s.block u).die = 64 then s.block u
          else { s.block u with spm := [], waves := (s.block u).waves.map fun w => { w with v := [], acc := [] } }) ∧
        (∀ x ∈ t.rcache, x.quarter / 576 = 64) ∧ (∀ x ∈ t.ucopies, x.die = 64) ∧
        ∀ d < 64, ∀ p < 156, t.reg (bistReg d p) =
          (((results.find? (fun e => e.1 == d * 156 + p)).map (·.2)).getD 0 &&& BitVec.ofNat 64 (bits 14 13 + bits 11 0)) ||| BitVec.ofNat 64 (2 ^ 15)) ∧
    (s.pendFreq ≠ 0 → s.freqAt ≤ s.time →
      ∃ t, exec .freqChangeApply s = .next t ∧
        Claims.regsBecome s t [(0x10048, withField (withField (withField (s.reg 0x10048) 31 24 s.pendFreq) 23 16 0) 2 0 2)]) ∧
    (∀ power : Nat, (∀ d < 64, s.fld (0x10100 + 8 * d) 11 0 < 800) →
      let used := (0x10050, withField (s.reg 0x10050) 47 32 power)
      (power % 2 ^ 16 ≤ s.fld 0x10050 15 0 → ∃ t, exec (.limiterCheck power []) s = .next t ∧ Claims.regsBecome s t [used]) ∧
      (s.fld 0x10050 15 0 < power % 2 ^ 16 → s.curFreq ≠ 0 → s.pendFreq = 0 → s.running = true →
        ∃ t, exec (.limiterCheck power []) s = .next t ∧ Claims.regsAnd s t { s with freqAt := s.time + 200 }
          [used, (0x10048, withField (withField (s.reg 0x10048) 23 16 (max 16 (s.curFreq - 4))) 2 0 1)]) ∧
      (∀ die tj, die < 64 → 880 ≤ tj → tj < 2 ^ 12 → ∃ t, exec (.limiterCheck power [(die, tj)]) s = .next t ∧ Claims.tripped s t die)) ∧
    (∀ die tj : Nat, 880 ≤ tj → die < 64 → ∃ t, exec (.thermalTrip die tj) s = .next t ∧ Claims.tripped s t die) ∧
    (∀ rail mv : Nat, rail < 4 →
      let near := s.railEn rail = true ∧ mv * 100 ≤ s.railTarget rail * 102 ∧ s.railTarget rail * 98 ≤ mv * 100
      (near → ∃ t, exec (.railPgood rail mv) s = .next t ∧
        Claims.regsBecome s t [(railReg rail, withField (withField (s.reg (railReg rail)) 47 32 mv) 31 31 1)]) ∧
      (¬ near → ∃ t, exec (.railPgood rail mv) s = .next t ∧
        Claims.regsBecome s t [(railReg rail, withField (withField (s.reg (railReg rail)) 47 32 mv) 31 31 0)])) ∧
    ∃ t, exec .moduleReset s = .next t ∧ exec .powerOn s = .next t ∧ t = { State.reset with agenda := s.agenda, maint := t.maint } ∧
      (s.fuses = [] → t.maint = []) ∧
      ∀ d < 64, ∀ o ∈ [0x80000, 0x80008, 0x80010, 0x80018], t.reg (0x10000000 + 0x100000 * d + o) = s.reg (0x10000000 + 0x100000 * d + o)
end
end

