-- ==== Sys2Proof/Laws/Encoding.lean ====
section
/-! SUPPORT. Laws of the encoder and the decoder: the fields of a word that the encoder makes, the fixed bits, and the words of an
instruction read back. -/

namespace Sys2Proof.Laws

/-! ### The fields of a word -/

theorem toNat_mkWord (h : Hdr) (n : Nat) (hn : n < 2147483648) :
    (mkWord h n).toNat = n + h.chain.toNat * 2147483648 := by
  unfold mkWord
  rw [BitVec.toNat_ofNat]
  cases h.chain <;> simp <;> omega

theorem fld_toNat (w : W32) (lo len : Nat) : (fld w lo len).toNat = w.toNat / 2 ^ lo % 2 ^ len := by
  simp [fld, BitVec.extractLsb'_toNat, Nat.shiftRight_eq_div_pow]

/-- A field below bit 31 does not see the chain bit. -/
theorem field_mkWord (h : Hdr) (n : Nat) (hn : n < 2147483648) (lo len : Nat) (hl : lo + len ≤ 31) :
    (fld (mkWord h n) lo len).toNat = n / 2 ^ lo % 2 ^ len := by
  rw [fld_toNat, toNat_mkWord h n hn]
  have e : (2147483648 : Nat) = 2 ^ (31 - lo) * 2 ^ lo := by
    rw [← Nat.pow_add, Nat.sub_add_cancel (show lo ≤ 31 by omega)]
  have f : (2 : Nat) ^ (31 - lo) = 2 ^ (31 - lo - len) * 2 ^ len := by
    rw [← Nat.pow_add, Nat.sub_add_cancel (show len ≤ 31 - lo by omega)]
  rw [e, ← Nat.mul_assoc, Nat.add_mul_div_right _ _ (Nat.two_pow_pos lo), f, ← Nat.mul_assoc, Nat.add_mul_mod_self_right]

theorem field_is (h : Hdr) (n : Nat) (hn : n < 2147483648) (lo len v : Nat) (hl : lo + len ≤ 31)
    (e : n / 2 ^ lo % 2 ^ len = v) : (fld (mkWord h n) lo len).toNat = v := by
  rw [field_mkWord h n hn lo len hl, e]

theorem field_reads (h : Hdr) (n : Nat) (hn : n < 2147483648) (lo : Nat) {len : Nat} (v : BitVec len) (hl : lo + len ≤ 31)
    (e : n / 2 ^ lo % 2 ^ len = v.toNat) : fld (mkWord h n) lo len = v := by
  apply BitVec.eq_of_toNat_eq
  rw [field_mkWord h n hn lo len hl, e]

theorem bit_toNat (w : W32) (i : Nat) : bit w i = decide (w.toNat / 2 ^ i % 2 = 1) := by
  rw [bit, BitVec.getLsbD, Nat.testBit_eq_decide_div_mod_eq]

theorem bit_reads (h : Hdr) (n : Nat) (hn : n < 2147483648) (i : Nat) (v : Bool) (hi : i < 31)
    (e : n / 2 ^ i % 2 = v.toNat) : bit (mkWord h n) i = v := by
  have := field_mkWord h n hn i 1 (by omega)
  rw [fld_toNat] at this
  rw [bit_toNat, show (mkWord h n).toNat / 2 ^ i % 2 = n / 2 ^ i % 2 by simpa using this, e]
  cases v <;> simp

theorem chain_reads (h : Hdr) (n : Nat) (hn : n < 2147483648) : bit (mkWord h n) 31 = h.chain := by
  rw [bit_toNat, toNat_mkWord h n hn]
  cases h.chain <;> simp <;> omega

/-! ### The fixed bits -/

/-- The mask of runs of bits (low bit, length). -/
def runsHave (runs : List (Nat × Nat)) (i : Nat) : Bool := runs.any (fun r => decide (r.1 ≤ i) && decide (i < r.1 + r.2))

/-- A word under a mask is the pattern when it agrees with it run by run. -/
theorem masked_runs (w mask pat : W32) (runs : List (Nat × Nat))
    (hm : ∀ i : Fin 32, mask.getLsbD i = runsHave runs i) (hp : pat &&& mask = pat)
    (h : ∀ r ∈ runs, w.toNat / 2 ^ r.1 % 2 ^ r.2 = pat.toNat / 2 ^ r.1 % 2 ^ r.2) : w &&& mask = pat := by
  rw [← hp]
  apply BitVec.eq_of_getLsbD_eq
  intro i hi
  rw [BitVec.getLsbD_and, BitVec.getLsbD_and, hm ⟨i, hi⟩]
  by_cases hr : runsHave runs i = true
  · simp only [hr, Bool.and_true]
    obtain ⟨r, hr1, hr2⟩ := List.any_eq_true.1 hr
    have e := congrArg (fun x => x.testBit (i - r.1)) (h r hr1)
    simp only [Bool.and_eq_true, decide_eq_true_eq] at hr2
    simp only [← Nat.shiftRight_eq_div_pow, Nat.testBit_mod_two_pow, Nat.testBit_shiftRight,
      show r.1 + (i - r.1) = i by omega, show i - r.1 < r.2 by omega, decide_true, Bool.true_and] at e
    exact e
  · simp [hr]

/-- The check of the fixed bits passes where a word's number agrees with the pattern's on every run of the mask. -/
theorem fixed_passes (h : Hdr) (n : Nat) (hn : n < 2147483648) (mask : W32) (c : Nat) (runs : List (Nat × Nat))
    (k : Except DecodeError Instr) (hm : ∀ i : Fin 32, mask.getLsbD i = runsHave runs i) (hl : ∀ r ∈ runs, r.1 + r.2 ≤ 31)
    (hc : c < 2147483648) (hp : BitVec.ofNat 32 c &&& mask = BitVec.ofNat 32 c)
    (hr : ∀ r ∈ runs, n / 2 ^ r.1 % 2 ^ r.2 = c / 2 ^ r.1 % 2 ^ r.2) :
    chk (mkWord h n) mask (BitVec.ofNat 32 c) k = k := by
  unfold chk
  rw [if_pos]
  refine masked_runs _ mask _ runs hm hp fun r hr' => ?_
  rw [BitVec.toNat_ofNat, Nat.mod_eq_of_lt (show c < 2 ^ 32 by omega), ← hr r hr', ← field_mkWord h n hn r.1 r.2 (hl r hr'),
    fld_toNat]

theorem cls3_passes (h : Hdr) (n : Nat) (hn : n < 2147483648) (lo : Nat) (v : BitVec 3) (k : BitVec 3 → Except DecodeError Instr)
    (hl : lo + 6 ≤ 31) (e : n / 2 ^ lo % 64 = v.toNat) : cls3 (mkWord h n) lo k = k v := by
  have hv : v.toNat < 8 := v.isLt
  have h6 : n / 2 ^ lo % 2 ^ 6 = v.toNat := by simpa using e
  unfold cls3
  rw [if_pos (by rw [field_mkWord h n hn lo 6 hl, h6]; exact hv), field_reads h n hn lo v (by omega)]
  show _ % 8 = _
  omega

/-! ### Extension words -/

theorem isExt_modWord (m : Mod) : isExt (modWord m) = true := by
  have := m.k.isLt; have := m.p.isLt; have := m.rnd.isLt; have := m.c.isLt
  have := m.pn.toNat_le; have := m.sat.toNat_le; have := m.ec.toNat_le
  unfold isExt modWord
  rw [fld_toNat, BitVec.toNat_ofNat, beq_iff_eq]
  omega

theorem isExt_immWord (j : BitVec 25) : isExt (immWord j) = true := by
  have := j.isLt
  unfold isExt immWord
  rw [fld_toNat, BitVec.toNat_ofNat, beq_iff_eq]
  omega

theorem isImm_modWord (m : Mod) : isImmWord (modWord m) = false := by
  have := m.k.isLt; have := m.p.isLt; have := m.rnd.isLt; have := m.c.isLt
  have := m.pn.toNat_le; have := m.sat.toNat_le; have := m.ec.toNat_le
  unfold isImmWord modWord
  rw [bit_toNat, BitVec.toNat_ofNat, decide_eq_false_iff_not]
  omega

theorem isImm_immWord (j : BitVec 25) : isImmWord (immWord j) = true := by
  have := j.isLt
  unfold isImmWord immWord
  rw [bit_toNat, BitVec.toNat_ofNat, decide_eq_true_eq]
  omega

theorem imm_reads (j : BitVec 25) : fld (immWord j) 0 25 = j := by
  have := j.isLt
  apply BitVec.eq_of_toNat_eq
  unfold immWord
  rw [fld_toNat, BitVec.toNat_ofNat]
  omega

/-- The modifier word of R166 reads back. -/
theorem parseMod_modWord (m : Mod) : parseMod (modWord m) = .ok m := by
  obtain ⟨k, p, pn, rnd, sat, ec, c⟩ := m
  have hk := k.isLt; have hp := p.isLt; have hr := rnd.isLt; have hc := c.isLt
  have h1 := pn.toNat_le; have h2 := sat.toNat_le; have h3 := ec.toNat_le
  have hb : ∀ (b : Bool) (x : Nat), x = b.toNat → decide (x = 1) = b := by intro b x h; subst h; cases b <;> simp
  unfold parseMod modWord
  rw [if_pos (by apply BitVec.eq_of_toNat_eq; rw [fld_toNat, BitVec.toNat_ofNat]; show _ = 0; omega)]
  congr 1
  simp only [Mod.mk.injEq]
  refine ⟨?_, ?_, ?_, ?_, ?_, ?_, ?_⟩
  · apply BitVec.eq_of_toNat_eq; rw [fld_toNat, BitVec.toNat_ofNat]; omega
  · apply BitVec.eq_of_toNat_eq; rw [fld_toNat, BitVec.toNat_ofNat]; omega
  · rw [bit_toNat, BitVec.toNat_ofNat]; apply hb; omega
  · apply BitVec.eq_of_toNat_eq; rw [fld_toNat, BitVec.toNat_ofNat]; omega
  · rw [bit_toNat, BitVec.toNat_ofNat]; apply hb; omega
  · rw [bit_toNat, BitVec.toNat_ofNat]; apply hb; omega
  · apply BitVec.eq_of_toNat_eq; rw [fld_toNat, BitVec.toNat_ofNat]; omega

/-! ### Words of an instruction -/

/-- The words that the encoder gives an instruction read back as it, whatever stands after them. -/
def ReadsBack.Statement (i : Instr) : Prop := i.wf = true → ∀ rest, decodeWords (encode i ++ rest) = .ok (i, rest)

theorem isExt_mkWord (h : Hdr) (n : Nat) (hn : n < 2147483648) (hm : n / 67108864 % 32 ≠ 31) : isExt (mkWord h n) = false := by
  unfold isExt
  rw [field_mkWord h n hn 26 5 (by omega), beq_eq_false_iff_ne]
  exact hm

/-- The last part of the decoder. -/
def decodeEnd (r : Except DecodeError Instr) : Except DecodeError Instr :=
  match r with
  | .error e => .error e
  | .ok i => if i.wf then .ok i else .error .notWellFormed

theorem decodeEnd_ok (i : Instr) (wf : i.wf = true) : decodeEnd (.ok i) = .ok i := by
  simp only [decodeEnd, wf, if_true]

theorem decode_none (im : Option W32) (w : W32) :
    decode none im w = decodeEnd (parseWord ⟨bit w 31, none, im.map (fun x => fld x 0 25)⟩ w) := rfl

theorem decode_some (x : W32) (m : Mod) (im : Option W32) (w : W32) (hm : parseMod x = .ok m) :
    decode (some x) im w = decodeEnd (parseWord ⟨bit w 31, some m, im.map (fun x => fld x 0 25)⟩ w) := by
  unfold decode
  simp only [hm, Except.map]
  rfl

/-- The decoder on a word whose extension words read back. -/
theorem decode_ok (ch : Bool) (mw : Option Mod) (im : Option (BitVec 25)) (w : W32) (i : Instr) (hc : bit w 31 = ch)
    (hp : parseWord ⟨ch, mw, im⟩ w = .ok i) (wf : i.wf = true) :
    decode (mw.map modWord) (im.map immWord) w = .ok i := by
  have e1 : (im.map immWord).map (fun x => fld x 0 25) = im := by
    cases im
    · rfl
    · exact congrArg some (imm_reads _)
  cases mw with
  | none => rw [Option.map_none, decode_none, e1, hc, hp, decodeEnd_ok i wf]
  | some m => rw [Option.map_some, decode_some _ m _ _ (parseMod_modWord m), e1, hc, hp, decodeEnd_ok i wf]

/-- The extension words of a header and an instruction word, read by the decoder. -/
theorem decodeWords_hdr (h : Hdr) (w : W32) (i : Instr) (rest : List W32) (hx : isExt w = false)
    (hd : decode (h.modw.map modWord) (h.imm.map immWord) w = .ok i) :
    decodeWords ((h.modw.map modWord).toList ++ (h.imm.map immWord).toList ++ [w] ++ rest) = .ok (i, rest) := by
  obtain ⟨ch, mw, im⟩ := h
  cases mw <;> cases im <;> simp only [Option.map_none, Option.map_some] at hd
  · simp only [Option.map_none, Option.toList_none, List.nil_append, List.cons_append, decodeWords, hx, hd, Bool.false_eq_true,
      if_false]
    rfl
  · simp only [Option.map_none, Option.map_some, Option.toList_none, Option.toList_some, List.nil_append, List.cons_append,
      decodeWords, hx, hd, isExt_immWord, isImm_immWord, Bool.false_eq_true, if_false, if_true]
    rfl
  · simp only [Option.map_none, Option.map_some, Option.toList_none, Option.toList_some, List.nil_append, List.cons_append,
      decodeWords, hx, hd, isExt_modWord, isImm_modWord, Bool.false_eq_true, if_false, if_true]
    rfl
  · simp only [Option.map_some, Option.toList_some, List.nil_append, List.cons_append, decodeWords, hx, hd, isExt_modWord,
      isImm_modWord, isExt_immWord, isImm_immWord, Bool.false_or, Bool.false_eq_true, if_false, if_true, beq_iff_eq]
    rfl

/-- What remains of it for an instruction whose word and header are known: its major is no extension word's, and its word parses. -/
theorem readsBack_of {i : Instr} (h : Hdr) (n : Nat) (hw : i.word = some (mkWord h n)) (hh : i.hdr = h) (hn : n < 2147483648)
    (hm : n / 67108864 % 32 ≠ 31) (hp : parseWord h (mkWord h n) = .ok i) : ReadsBack.Statement i := by
  intro wf rest
  unfold encode
  rw [hw, hh]
  exact decodeWords_hdr h _ i rest (isExt_mkWord h n hn hm)
    (decode_ok h.chain h.modw h.imm _ i (chain_reads h n hn) hp wf)

/-- A step of another agent is no well-formed instruction. -/
theorem readsBack_step {i : Instr} (h : i.shape = none) : ReadsBack.Statement i := by
  intro wf
  simp [Instr.wf, h] at wf

end Sys2Proof.Laws
end

