-- ==== Sys2Proof/Laws/State.lean ====
section
/-! SUPPORT. What each update of the state leaves as it was: one lemma per field per update, so that no later proof unfolds a
record update. -/

namespace Sys2Proof.Machine

/-! ### `State.setW` -/

@[simp] theorem State.setW_pre (s : State) (w : Wave) : (s.setW w).pre = s.pre := rfl
@[simp] theorem State.setW_bk (s : State) (w : Wave) : (s.setW w).bk = s.bk := rfl
@[simp] theorem State.setW_cur (s : State) (w : Wave) : (s.setW w).cur = s.cur := rfl
@[simp] theorem State.setW_blocks (s : State) (w : Wave) : (s.setW w).blocks = s.blocks := rfl
@[simp] theorem State.setW_launches (s : State) (w : Wave) : (s.setW w).launches = s.launches := rfl
@[simp] theorem State.setW_nextUid (s : State) (w : Wave) : (s.setW w).nextUid = s.nextUid := rfl
@[simp] theorem State.setW_leadSlot (s : State) (w : Wave) : (s.setW w).leadSlot = s.leadSlot := rfl
@[simp] theorem State.setW_forcedAt (s : State) (w : Wave) : (s.setW w).forcedAt = s.forcedAt := rfl
@[simp] theorem State.setW_grants (s : State) (w : Wave) : (s.setW w).grants = s.grants := rfl
@[simp] theorem State.setW_passBusy (s : State) (w : Wave) : (s.setW w).passBusy = s.passBusy := rfl
@[simp] theorem State.setW_rcache (s : State) (w : Wave) : (s.setW w).rcache = s.rcache := rfl
@[simp] theorem State.setW_lineWants (s : State) (w : Wave) : (s.setW w).lineWants = s.lineWants := rfl
@[simp] theorem State.setW_mem (s : State) (w : Wave) : (s.setW w).mem = s.mem := rfl
@[simp] theorem State.setW_writes (s : State) (w : Wave) : (s.setW w).writes = s.writes := rfl
@[simp] theorem State.setW_nextWrite (s : State) (w : Wave) : (s.setW w).nextWrite = s.nextWrite := rfl
@[simp] theorem State.setW_observed (s : State) (w : Wave) : (s.setW w).observed = s.observed := rfl
@[simp] theorem State.setW_ucopies (s : State) (w : Wave) : (s.setW w).ucopies = s.ucopies := rfl
@[simp] theorem State.setW_stale (s : State) (w : Wave) : (s.setW w).stale = s.stale := rfl
@[simp] theorem State.setW_marks (s : State) (w : Wave) : (s.setW w).marks = s.marks := rfl
@[simp] theorem State.setW_ptag (s : State) (w : Wave) : (s.setW w).ptag = s.ptag := rfl
@[simp] theorem State.setW_leaving (s : State) (w : Wave) : (s.setW w).leaving = s.leaving := rfl
@[simp] theorem State.setW_tlb (s : State) (w : Wave) : (s.setW w).tlb = s.tlb := rfl
@[simp] theorem State.setW_walks (s : State) (w : Wave) : (s.setW w).walks = s.walks := rfl
@[simp] theorem State.setW_locks (s : State) (w : Wave) : (s.setW w).locks = s.locks := rfl
@[simp] theorem State.setW_icache (s : State) (w : Wave) : (s.setW w).icache = s.icache := rfl
@[simp] theorem State.setW_eng (s : State) (w : Wave) : (s.setW w).eng = s.eng := rfl
@[simp] theorem State.setW_jobs (s : State) (w : Wave) : (s.setW w).jobs = s.jobs := rfl
@[simp] theorem State.setW_pairEng (s : State) (w : Wave) : (s.setW w).pairEng = s.pairEng := rfl
@[simp] theorem State.setW_mqueue (s : State) (w : Wave) : (s.setW w).mqueue = s.mqueue := rfl
@[simp] theorem State.setW_starts (s : State) (w : Wave) : (s.setW w).starts = s.starts := rfl
@[simp] theorem State.setW_routes (s : State) (w : Wave) : (s.setW w).routes = s.routes := rfl
@[simp] theorem State.setW_fab (s : State) (w : Wave) : (s.setW w).fab = s.fab := rfl
@[simp] theorem State.setW_ams (s : State) (w : Wave) : (s.setW w).ams = s.ams := rfl
@[simp] theorem State.setW_inboxes (s : State) (w : Wave) : (s.setW w).inboxes = s.inboxes := rfl
@[simp] theorem State.setW_amWaits (s : State) (w : Wave) : (s.setW w).amWaits = s.amWaits := rfl
@[simp] theorem State.setW_sems (s : State) (w : Wave) : (s.setW w).sems = s.sems := rfl
@[simp] theorem State.setW_batches (s : State) (w : Wave) : (s.setW w).batches = s.batches := rfl
@[simp] theorem State.setW_batchSeq (s : State) (w : Wave) : (s.setW w).batchSeq = s.batchSeq := rfl
@[simp] theorem State.setW_ctxWords (s : State) (w : Wave) : (s.setW w).ctxWords = s.ctxWords := rfl
@[simp] theorem State.setW_maint (s : State) (w : Wave) : (s.setW w).maint = s.maint := rfl
@[simp] theorem State.setW_pslots (s : State) (w : Wave) : (s.setW w).pslots = s.pslots := rfl
@[simp] theorem State.setW_coresWere (s : State) (w : Wave) : (s.setW w).coresWere = s.coresWere := rfl
@[simp] theorem State.setW_lost (s : State) (w : Wave) : (s.setW w).lost = s.lost := rfl
@[simp] theorem State.setW_shaped (s : State) (w : Wave) : (s.setW w).shaped = s.shaped := rfl
@[simp] theorem State.setW_keys (s : State) (w : Wave) : (s.setW w).keys = s.keys := rfl
@[simp] theorem State.setW_keyGen (s : State) (w : Wave) : (s.setW w).keyGen = s.keyGen := rfl
@[simp] theorem State.setW_featWritten (s : State) (w : Wave) : (s.setW w).featWritten = s.featWritten := rfl
@[simp] theorem State.setW_freqAt (s : State) (w : Wave) : (s.setW w).freqAt = s.freqAt := rfl
@[simp] theorem State.setW_hbmFails (s : State) (w : Wave) : (s.setW w).hbmFails = s.hbmFails := rfl
@[simp] theorem State.setW_egReq (s : State) (w : Wave) : (s.setW w).egReq = s.egReq := rfl
@[simp] theorem State.setW_idPassed (s : State) (w : Wave) : (s.setW w).idPassed = s.idPassed := rfl
@[simp] theorem State.setW_secOp (s : State) (w : Wave) : (s.setW w).secOp = s.secOp := rfl
@[simp] theorem State.setW_vstore (s : State) (w : Wave) : (s.setW w).vstore = s.vstore := rfl
@[simp] theorem State.setW_vfr (s : State) (w : Wave) : (s.setW w).vfr = s.vfr := rfl
@[simp] theorem State.setW_msix (s : State) (w : Wave) : (s.setW w).msix = s.msix := rfl
@[simp] theorem State.setW_irqs (s : State) (w : Wave) : (s.setW w).irqs = s.irqs := rfl
@[simp] theorem State.setW_tdi (s : State) (w : Wave) : (s.setW w).tdi = s.tdi := rfl
@[simp] theorem State.setW_resetting (s : State) (w : Wave) : (s.setW w).resetting = s.resetting := rfl
@[simp] theorem State.setW_reports (s : State) (w : Wave) : (s.setW w).reports = s.reports := rfl
@[simp] theorem State.setW_replay (s : State) (w : Wave) : (s.setW w).replay = s.replay := rfl
@[simp] theorem State.setW_inbound (s : State) (w : Wave) : (s.setW w).inbound = s.inbound := rfl
@[simp] theorem State.setW_bells (s : State) (w : Wave) : (s.setW w).bells = s.bells := rfl
@[simp] theorem State.setW_tearing (s : State) (w : Wave) : (s.setW w).tearing = s.tearing := rfl
@[simp] theorem State.setW_drones (s : State) (w : Wave) : (s.setW w).drones = s.drones := rfl
@[simp] theorem State.setW_certs (s : State) (w : Wave) : (s.setW w).certs = s.certs := rfl
@[simp] theorem State.setW_certParts (s : State) (w : Wave) : (s.setW w).certParts = s.certParts := rfl
@[simp] theorem State.setW_spdmVersion (s : State) (w : Wave) : (s.setW w).spdmVersion = s.spdmVersion := rfl
@[simp] theorem State.setW_spdmReqs (s : State) (w : Wave) : (s.setW w).spdmReqs = s.spdmReqs := rfl
@[simp] theorem State.setW_reply (s : State) (w : Wave) : (s.setW w).reply = s.reply := rfl
@[simp] theorem State.setW_mepJob (s : State) (w : Wave) : (s.setW w).mepJob = s.mepJob := rfl
@[simp] theorem State.setW_sysLost (s : State) (w : Wave) : (s.setW w).sysLost = s.sysLost := rfl
@[simp] theorem State.setW_clk (s : State) (w : Wave) : (s.setW w).clk = s.clk := rfl
@[simp] theorem State.setW_issuedNow (s : State) (w : Wave) : (s.setW w).issuedNow = s.issuedNow := rfl
@[simp] theorem State.setW_picks (s : State) (w : Wave) : (s.setW w).picks = s.picks := rfl
@[simp] theorem State.setW_owed (s : State) (w : Wave) : (s.setW w).owed = s.owed := rfl
@[simp] theorem State.setW_leeway (s : State) (w : Wave) : (s.setW w).leeway = s.leeway := rfl
@[simp] theorem State.setW_agenda (s : State) (w : Wave) : (s.setW w).agenda = s.agenda := rfl

/-! ### `State.setReg` -/

@[simp] theorem State.setReg_wv (s : State) (a : Nat) (v : W64) : (s.setReg a v).wv = s.wv := rfl
@[simp] theorem State.setReg_pre (s : State) (a : Nat) (v : W64) : (s.setReg a v).pre = s.pre := rfl
@[simp] theorem State.setReg_bk (s : State) (a : Nat) (v : W64) : (s.setReg a v).bk = s.bk := rfl
@[simp] theorem State.setReg_cur (s : State) (a : Nat) (v : W64) : (s.setReg a v).cur = s.cur := rfl
@[simp] theorem State.setReg_blocks (s : State) (a : Nat) (v : W64) : (s.setReg a v).blocks = s.blocks := rfl
@[simp] theorem State.setReg_launches (s : State) (a : Nat) (v : W64) : (s.setReg a v).launches = s.launches := rfl
@[simp] theorem State.setReg_nextUid (s : State) (a : Nat) (v : W64) : (s.setReg a v).nextUid = s.nextUid := rfl
@[simp] theorem State.setReg_leadSlot (s : State) (a : Nat) (v : W64) : (s.setReg a v).leadSlot = s.leadSlot := rfl
@[simp] theorem State.setReg_forcedAt (s : State) (a : Nat) (v : W64) : (s.setReg a v).forcedAt = s.forcedAt := rfl
@[simp] theorem State.setReg_grants (s : State) (a : Nat) (v : W64) : (s.setReg a v).grants = s.grants := rfl
@[simp] theorem State.setReg_passBusy (s : State) (a : Nat) (v : W64) : (s.setReg a v).passBusy = s.passBusy := rfl
@[simp] theorem State.setReg_rcache (s : State) (a : Nat) (v : W64) : (s.setReg a v).rcache = s.rcache := rfl
@[simp] theorem State.setReg_lineWants (s : State) (a : Nat) (v : W64) : (s.setReg a v).lineWants = s.lineWants := rfl
@[simp] theorem State.setReg_mem (s : State) (a : Nat) (v : W64) : (s.setReg a v).mem = s.mem := rfl
@[simp] theorem State.setReg_writes (s : State) (a : Nat) (v : W64) : (s.setReg a v).writes = s.writes := rfl
@[simp] theorem State.setReg_nextWrite (s : State) (a : Nat) (v : W64) : (s.setReg a v).nextWrite = s.nextWrite := rfl
@[simp] theorem State.setReg_observed (s : State) (a : Nat) (v : W64) : (s.setReg a v).observed = s.observed := rfl
@[simp] theorem State.setReg_ucopies (s : State) (a : Nat) (v : W64) : (s.setReg a v).ucopies = s.ucopies := rfl
@[simp] theorem State.setReg_stale (s : State) (a : Nat) (v : W64) : (s.setReg a v).stale = s.stale := rfl
@[simp] theorem State.setReg_marks (s : State) (a : Nat) (v : W64) : (s.setReg a v).marks = s.marks := rfl
@[simp] theorem State.setReg_ptag (s : State) (a : Nat) (v : W64) : (s.setReg a v).ptag = s.ptag := rfl
@[simp] theorem State.setReg_leaving (s : State) (a : Nat) (v : W64) : (s.setReg a v).leaving = s.leaving := rfl
@[simp] theorem State.setReg_tlb (s : State) (a : Nat) (v : W64) : (s.setReg a v).tlb = s.tlb := rfl
@[simp] theorem State.setReg_walks (s : State) (a : Nat) (v : W64) : (s.setReg a v).walks = s.walks := rfl
@[simp] theorem State.setReg_locks (s : State) (a : Nat) (v : W64) : (s.setReg a v).locks = s.locks := rfl
@[simp] theorem State.setReg_icache (s : State) (a : Nat) (v : W64) : (s.setReg a v).icache = s.icache := rfl
@[simp] theorem State.setReg_eng (s : State) (a : Nat) (v : W64) : (s.setReg a v).eng = s.eng := rfl
@[simp] theorem State.setReg_jobs (s : State) (a : Nat) (v : W64) : (s.setReg a v).jobs = s.jobs := rfl
@[simp] theorem State.setReg_pairEng (s : State) (a : Nat) (v : W64) : (s.setReg a v).pairEng = s.pairEng := rfl
@[simp] theorem State.setReg_mqueue (s : State) (a : Nat) (v : W64) : (s.setReg a v).mqueue = s.mqueue := rfl
@[simp] theorem State.setReg_starts (s : State) (a : Nat) (v : W64) : (s.setReg a v).starts = s.starts := rfl
@[simp] theorem State.setReg_routes (s : State) (a : Nat) (v : W64) : (s.setReg a v).routes = s.routes := rfl
@[simp] theorem State.setReg_fab (s : State) (a : Nat) (v : W64) : (s.setReg a v).fab = s.fab := rfl
@[simp] theorem State.setReg_ams (s : State) (a : Nat) (v : W64) : (s.setReg a v).ams = s.ams := rfl
@[simp] theorem State.setReg_inboxes (s : State) (a : Nat) (v : W64) : (s.setReg a v).inboxes = s.inboxes := rfl
@[simp] theorem State.setReg_amWaits (s : State) (a : Nat) (v : W64) : (s.setReg a v).amWaits = s.amWaits := rfl
@[simp] theorem State.setReg_sems (s : State) (a : Nat) (v : W64) : (s.setReg a v).sems = s.sems := rfl
@[simp] theorem State.setReg_batches (s : State) (a : Nat) (v : W64) : (s.setReg a v).batches = s.batches := rfl
@[simp] theorem State.setReg_batchSeq (s : State) (a : Nat) (v : W64) : (s.setReg a v).batchSeq = s.batchSeq := rfl
@[simp] theorem State.setReg_ctxWords (s : State) (a : Nat) (v : W64) : (s.setReg a v).ctxWords = s.ctxWords := rfl
@[simp] theorem State.setReg_pslots (s : State) (a : Nat) (v : W64) : (s.setReg a v).pslots = s.pslots := rfl
@[simp] theorem State.setReg_coresWere (s : State) (a : Nat) (v : W64) : (s.setReg a v).coresWere = s.coresWere := rfl
@[simp] theorem State.setReg_lost (s : State) (a : Nat) (v : W64) : (s.setReg a v).lost = s.lost := rfl
@[simp] theorem State.setReg_shaped (s : State) (a : Nat) (v : W64) : (s.setReg a v).shaped = s.shaped := rfl
@[simp] theorem State.setReg_keys (s : State) (a : Nat) (v : W64) : (s.setReg a v).keys = s.keys := rfl
@[simp] theorem State.setReg_keyGen (s : State) (a : Nat) (v : W64) : (s.setReg a v).keyGen = s.keyGen := rfl
@[simp] theorem State.setReg_featWritten (s : State) (a : Nat) (v : W64) : (s.setReg a v).featWritten = s.featWritten := rfl
@[simp] theorem State.setReg_freqAt (s : State) (a : Nat) (v : W64) : (s.setReg a v).freqAt = s.freqAt := rfl
@[simp] theorem State.setReg_hbmFails (s : State) (a : Nat) (v : W64) : (s.setReg a v).hbmFails = s.hbmFails := rfl
@[simp] theorem State.setReg_egReq (s : State) (a : Nat) (v : W64) : (s.setReg a v).egReq = s.egReq := rfl
@[simp] theorem State.setReg_idPassed (s : State) (a : Nat) (v : W64) : (s.setReg a v).idPassed = s.idPassed := rfl
@[simp] theorem State.setReg_secOp (s : State) (a : Nat) (v : W64) : (s.setReg a v).secOp = s.secOp := rfl
@[simp] theorem State.setReg_vstore (s : State) (a : Nat) (v : W64) : (s.setReg a v).vstore = s.vstore := rfl
@[simp] theorem State.setReg_vfr (s : State) (a : Nat) (v : W64) : (s.setReg a v).vfr = s.vfr := rfl
@[simp] theorem State.setReg_msix (s : State) (a : Nat) (v : W64) : (s.setReg a v).msix = s.msix := rfl
@[simp] theorem State.setReg_irqs (s : State) (a : Nat) (v : W64) : (s.setReg a v).irqs = s.irqs := rfl
@[simp] theorem State.setReg_tdi (s : State) (a : Nat) (v : W64) : (s.setReg a v).tdi = s.tdi := rfl
@[simp] theorem State.setReg_resetting (s : State) (a : Nat) (v : W64) : (s.setReg a v).resetting = s.resetting := rfl
@[simp] theorem State.setReg_reports (s : State) (a : Nat) (v : W64) : (s.setReg a v).reports = s.reports := rfl
@[simp] theorem State.setReg_replay (s : State) (a : Nat) (v : W64) : (s.setReg a v).replay = s.replay := rfl
@[simp] theorem State.setReg_inbound (s : State) (a : Nat) (v : W64) : (s.setReg a v).inbound = s.inbound := rfl
@[simp] theorem State.setReg_bells (s : State) (a : Nat) (v : W64) : (s.setReg a v).bells = s.bells := rfl
@[simp] theorem State.setReg_tearing (s : State) (a : Nat) (v : W64) : (s.setReg a v).tearing = s.tearing := rfl
@[simp] theorem State.setReg_drones (s : State) (a : Nat) (v : W64) : (s.setReg a v).drones = s.drones := rfl
@[simp] theorem State.setReg_certs (s : State) (a : Nat) (v : W64) : (s.setReg a v).certs = s.certs := rfl
@[simp] theorem State.setReg_certParts (s : State) (a : Nat) (v : W64) : (s.setReg a v).certParts = s.certParts := rfl
@[simp] theorem State.setReg_spdmVersion (s : State) (a : Nat) (v : W64) : (s.setReg a v).spdmVersion = s.spdmVersion := rfl
@[simp] theorem State.setReg_spdmReqs (s : State) (a : Nat) (v : W64) : (s.setReg a v).spdmReqs = s.spdmReqs := rfl
@[simp] theorem State.setReg_reply (s : State) (a : Nat) (v : W64) : (s.setReg a v).reply = s.reply := rfl
@[simp] theorem State.setReg_mepJob (s : State) (a : Nat) (v : W64) : (s.setReg a v).mepJob = s.mepJob := rfl
@[simp] theorem State.setReg_sysLost (s : State) (a : Nat) (v : W64) : (s.setReg a v).sysLost = s.sysLost := rfl
@[simp] theorem State.setReg_clk (s : State) (a : Nat) (v : W64) : (s.setReg a v).clk = s.clk := rfl
@[simp] theorem State.setReg_issuedNow (s : State) (a : Nat) (v : W64) : (s.setReg a v).issuedNow = s.issuedNow := rfl
@[simp] theorem State.setReg_picks (s : State) (a : Nat) (v : W64) : (s.setReg a v).picks = s.picks := rfl
@[simp] theorem State.setReg_owed (s : State) (a : Nat) (v : W64) : (s.setReg a v).owed = s.owed := rfl
@[simp] theorem State.setReg_leeway (s : State) (a : Nat) (v : W64) : (s.setReg a v).leeway = s.leeway := rfl
@[simp] theorem State.setReg_agenda (s : State) (a : Nat) (v : W64) : (s.setReg a v).agenda = s.agenda := rfl

/-! ### `State.setFld` -/

@[simp] theorem State.setFld_wv (s : State) (a h l v : Nat) : (s.setFld a h l v).wv = s.wv := rfl
@[simp] theorem State.setFld_pre (s : State) (a h l v : Nat) : (s.setFld a h l v).pre = s.pre := rfl
@[simp] theorem State.setFld_bk (s : State) (a h l v : Nat) : (s.setFld a h l v).bk = s.bk := rfl
@[simp] theorem State.setFld_cur (s : State) (a h l v : Nat) : (s.setFld a h l v).cur = s.cur := rfl
@[simp] theorem State.setFld_blocks (s : State) (a h l v : Nat) : (s.setFld a h l v).blocks = s.blocks := rfl
@[simp] theorem State.setFld_launches (s : State) (a h l v : Nat) : (s.setFld a h l v).launches = s.launches := rfl
@[simp] theorem State.setFld_nextUid (s : State) (a h l v : Nat) : (s.setFld a h l v).nextUid = s.nextUid := rfl
@[simp] theorem State.setFld_leadSlot (s : State) (a h l v : Nat) : (s.setFld a h l v).leadSlot = s.leadSlot := rfl
@[simp] theorem State.setFld_forcedAt (s : State) (a h l v : Nat) : (s.setFld a h l v).forcedAt = s.forcedAt := rfl
@[simp] theorem State.setFld_grants (s : State) (a h l v : Nat) : (s.setFld a h l v).grants = s.grants := rfl
@[simp] theorem State.setFld_passBusy (s : State) (a h l v : Nat) : (s.setFld a h l v).passBusy = s.passBusy := rfl
@[simp] theorem State.setFld_rcache (s : State) (a h l v : Nat) : (s.setFld a h l v).rcache = s.rcache := rfl
@[simp] theorem State.setFld_lineWants (s : State) (a h l v : Nat) : (s.setFld a h l v).lineWants = s.lineWants := rfl
@[simp] theorem State.setFld_mem (s : State) (a h l v : Nat) : (s.setFld a h l v).mem = s.mem := rfl
@[simp] theorem State.setFld_writes (s : State) (a h l v : Nat) : (s.setFld a h l v).writes = s.writes := rfl
@[simp] theorem State.setFld_nextWrite (s : State) (a h l v : Nat) : (s.setFld a h l v).nextWrite = s.nextWrite := rfl
@[simp] theorem State.setFld_observed (s : State) (a h l v : Nat) : (s.setFld a h l v).observed = s.observed := rfl
@[simp] theorem State.setFld_ucopies (s : State) (a h l v : Nat) : (s.setFld a h l v).ucopies = s.ucopies := rfl
@[simp] theorem State.setFld_stale (s : State) (a h l v : Nat) : (s.setFld a h l v).stale = s.stale := rfl
@[simp] theorem State.setFld_marks (s : State) (a h l v : Nat) : (s.setFld a h l v).marks = s.marks := rfl
@[simp] theorem State.setFld_ptag (s : State) (a h l v : Nat) : (s.setFld a h l v).ptag = s.ptag := rfl
@[simp] theorem State.setFld_leaving (s : State) (a h l v : Nat) : (s.setFld a h l v).leaving = s.leaving := rfl
@[simp] theorem State.setFld_tlb (s : State) (a h l v : Nat) : (s.setFld a h l v).tlb = s.tlb := rfl
@[simp] theorem State.setFld_walks (s : State) (a h l v : Nat) : (s.setFld a h l v).walks = s.walks := rfl
@[simp] theorem State.setFld_locks (s : State) (a h l v : Nat) : (s.setFld a h l v).locks = s.locks := rfl
@[simp] theorem State.setFld_icache (s : State) (a h l v : Nat) : (s.setFld a h l v).icache = s.icache := rfl
@[simp] theorem State.setFld_eng (s : State) (a h l v : Nat) : (s.setFld a h l v).eng = s.eng := rfl
@[simp] theorem State.setFld_jobs (s : State) (a h l v : Nat) : (s.setFld a h l v).jobs = s.jobs := rfl
@[simp] theorem State.setFld_pairEng (s : State) (a h l v : Nat) : (s.setFld a h l v).pairEng = s.pairEng := rfl
@[simp] theorem State.setFld_mqueue (s : State) (a h l v : Nat) : (s.setFld a h l v).mqueue = s.mqueue := rfl
@[simp] theorem State.setFld_starts (s : State) (a h l v : Nat) : (s.setFld a h l v).starts = s.starts := rfl
@[simp] theorem State.setFld_routes (s : State) (a h l v : Nat) : (s.setFld a h l v).routes = s.routes := rfl
@[simp] theorem State.setFld_fab (s : State) (a h l v : Nat) : (s.setFld a h l v).fab = s.fab := rfl
@[simp] theorem State.setFld_ams (s : State) (a h l v : Nat) : (s.setFld a h l v).ams = s.ams := rfl
@[simp] theorem State.setFld_inboxes (s : State) (a h l v : Nat) : (s.setFld a h l v).inboxes = s.inboxes := rfl
@[simp] theorem State.setFld_amWaits (s : State) (a h l v : Nat) : (s.setFld a h l v).amWaits = s.amWaits := rfl
@[simp] theorem State.setFld_sems (s : State) (a h l v : Nat) : (s.setFld a h l v).sems = s.sems := rfl
@[simp] theorem State.setFld_batches (s : State) (a h l v : Nat) : (s.setFld a h l v).batches = s.batches := rfl
@[simp] theorem State.setFld_batchSeq (s : State) (a h l v : Nat) : (s.setFld a h l v).batchSeq = s.batchSeq := rfl
@[simp] theorem State.setFld_ctxWords (s : State) (a h l v : Nat) : (s.setFld a h l v).ctxWords = s.ctxWords := rfl
@[simp] theorem State.setFld_pslots (s : State) (a h l v : Nat) : (s.setFld a h l v).pslots = s.pslots := rfl
@[simp] theorem State.setFld_coresWere (s : State) (a h l v : Nat) : (s.setFld a h l v).coresWere = s.coresWere := rfl
@[simp] theorem State.setFld_lost (s : State) (a h l v : Nat) : (s.setFld a h l v).lost = s.lost := rfl
@[simp] theorem State.setFld_shaped (s : State) (a h l v : Nat) : (s.setFld a h l v).shaped = s.shaped := rfl
@[simp] theorem State.setFld_keys (s : State) (a h l v : Nat) : (s.setFld a h l v).keys = s.keys := rfl
@[simp] theorem State.setFld_keyGen (s : State) (a h l v : Nat) : (s.setFld a h l v).keyGen = s.keyGen := rfl
@[simp] theorem State.setFld_featWritten (s : State) (a h l v : Nat) : (s.setFld a h l v).featWritten = s.featWritten := rfl
@[simp] theorem State.setFld_freqAt (s : State) (a h l v : Nat) : (s.setFld a h l v).freqAt = s.freqAt := rfl
@[simp] theorem State.setFld_hbmFails (s : State) (a h l v : Nat) : (s.setFld a h l v).hbmFails = s.hbmFails := rfl
@[simp] theorem State.setFld_egReq (s : State) (a h l v : Nat) : (s.setFld a h l v).egReq = s.egReq := rfl
@[simp] theorem State.setFld_idPassed (s : State) (a h l v : Nat) : (s.setFld a h l v).idPassed = s.idPassed := rfl
@[simp] theorem State.setFld_secOp (s : State) (a h l v : Nat) : (s.setFld a h l v).secOp = s.secOp := rfl
@[simp] theorem State.setFld_vstore (s : State) (a h l v : Nat) : (s.setFld a h l v).vstore = s.vstore := rfl
@[simp] theorem State.setFld_vfr (s : State) (a h l v : Nat) : (s.setFld a h l v).vfr = s.vfr := rfl
@[simp] theorem State.setFld_msix (s : State) (a h l v : Nat) : (s.setFld a h l v).msix = s.msix := rfl
@[simp] theorem State.setFld_irqs (s : State) (a h l v : Nat) : (s.setFld a h l v).irqs = s.irqs := rfl
@[simp] theorem State.setFld_tdi (s : State) (a h l v : Nat) : (s.setFld a h l v).tdi = s.tdi := rfl
@[simp] theorem State.setFld_resetting (s : State) (a h l v : Nat) : (s.setFld a h l v).resetting = s.resetting := rfl
@[simp] theorem State.setFld_reports (s : State) (a h l v : Nat) : (s.setFld a h l v).reports = s.reports := rfl
@[simp] theorem State.setFld_replay (s : State) (a h l v : Nat) : (s.setFld a h l v).replay = s.replay := rfl
@[simp] theorem State.setFld_inbound (s : State) (a h l v : Nat) : (s.setFld a h l v).inbound = s.inbound := rfl
@[simp] theorem State.setFld_bells (s : State) (a h l v : Nat) : (s.setFld a h l v).bells = s.bells := rfl
@[simp] theorem State.setFld_tearing (s : State) (a h l v : Nat) : (s.setFld a h l v).tearing = s.tearing := rfl
@[simp] theorem State.setFld_drones (s : State) (a h l v : Nat) : (s.setFld a h l v).drones = s.drones := rfl
@[simp] theorem State.setFld_certs (s : State) (a h l v : Nat) : (s.setFld a h l v).certs = s.certs := rfl
@[simp] theorem State.setFld_certParts (s : State) (a h l v : Nat) : (s.setFld a h l v).certParts = s.certParts := rfl
@[simp] theorem State.setFld_spdmVersion (s : State) (a h l v : Nat) : (s.setFld a h l v).spdmVersion = s.spdmVersion := rfl
@[simp] theorem State.setFld_spdmReqs (s : State) (a h l v : Nat) : (s.setFld a h l v).spdmReqs = s.spdmReqs := rfl
@[simp] theorem State.setFld_reply (s : State) (a h l v : Nat) : (s.setFld a h l v).reply = s.reply := rfl
@[simp] theorem State.setFld_mepJob (s : State) (a h l v : Nat) : (s.setFld a h l v).mepJob = s.mepJob := rfl
@[simp] theorem State.setFld_sysLost (s : State) (a h l v : Nat) : (s.setFld a h l v).sysLost = s.sysLost := rfl
@[simp] theorem State.setFld_clk (s : State) (a h l v : Nat) : (s.setFld a h l v).clk = s.clk := rfl
@[simp] theorem State.setFld_issuedNow (s : State) (a h l v : Nat) : (s.setFld a h l v).issuedNow = s.issuedNow := rfl
@[simp] theorem State.setFld_picks (s : State) (a h l v : Nat) : (s.setFld a h l v).picks = s.picks := rfl
@[simp] theorem State.setFld_owed (s : State) (a h l v : Nat) : (s.setFld a h l v).owed = s.owed := rfl
@[simp] theorem State.setFld_leeway (s : State) (a h l v : Nat) : (s.setFld a h l v).leeway = s.leeway := rfl
@[simp] theorem State.setFld_agenda (s : State) (a h l v : Nat) : (s.setFld a h l v).agenda = s.agenda := rfl

/-! ### `State.setCtxWord` -/

@[simp] theorem State.setCtxWord_wv (s : State) (space ctxn index : Nat) (v : W64) : (s.setCtxWord space ctxn index v).wv = s.wv := rfl
@[simp] theorem State.setCtxWord_pre (s : State) (space ctxn index : Nat) (v : W64) : (s.setCtxWord space ctxn index v).pre = s.pre := rfl
@[simp] theorem State.setCtxWord_bk (s : State) (space ctxn index : Nat) (v : W64) : (s.setCtxWord space ctxn index v).bk = s.bk := rfl
@[simp] theorem State.setCtxWord_cur (s : State) (space ctxn index : Nat) (v : W64) : (s.setCtxWord space ctxn index v).cur = s.cur := rfl
@[simp] theorem State.setCtxWord_blocks (s : State) (space ctxn index : Nat) (v : W64) : (s.setCtxWord space ctxn index v).blocks = s.blocks := rfl
@[simp] theorem State.setCtxWord_launches (s : State) (space ctxn index : Nat) (v : W64) : (s.setCtxWord space ctxn index v).launches = s.launches := rfl
@[simp] theorem State.setCtxWord_nextUid (s : State) (space ctxn index : Nat) (v : W64) : (s.setCtxWord space ctxn index v).nextUid = s.nextUid := rfl
@[simp] theorem State.setCtxWord_leadSlot (s : State) (space ctxn index : Nat) (v : W64) : (s.setCtxWord space ctxn index v).leadSlot = s.leadSlot := rfl
@[simp] theorem State.setCtxWord_forcedAt (s : State) (space ctxn index : Nat) (v : W64) : (s.setCtxWord space ctxn index v).forcedAt = s.forcedAt := rfl
@[simp] theorem State.setCtxWord_grants (s : State) (space ctxn index : Nat) (v : W64) : (s.setCtxWord space ctxn index v).grants = s.grants := rfl
@[simp] theorem State.setCtxWord_passBusy (s : State) (space ctxn index : Nat) (v : W64) : (s.setCtxWord space ctxn index v).passBusy = s.passBusy := rfl
@[simp] theorem State.setCtxWord_rcache (s : State) (space ctxn index : Nat) (v : W64) : (s.setCtxWord space ctxn index v).rcache = s.rcache := rfl
@[simp] theorem State.setCtxWord_lineWants (s : State) (space ctxn index : Nat) (v : W64) : (s.setCtxWord space ctxn index v).lineWants = s.lineWants := rfl
@[simp] theorem State.setCtxWord_mem (s : State) (space ctxn index : Nat) (v : W64) : (s.setCtxWord space ctxn index v).mem = s.mem := rfl
@[simp] theorem State.setCtxWord_writes (s : State) (space ctxn index : Nat) (v : W64) : (s.setCtxWord space ctxn index v).writes = s.writes := rfl
@[simp] theorem State.setCtxWord_nextWrite (s : State) (space ctxn index : Nat) (v : W64) : (s.setCtxWord space ctxn index v).nextWrite = s.nextWrite := rfl
@[simp] theorem State.setCtxWord_observed (s : State) (space ctxn index : Nat) (v : W64) : (s.setCtxWord space ctxn index v).observed = s.observed := rfl
@[simp] theorem State.setCtxWord_ucopies (s : State) (space ctxn index : Nat) (v : W64) : (s.setCtxWord space ctxn index v).ucopies = s.ucopies := rfl
@[simp] theorem State.setCtxWord_stale (s : State) (space ctxn index : Nat) (v : W64) : (s.setCtxWord space ctxn index v).stale = s.stale := rfl
@[simp] theorem State.setCtxWord_marks (s : State) (space ctxn index : Nat) (v : W64) : (s.setCtxWord space ctxn index v).marks = s.marks := rfl
@[simp] theorem State.setCtxWord_ptag (s : State) (space ctxn index : Nat) (v : W64) : (s.setCtxWord space ctxn index v).ptag = s.ptag := rfl
@[simp] theorem State.setCtxWord_leaving (s : State) (space ctxn index : Nat) (v : W64) : (s.setCtxWord space ctxn index v).leaving = s.leaving := rfl
@[simp] theorem State.setCtxWord_tlb (s : State) (space ctxn index : Nat) (v : W64) : (s.setCtxWord space ctxn index v).tlb = s.tlb := rfl
@[simp] theorem State.setCtxWord_walks (s : State) (space ctxn index : Nat) (v : W64) : (s.setCtxWord space ctxn index v).walks = s.walks := rfl
@[simp] theorem State.setCtxWord_locks (s : State) (space ctxn index : Nat) (v : W64) : (s.setCtxWord space ctxn index v).locks = s.locks := rfl
@[simp] theorem State.setCtxWord_icache (s : State) (space ctxn index : Nat) (v : W64) : (s.setCtxWord space ctxn index v).icache = s.icache := rfl
@[simp] theorem State.setCtxWord_eng (s : State) (space ctxn index : Nat) (v : W64) : (s.setCtxWord space ctxn index v).eng = s.eng := rfl
@[simp] theorem State.setCtxWord_jobs (s : State) (space ctxn index : Nat) (v : W64) : (s.setCtxWord space ctxn index v).jobs = s.jobs := rfl
@[simp] theorem State.setCtxWord_pairEng (s : State) (space ctxn index : Nat) (v : W64) : (s.setCtxWord space ctxn index v).pairEng = s.pairEng := rfl
@[simp] theorem State.setCtxWord_mqueue (s : State) (space ctxn index : Nat) (v : W64) : (s.setCtxWord space ctxn index v).mqueue = s.mqueue := rfl
@[simp] theorem State.setCtxWord_starts (s : State) (space ctxn index : Nat) (v : W64) : (s.setCtxWord space ctxn index v).starts = s.starts := rfl
@[simp] theorem State.setCtxWord_routes (s : State) (space ctxn index : Nat) (v : W64) : (s.setCtxWord space ctxn index v).routes = s.routes := rfl
@[simp] theorem State.setCtxWord_fab (s : State) (space ctxn index : Nat) (v : W64) : (s.setCtxWord space ctxn index v).fab = s.fab := rfl
@[simp] theorem State.setCtxWord_ams (s : State) (space ctxn index : Nat) (v : W64) : (s.setCtxWord space ctxn index v).ams = s.ams := rfl
@[simp] theorem State.setCtxWord_inboxes (s : State) (space ctxn index : Nat) (v : W64) : (s.setCtxWord space ctxn index v).inboxes = s.inboxes := rfl
@[simp] theorem State.setCtxWord_amWaits (s : State) (space ctxn index : Nat) (v : W64) : (s.setCtxWord space ctxn index v).amWaits = s.amWaits := rfl
@[simp] theorem State.setCtxWord_sems (s : State) (space ctxn index : Nat) (v : W64) : (s.setCtxWord space ctxn index v).sems = s.sems := rfl
@[simp] theorem State.setCtxWord_batches (s : State) (space ctxn index : Nat) (v : W64) : (s.setCtxWord space ctxn index v).batches = s.batches := rfl
@[simp] theorem State.setCtxWord_batchSeq (s : State) (space ctxn index : Nat) (v : W64) : (s.setCtxWord space ctxn index v).batchSeq = s.batchSeq := rfl
@[simp] theorem State.setCtxWord_maint (s : State) (space ctxn index : Nat) (v : W64) : (s.setCtxWord space ctxn index v).maint = s.maint := rfl
@[simp] theorem State.setCtxWord_pslots (s : State) (space ctxn index : Nat) (v : W64) : (s.setCtxWord space ctxn index v).pslots = s.pslots := rfl
@[simp] theorem State.setCtxWord_coresWere (s : State) (space ctxn index : Nat) (v : W64) : (s.setCtxWord space ctxn index v).coresWere = s.coresWere := rfl
@[simp] theorem State.setCtxWord_lost (s : State) (space ctxn index : Nat) (v : W64) : (s.setCtxWord space ctxn index v).lost = s.lost := rfl
@[simp] theorem State.setCtxWord_shaped (s : State) (space ctxn index : Nat) (v : W64) : (s.setCtxWord space ctxn index v).shaped = s.shaped := rfl
@[simp] theorem State.setCtxWord_keys (s : State) (space ctxn index : Nat) (v : W64) : (s.setCtxWord space ctxn index v).keys = s.keys := rfl
@[simp] theorem State.setCtxWord_keyGen (s : State) (space ctxn index : Nat) (v : W64) : (s.setCtxWord space ctxn index v).keyGen = s.keyGen := rfl
@[simp] theorem State.setCtxWord_featWritten (s : State) (space ctxn index : Nat) (v : W64) : (s.setCtxWord space ctxn index v).featWritten = s.featWritten := rfl
@[simp] theorem State.setCtxWord_freqAt (s : State) (space ctxn index : Nat) (v : W64) : (s.setCtxWord space ctxn index v).freqAt = s.freqAt := rfl
@[simp] theorem State.setCtxWord_hbmFails (s : State) (space ctxn index : Nat) (v : W64) : (s.setCtxWord space ctxn index v).hbmFails = s.hbmFails := rfl
@[simp] theorem State.setCtxWord_egReq (s : State) (space ctxn index : Nat) (v : W64) : (s.setCtxWord space ctxn index v).egReq = s.egReq := rfl
@[simp] theorem State.setCtxWord_idPassed (s : State) (space ctxn index : Nat) (v : W64) : (s.setCtxWord space ctxn index v).idPassed = s.idPassed := rfl
@[simp] theorem State.setCtxWord_secOp (s : State) (space ctxn index : Nat) (v : W64) : (s.setCtxWord space ctxn index v).secOp = s.secOp := rfl
@[simp] theorem State.setCtxWord_vstore (s : State) (space ctxn index : Nat) (v : W64) : (s.setCtxWord space ctxn index v).vstore = s.vstore := rfl
@[simp] theorem State.setCtxWord_vfr (s : State) (space ctxn index : Nat) (v : W64) : (s.setCtxWord space ctxn index v).vfr = s.vfr := rfl
@[simp] theorem State.setCtxWord_msix (s : State) (space ctxn index : Nat) (v : W64) : (s.setCtxWord space ctxn index v).msix = s.msix := rfl
@[simp] theorem State.setCtxWord_irqs (s : State) (space ctxn index : Nat) (v : W64) : (s.setCtxWord space ctxn index v).irqs = s.irqs := rfl
@[simp] theorem State.setCtxWord_tdi (s : State) (space ctxn index : Nat) (v : W64) : (s.setCtxWord space ctxn index v).tdi = s.tdi := rfl
@[simp] theorem State.setCtxWord_resetting (s : State) (space ctxn index : Nat) (v : W64) : (s.setCtxWord space ctxn index v).resetting = s.resetting := rfl
@[simp] theorem State.setCtxWord_reports (s : State) (space ctxn index : Nat) (v : W64) : (s.setCtxWord space ctxn index v).reports = s.reports := rfl
@[simp] theorem State.setCtxWord_replay (s : State) (space ctxn index : Nat) (v : W64) : (s.setCtxWord space ctxn index v).replay = s.replay := rfl
@[simp] theorem State.setCtxWord_inbound (s : State) (space ctxn index : Nat) (v : W64) : (s.setCtxWord space ctxn index v).inbound = s.inbound := rfl
@[simp] theorem State.setCtxWord_bells (s : State) (space ctxn index : Nat) (v : W64) : (s.setCtxWord space ctxn index v).bells = s.bells := rfl
@[simp] theorem State.setCtxWord_tearing (s : State) (space ctxn index : Nat) (v : W64) : (s.setCtxWord space ctxn index v).tearing = s.tearing := rfl
@[simp] theorem State.setCtxWord_drones (s : State) (space ctxn index : Nat) (v : W64) : (s.setCtxWord space ctxn index v).drones = s.drones := rfl
@[simp] theorem State.setCtxWord_certs (s : State) (space ctxn index : Nat) (v : W64) : (s.setCtxWord space ctxn index v).certs = s.certs := rfl
@[simp] theorem State.setCtxWord_certParts (s : State) (space ctxn index : Nat) (v : W64) : (s.setCtxWord space ctxn index v).certParts = s.certParts := rfl
@[simp] theorem State.setCtxWord_spdmVersion (s : State) (space ctxn index : Nat) (v : W64) : (s.setCtxWord space ctxn index v).spdmVersion = s.spdmVersion := rfl
@[simp] theorem State.setCtxWord_spdmReqs (s : State) (space ctxn index : Nat) (v : W64) : (s.setCtxWord space ctxn index v).spdmReqs = s.spdmReqs := rfl
@[simp] theorem State.setCtxWord_reply (s : State) (space ctxn index : Nat) (v : W64) : (s.setCtxWord space ctxn index v).reply = s.reply := rfl
@[simp] theorem State.setCtxWord_mepJob (s : State) (space ctxn index : Nat) (v : W64) : (s.setCtxWord space ctxn index v).mepJob = s.mepJob := rfl
@[simp] theorem State.setCtxWord_sysLost (s : State) (space ctxn index : Nat) (v : W64) : (s.setCtxWord space ctxn index v).sysLost = s.sysLost := rfl
@[simp] theorem State.setCtxWord_clk (s : State) (space ctxn index : Nat) (v : W64) : (s.setCtxWord space ctxn index v).clk = s.clk := rfl
@[simp] theorem State.setCtxWord_issuedNow (s : State) (space ctxn index : Nat) (v : W64) : (s.setCtxWord space ctxn index v).issuedNow = s.issuedNow := rfl
@[simp] theorem State.setCtxWord_picks (s : State) (space ctxn index : Nat) (v : W64) : (s.setCtxWord space ctxn index v).picks = s.picks := rfl
@[simp] theorem State.setCtxWord_owed (s : State) (space ctxn index : Nat) (v : W64) : (s.setCtxWord space ctxn index v).owed = s.owed := rfl
@[simp] theorem State.setCtxWord_leeway (s : State) (space ctxn index : Nat) (v : W64) : (s.setCtxWord space ctxn index v).leeway = s.leeway := rfl
@[simp] theorem State.setCtxWord_agenda (s : State) (space ctxn index : Nat) (v : W64) : (s.setCtxWord space ctxn index v).agenda = s.agenda := rfl

/-! ### `State.setInbox` -/

@[simp] theorem State.setInbox_wv (s : State) (key : Nat) (l : List Msg) : (s.setInbox key l).wv = s.wv := rfl
@[simp] theorem State.setInbox_pre (s : State) (key : Nat) (l : List Msg) : (s.setInbox key l).pre = s.pre := rfl
@[simp] theorem State.setInbox_bk (s : State) (key : Nat) (l : List Msg) : (s.setInbox key l).bk = s.bk := rfl
@[simp] theorem State.setInbox_cur (s : State) (key : Nat) (l : List Msg) : (s.setInbox key l).cur = s.cur := rfl
@[simp] theorem State.setInbox_blocks (s : State) (key : Nat) (l : List Msg) : (s.setInbox key l).blocks = s.blocks := rfl
@[simp] theorem State.setInbox_launches (s : State) (key : Nat) (l : List Msg) : (s.setInbox key l).launches = s.launches := rfl
@[simp] theorem State.setInbox_nextUid (s : State) (key : Nat) (l : List Msg) : (s.setInbox key l).nextUid = s.nextUid := rfl
@[simp] theorem State.setInbox_leadSlot (s : State) (key : Nat) (l : List Msg) : (s.setInbox key l).leadSlot = s.leadSlot := rfl
@[simp] theorem State.setInbox_forcedAt (s : State) (key : Nat) (l : List Msg) : (s.setInbox key l).forcedAt = s.forcedAt := rfl
@[simp] theorem State.setInbox_grants (s : State) (key : Nat) (l : List Msg) : (s.setInbox key l).grants = s.grants := rfl
@[simp] theorem State.setInbox_passBusy (s : State) (key : Nat) (l : List Msg) : (s.setInbox key l).passBusy = s.passBusy := rfl
@[simp] theorem State.setInbox_rcache (s : State) (key : Nat) (l : List Msg) : (s.setInbox key l).rcache = s.rcache := rfl
@[simp] theorem State.setInbox_lineWants (s : State) (key : Nat) (l : List Msg) : (s.setInbox key l).lineWants = s.lineWants := rfl
@[simp] theorem State.setInbox_mem (s : State) (key : Nat) (l : List Msg) : (s.setInbox key l).mem = s.mem := rfl
@[simp] theorem State.setInbox_writes (s : State) (key : Nat) (l : List Msg) : (s.setInbox key l).writes = s.writes := rfl
@[simp] theorem State.setInbox_nextWrite (s : State) (key : Nat) (l : List Msg) : (s.setInbox key l).nextWrite = s.nextWrite := rfl
@[simp] theorem State.setInbox_observed (s : State) (key : Nat) (l : List Msg) : (s.setInbox key l).observed = s.observed := rfl
@[simp] theorem State.setInbox_ucopies (s : State) (key : Nat) (l : List Msg) : (s.setInbox key l).ucopies = s.ucopies := rfl
@[simp] theorem State.setInbox_stale (s : State) (key : Nat) (l : List Msg) : (s.setInbox key l).stale = s.stale := rfl
@[simp] theorem State.setInbox_marks (s : State) (key : Nat) (l : List Msg) : (s.setInbox key l).marks = s.marks := rfl
@[simp] theorem State.setInbox_ptag (s : State) (key : Nat) (l : List Msg) : (s.setInbox key l).ptag = s.ptag := rfl
@[simp] theorem State.setInbox_leaving (s : State) (key : Nat) (l : List Msg) : (s.setInbox key l).leaving = s.leaving := rfl
@[simp] theorem State.setInbox_tlb (s : State) (key : Nat) (l : List Msg) : (s.setInbox key l).tlb = s.tlb := rfl
@[simp] theorem State.setInbox_walks (s : State) (key : Nat) (l : List Msg) : (s.setInbox key l).walks = s.walks := rfl
@[simp] theorem State.setInbox_locks (s : State) (key : Nat) (l : List Msg) : (s.setInbox key l).locks = s.locks := rfl
@[simp] theorem State.setInbox_icache (s : State) (key : Nat) (l : List Msg) : (s.setInbox key l).icache = s.icache := rfl
@[simp] theorem State.setInbox_eng (s : State) (key : Nat) (l : List Msg) : (s.setInbox key l).eng = s.eng := rfl
@[simp] theorem State.setInbox_jobs (s : State) (key : Nat) (l : List Msg) : (s.setInbox key l).jobs = s.jobs := rfl
@[simp] theorem State.setInbox_pairEng (s : State) (key : Nat) (l : List Msg) : (s.setInbox key l).pairEng = s.pairEng := rfl
@[simp] theorem State.setInbox_mqueue (s : State) (key : Nat) (l : List Msg) : (s.setInbox key l).mqueue = s.mqueue := rfl
@[simp] theorem State.setInbox_starts (s : State) (key : Nat) (l : List Msg) : (s.setInbox key l).starts = s.starts := rfl
@[simp] theorem State.setInbox_routes (s : State) (key : Nat) (l : List Msg) : (s.setInbox key l).routes = s.routes := rfl
@[simp] theorem State.setInbox_fab (s : State) (key : Nat) (l : List Msg) : (s.setInbox key l).fab = s.fab := rfl
@[simp] theorem State.setInbox_ams (s : State) (key : Nat) (l : List Msg) : (s.setInbox key l).ams = s.ams := rfl
@[simp] theorem State.setInbox_amWaits (s : State) (key : Nat) (l : List Msg) : (s.setInbox key l).amWaits = s.amWaits := rfl
@[simp] theorem State.setInbox_sems (s : State) (key : Nat) (l : List Msg) : (s.setInbox key l).sems = s.sems := rfl
@[simp] theorem State.setInbox_batches (s : State) (key : Nat) (l : List Msg) : (s.setInbox key l).batches = s.batches := rfl
@[simp] theorem State.setInbox_batchSeq (s : State) (key : Nat) (l : List Msg) : (s.setInbox key l).batchSeq = s.batchSeq := rfl
@[simp] theorem State.setInbox_ctxWords (s : State) (key : Nat) (l : List Msg) : (s.setInbox key l).ctxWords = s.ctxWords := rfl
@[simp] theorem State.setInbox_maint (s : State) (key : Nat) (l : List Msg) : (s.setInbox key l).maint = s.maint := rfl
@[simp] theorem State.setInbox_pslots (s : State) (key : Nat) (l : List Msg) : (s.setInbox key l).pslots = s.pslots := rfl
@[simp] theorem State.setInbox_coresWere (s : State) (key : Nat) (l : List Msg) : (s.setInbox key l).coresWere = s.coresWere := rfl
@[simp] theorem State.setInbox_lost (s : State) (key : Nat) (l : List Msg) : (s.setInbox key l).lost = s.lost := rfl
@[simp] theorem State.setInbox_shaped (s : State) (key : Nat) (l : List Msg) : (s.setInbox key l).shaped = s.shaped := rfl
@[simp] theorem State.setInbox_keys (s : State) (key : Nat) (l : List Msg) : (s.setInbox key l).keys = s.keys := rfl
@[simp] theorem State.setInbox_keyGen (s : State) (key : Nat) (l : List Msg) : (s.setInbox key l).keyGen = s.keyGen := rfl
@[simp] theorem State.setInbox_featWritten (s : State) (key : Nat) (l : List Msg) : (s.setInbox key l).featWritten = s.featWritten := rfl
@[simp] theorem State.setInbox_freqAt (s : State) (key : Nat) (l : List Msg) : (s.setInbox key l).freqAt = s.freqAt := rfl
@[simp] theorem State.setInbox_hbmFails (s : State) (key : Nat) (l : List Msg) : (s.setInbox key l).hbmFails = s.hbmFails := rfl
@[simp] theorem State.setInbox_egReq (s : State) (key : Nat) (l : List Msg) : (s.setInbox key l).egReq = s.egReq := rfl
@[simp] theorem State.setInbox_idPassed (s : State) (key : Nat) (l : List Msg) : (s.setInbox key l).idPassed = s.idPassed := rfl
@[simp] theorem State.setInbox_secOp (s : State) (key : Nat) (l : List Msg) : (s.setInbox key l).secOp = s.secOp := rfl
@[simp] theorem State.setInbox_vstore (s : State) (key : Nat) (l : List Msg) : (s.setInbox key l).vstore = s.vstore := rfl
@[simp] theorem State.setInbox_vfr (s : State) (key : Nat) (l : List Msg) : (s.setInbox key l).vfr = s.vfr := rfl
@[simp] theorem State.setInbox_msix (s : State) (key : Nat) (l : List Msg) : (s.setInbox key l).msix = s.msix := rfl
@[simp] theorem State.setInbox_irqs (s : State) (key : Nat) (l : List Msg) : (s.setInbox key l).irqs = s.irqs := rfl
@[simp] theorem State.setInbox_tdi (s : State) (key : Nat) (l : List Msg) : (s.setInbox key l).tdi = s.tdi := rfl
@[simp] theorem State.setInbox_resetting (s : State) (key : Nat) (l : List Msg) : (s.setInbox key l).resetting = s.resetting := rfl
@[simp] theorem State.setInbox_reports (s : State) (key : Nat) (l : List Msg) : (s.setInbox key l).reports = s.reports := rfl
@[simp] theorem State.setInbox_replay (s : State) (key : Nat) (l : List Msg) : (s.setInbox key l).replay = s.replay := rfl
@[simp] theorem State.setInbox_inbound (s : State) (key : Nat) (l : List Msg) : (s.setInbox key l).inbound = s.inbound := rfl
@[simp] theorem State.setInbox_bells (s : State) (key : Nat) (l : List Msg) : (s.setInbox key l).bells = s.bells := rfl
@[simp] theorem State.setInbox_tearing (s : State) (key : Nat) (l : List Msg) : (s.setInbox key l).tearing = s.tearing := rfl
@[simp] theorem State.setInbox_drones (s : State) (key : Nat) (l : List Msg) : (s.setInbox key l).drones = s.drones := rfl
@[simp] theorem State.setInbox_certs (s : State) (key : Nat) (l : List Msg) : (s.setInbox key l).certs = s.certs := rfl
@[simp] theorem State.setInbox_certParts (s : State) (key : Nat) (l : List Msg) : (s.setInbox key l).certParts = s.certParts := rfl
@[simp] theorem State.setInbox_spdmVersion (s : State) (key : Nat) (l : List Msg) : (s.setInbox key l).spdmVersion = s.spdmVersion := rfl
@[simp] theorem State.setInbox_spdmReqs (s : State) (key : Nat) (l : List Msg) : (s.setInbox key l).spdmReqs = s.spdmReqs := rfl
@[simp] theorem State.setInbox_reply (s : State) (key : Nat) (l : List Msg) : (s.setInbox key l).reply = s.reply := rfl
@[simp] theorem State.setInbox_mepJob (s : State) (key : Nat) (l : List Msg) : (s.setInbox key l).mepJob = s.mepJob := rfl
@[simp] theorem State.setInbox_sysLost (s : State) (key : Nat) (l : List Msg) : (s.setInbox key l).sysLost = s.sysLost := rfl
@[simp] theorem State.setInbox_clk (s : State) (key : Nat) (l : List Msg) : (s.setInbox key l).clk = s.clk := rfl
@[simp] theorem State.setInbox_issuedNow (s : State) (key : Nat) (l : List Msg) : (s.setInbox key l).issuedNow = s.issuedNow := rfl
@[simp] theorem State.setInbox_picks (s : State) (key : Nat) (l : List Msg) : (s.setInbox key l).picks = s.picks := rfl
@[simp] theorem State.setInbox_owed (s : State) (key : Nat) (l : List Msg) : (s.setInbox key l).owed = s.owed := rfl
@[simp] theorem State.setInbox_leeway (s : State) (key : Nat) (l : List Msg) : (s.setInbox key l).leeway = s.leeway := rfl
@[simp] theorem State.setInbox_agenda (s : State) (key : Nat) (l : List Msg) : (s.setInbox key l).agenda = s.agenda := rfl

/-! ### `State.setLaunch` -/

@[simp] theorem State.setLaunch_wv (s : State) (id : Nat) (l : Launch) : (s.setLaunch id l).wv = s.wv := rfl
@[simp] theorem State.setLaunch_pre (s : State) (id : Nat) (l : Launch) : (s.setLaunch id l).pre = s.pre := rfl
@[simp] theorem State.setLaunch_bk (s : State) (id : Nat) (l : Launch) : (s.setLaunch id l).bk = s.bk := rfl
@[simp] theorem State.setLaunch_cur (s : State) (id : Nat) (l : Launch) : (s.setLaunch id l).cur = s.cur := rfl
@[simp] theorem State.setLaunch_blocks (s : State) (id : Nat) (l : Launch) : (s.setLaunch id l).blocks = s.blocks := rfl
@[simp] theorem State.setLaunch_nextUid (s : State) (id : Nat) (l : Launch) : (s.setLaunch id l).nextUid = s.nextUid := rfl
@[simp] theorem State.setLaunch_leadSlot (s : State) (id : Nat) (l : Launch) : (s.setLaunch id l).leadSlot = s.leadSlot := rfl
@[simp] theorem State.setLaunch_forcedAt (s : State) (id : Nat) (l : Launch) : (s.setLaunch id l).forcedAt = s.forcedAt := rfl
@[simp] theorem State.setLaunch_grants (s : State) (id : Nat) (l : Launch) : (s.setLaunch id l).grants = s.grants := rfl
@[simp] theorem State.setLaunch_passBusy (s : State) (id : Nat) (l : Launch) : (s.setLaunch id l).passBusy = s.passBusy := rfl
@[simp] theorem State.setLaunch_rcache (s : State) (id : Nat) (l : Launch) : (s.setLaunch id l).rcache = s.rcache := rfl
@[simp] theorem State.setLaunch_lineWants (s : State) (id : Nat) (l : Launch) : (s.setLaunch id l).lineWants = s.lineWants := rfl
@[simp] theorem State.setLaunch_mem (s : State) (id : Nat) (l : Launch) : (s.setLaunch id l).mem = s.mem := rfl
@[simp] theorem State.setLaunch_writes (s : State) (id : Nat) (l : Launch) : (s.setLaunch id l).writes = s.writes := rfl
@[simp] theorem State.setLaunch_nextWrite (s : State) (id : Nat) (l : Launch) : (s.setLaunch id l).nextWrite = s.nextWrite := rfl
@[simp] theorem State.setLaunch_observed (s : State) (id : Nat) (l : Launch) : (s.setLaunch id l).observed = s.observed := rfl
@[simp] theorem State.setLaunch_ucopies (s : State) (id : Nat) (l : Launch) : (s.setLaunch id l).ucopies = s.ucopies := rfl
@[simp] theorem State.setLaunch_stale (s : State) (id : Nat) (l : Launch) : (s.setLaunch id l).stale = s.stale := rfl
@[simp] theorem State.setLaunch_marks (s : State) (id : Nat) (l : Launch) : (s.setLaunch id l).marks = s.marks := rfl
@[simp] theorem State.setLaunch_ptag (s : State) (id : Nat) (l : Launch) : (s.setLaunch id l).ptag = s.ptag := rfl
@[simp] theorem State.setLaunch_leaving (s : State) (id : Nat) (l : Launch) : (s.setLaunch id l).leaving = s.leaving := rfl
@[simp] theorem State.setLaunch_tlb (s : State) (id : Nat) (l : Launch) : (s.setLaunch id l).tlb = s.tlb := rfl
@[simp] theorem State.setLaunch_walks (s : State) (id : Nat) (l : Launch) : (s.setLaunch id l).walks = s.walks := rfl
@[simp] theorem State.setLaunch_locks (s : State) (id : Nat) (l : Launch) : (s.setLaunch id l).locks = s.locks := rfl
@[simp] theorem State.setLaunch_icache (s : State) (id : Nat) (l : Launch) : (s.setLaunch id l).icache = s.icache := rfl
@[simp] theorem State.setLaunch_eng (s : State) (id : Nat) (l : Launch) : (s.setLaunch id l).eng = s.eng := rfl
@[simp] theorem State.setLaunch_jobs (s : State) (id : Nat) (l : Launch) : (s.setLaunch id l).jobs = s.jobs := rfl
@[simp] theorem State.setLaunch_pairEng (s : State) (id : Nat) (l : Launch) : (s.setLaunch id l).pairEng = s.pairEng := rfl
@[simp] theorem State.setLaunch_mqueue (s : State) (id : Nat) (l : Launch) : (s.setLaunch id l).mqueue = s.mqueue := rfl
@[simp] theorem State.setLaunch_starts (s : State) (id : Nat) (l : Launch) : (s.setLaunch id l).starts = s.starts := rfl
@[simp] theorem State.setLaunch_routes (s : State) (id : Nat) (l : Launch) : (s.setLaunch id l).routes = s.routes := rfl
@[simp] theorem State.setLaunch_fab (s : State) (id : Nat) (l : Launch) : (s.setLaunch id l).fab = s.fab := rfl
@[simp] theorem State.setLaunch_ams (s : State) (id : Nat) (l : Launch) : (s.setLaunch id l).ams = s.ams := rfl
@[simp] theorem State.setLaunch_inboxes (s : State) (id : Nat) (l : Launch) : (s.setLaunch id l).inboxes = s.inboxes := rfl
@[simp] theorem State.setLaunch_amWaits (s : State) (id : Nat) (l : Launch) : (s.setLaunch id l).amWaits = s.amWaits := rfl
@[simp] theorem State.setLaunch_sems (s : State) (id : Nat) (l : Launch) : (s.setLaunch id l).sems = s.sems := rfl
@[simp] theorem State.setLaunch_batches (s : State) (id : Nat) (l : Launch) : (s.setLaunch id l).batches = s.batches := rfl
@[simp] theorem State.setLaunch_batchSeq (s : State) (id : Nat) (l : Launch) : (s.setLaunch id l).batchSeq = s.batchSeq := rfl
@[simp] theorem State.setLaunch_ctxWords (s : State) (id : Nat) (l : Launch) : (s.setLaunch id l).ctxWords = s.ctxWords := rfl
@[simp] theorem State.setLaunch_maint (s : State) (id : Nat) (l : Launch) : (s.setLaunch id l).maint = s.maint := rfl
@[simp] theorem State.setLaunch_pslots (s : State) (id : Nat) (l : Launch) : (s.setLaunch id l).pslots = s.pslots := rfl
@[simp] theorem State.setLaunch_coresWere (s : State) (id : Nat) (l : Launch) : (s.setLaunch id l).coresWere = s.coresWere := rfl
@[simp] theorem State.setLaunch_lost (s : State) (id : Nat) (l : Launch) : (s.setLaunch id l).lost = s.lost := rfl
@[simp] theorem State.setLaunch_shaped (s : State) (id : Nat) (l : Launch) : (s.setLaunch id l).shaped = s.shaped := rfl
@[simp] theorem State.setLaunch_keys (s : State) (id : Nat) (l : Launch) : (s.setLaunch id l).keys = s.keys := rfl
@[simp] theorem State.setLaunch_keyGen (s : State) (id : Nat) (l : Launch) : (s.setLaunch id l).keyGen = s.keyGen := rfl
@[simp] theorem State.setLaunch_featWritten (s : State) (id : Nat) (l : Launch) : (s.setLaunch id l).featWritten = s.featWritten := rfl
@[simp] theorem State.setLaunch_freqAt (s : State) (id : Nat) (l : Launch) : (s.setLaunch id l).freqAt = s.freqAt := rfl
@[simp] theorem State.setLaunch_hbmFails (s : State) (id : Nat) (l : Launch) : (s.setLaunch id l).hbmFails = s.hbmFails := rfl
@[simp] theorem State.setLaunch_egReq (s : State) (id : Nat) (l : Launch) : (s.setLaunch id l).egReq = s.egReq := rfl
@[simp] theorem State.setLaunch_idPassed (s : State) (id : Nat) (l : Launch) : (s.setLaunch id l).idPassed = s.idPassed := rfl
@[simp] theorem State.setLaunch_secOp (s : State) (id : Nat) (l : Launch) : (s.setLaunch id l).secOp = s.secOp := rfl
@[simp] theorem State.setLaunch_vstore (s : State) (id : Nat) (l : Launch) : (s.setLaunch id l).vstore = s.vstore := rfl
@[simp] theorem State.setLaunch_vfr (s : State) (id : Nat) (l : Launch) : (s.setLaunch id l).vfr = s.vfr := rfl
@[simp] theorem State.setLaunch_msix (s : State) (id : Nat) (l : Launch) : (s.setLaunch id l).msix = s.msix := rfl
@[simp] theorem State.setLaunch_irqs (s : State) (id : Nat) (l : Launch) : (s.setLaunch id l).irqs = s.irqs := rfl
@[simp] theorem State.setLaunch_tdi (s : State) (id : Nat) (l : Launch) : (s.setLaunch id l).tdi = s.tdi := rfl
@[simp] theorem State.setLaunch_resetting (s : State) (id : Nat) (l : Launch) : (s.setLaunch id l).resetting = s.resetting := rfl
@[simp] theorem State.setLaunch_reports (s : State) (id : Nat) (l : Launch) : (s.setLaunch id l).reports = s.reports := rfl
@[simp] theorem State.setLaunch_replay (s : State) (id : Nat) (l : Launch) : (s.setLaunch id l).replay = s.replay := rfl
@[simp] theorem State.setLaunch_inbound (s : State) (id : Nat) (l : Launch) : (s.setLaunch id l).inbound = s.inbound := rfl
@[simp] theorem State.setLaunch_bells (s : State) (id : Nat) (l : Launch) : (s.setLaunch id l).bells = s.bells := rfl
@[simp] theorem State.setLaunch_tearing (s : State) (id : Nat) (l : Launch) : (s.setLaunch id l).tearing = s.tearing := rfl
@[simp] theorem State.setLaunch_drones (s : State) (id : Nat) (l : Launch) : (s.setLaunch id l).drones = s.drones := rfl
@[simp] theorem State.setLaunch_certs (s : State) (id : Nat) (l : Launch) : (s.setLaunch id l).certs = s.certs := rfl
@[simp] theorem State.setLaunch_certParts (s : State) (id : Nat) (l : Launch) : (s.setLaunch id l).certParts = s.certParts := rfl
@[simp] theorem State.setLaunch_spdmVersion (s : State) (id : Nat) (l : Launch) : (s.setLaunch id l).spdmVersion = s.spdmVersion := rfl
@[simp] theorem State.setLaunch_spdmReqs (s : State) (id : Nat) (l : Launch) : (s.setLaunch id l).spdmReqs = s.spdmReqs := rfl
@[simp] theorem State.setLaunch_reply (s : State) (id : Nat) (l : Launch) : (s.setLaunch id l).reply = s.reply := rfl
@[simp] theorem State.setLaunch_mepJob (s : State) (id : Nat) (l : Launch) : (s.setLaunch id l).mepJob = s.mepJob := rfl
@[simp] theorem State.setLaunch_sysLost (s : State) (id : Nat) (l : Launch) : (s.setLaunch id l).sysLost = s.sysLost := rfl
@[simp] theorem State.setLaunch_clk (s : State) (id : Nat) (l : Launch) : (s.setLaunch id l).clk = s.clk := rfl
@[simp] theorem State.setLaunch_issuedNow (s : State) (id : Nat) (l : Launch) : (s.setLaunch id l).issuedNow = s.issuedNow := rfl
@[simp] theorem State.setLaunch_picks (s : State) (id : Nat) (l : Launch) : (s.setLaunch id l).picks = s.picks := rfl
@[simp] theorem State.setLaunch_owed (s : State) (id : Nat) (l : Launch) : (s.setLaunch id l).owed = s.owed := rfl
@[simp] theorem State.setLaunch_leeway (s : State) (id : Nat) (l : Launch) : (s.setLaunch id l).leeway = s.leeway := rfl
@[simp] theorem State.setLaunch_agenda (s : State) (id : Nat) (l : Launch) : (s.setLaunch id l).agenda = s.agenda := rfl

/-! ### `State.putByte` -/

@[simp] theorem State.putByte_wv (s : State) (pa : Nat) (b : Byte) : (s.putByte pa b).wv = s.wv := rfl
@[simp] theorem State.putByte_pre (s : State) (pa : Nat) (b : Byte) : (s.putByte pa b).pre = s.pre := rfl
@[simp] theorem State.putByte_bk (s : State) (pa : Nat) (b : Byte) : (s.putByte pa b).bk = s.bk := rfl
@[simp] theorem State.putByte_cur (s : State) (pa : Nat) (b : Byte) : (s.putByte pa b).cur = s.cur := rfl
@[simp] theorem State.putByte_blocks (s : State) (pa : Nat) (b : Byte) : (s.putByte pa b).blocks = s.blocks := rfl
@[simp] theorem State.putByte_launches (s : State) (pa : Nat) (b : Byte) : (s.putByte pa b).launches = s.launches := rfl
@[simp] theorem State.putByte_nextUid (s : State) (pa : Nat) (b : Byte) : (s.putByte pa b).nextUid = s.nextUid := rfl
@[simp] theorem State.putByte_leadSlot (s : State) (pa : Nat) (b : Byte) : (s.putByte pa b).leadSlot = s.leadSlot := rfl
@[simp] theorem State.putByte_forcedAt (s : State) (pa : Nat) (b : Byte) : (s.putByte pa b).forcedAt = s.forcedAt := rfl
@[simp] theorem State.putByte_grants (s : State) (pa : Nat) (b : Byte) : (s.putByte pa b).grants = s.grants := rfl
@[simp] theorem State.putByte_passBusy (s : State) (pa : Nat) (b : Byte) : (s.putByte pa b).passBusy = s.passBusy := rfl
@[simp] theorem State.putByte_rcache (s : State) (pa : Nat) (b : Byte) : (s.putByte pa b).rcache = s.rcache := rfl
@[simp] theorem State.putByte_lineWants (s : State) (pa : Nat) (b : Byte) : (s.putByte pa b).lineWants = s.lineWants := rfl
@[simp] theorem State.putByte_writes (s : State) (pa : Nat) (b : Byte) : (s.putByte pa b).writes = s.writes := rfl
@[simp] theorem State.putByte_nextWrite (s : State) (pa : Nat) (b : Byte) : (s.putByte pa b).nextWrite = s.nextWrite := rfl
@[simp] theorem State.putByte_observed (s : State) (pa : Nat) (b : Byte) : (s.putByte pa b).observed = s.observed := rfl
@[simp] theorem State.putByte_ucopies (s : State) (pa : Nat) (b : Byte) : (s.putByte pa b).ucopies = s.ucopies := rfl
@[simp] theorem State.putByte_stale (s : State) (pa : Nat) (b : Byte) : (s.putByte pa b).stale = s.stale := rfl
@[simp] theorem State.putByte_marks (s : State) (pa : Nat) (b : Byte) : (s.putByte pa b).marks = s.marks := rfl
@[simp] theorem State.putByte_leaving (s : State) (pa : Nat) (b : Byte) : (s.putByte pa b).leaving = s.leaving := rfl
@[simp] theorem State.putByte_tlb (s : State) (pa : Nat) (b : Byte) : (s.putByte pa b).tlb = s.tlb := rfl
@[simp] theorem State.putByte_walks (s : State) (pa : Nat) (b : Byte) : (s.putByte pa b).walks = s.walks := rfl
@[simp] theorem State.putByte_locks (s : State) (pa : Nat) (b : Byte) : (s.putByte pa b).locks = s.locks := rfl
@[simp] theorem State.putByte_icache (s : State) (pa : Nat) (b : Byte) : (s.putByte pa b).icache = s.icache := rfl
@[simp] theorem State.putByte_eng (s : State) (pa : Nat) (b : Byte) : (s.putByte pa b).eng = s.eng := rfl
@[simp] theorem State.putByte_jobs (s : State) (pa : Nat) (b : Byte) : (s.putByte pa b).jobs = s.jobs := rfl
@[simp] theorem State.putByte_pairEng (s : State) (pa : Nat) (b : Byte) : (s.putByte pa b).pairEng = s.pairEng := rfl
@[simp] theorem State.putByte_mqueue (s : State) (pa : Nat) (b : Byte) : (s.putByte pa b).mqueue = s.mqueue := rfl
@[simp] theorem State.putByte_starts (s : State) (pa : Nat) (b : Byte) : (s.putByte pa b).starts = s.starts := rfl
@[simp] theorem State.putByte_routes (s : State) (pa : Nat) (b : Byte) : (s.putByte pa b).routes = s.routes := rfl
@[simp] theorem State.putByte_fab (s : State) (pa : Nat) (b : Byte) : (s.putByte pa b).fab = s.fab := rfl
@[simp] theorem State.putByte_ams (s : State) (pa : Nat) (b : Byte) : (s.putByte pa b).ams = s.ams := rfl
@[simp] theorem State.putByte_inboxes (s : State) (pa : Nat) (b : Byte) : (s.putByte pa b).inboxes = s.inboxes := rfl
@[simp] theorem State.putByte_amWaits (s : State) (pa : Nat) (b : Byte) : (s.putByte pa b).amWaits = s.amWaits := rfl
@[simp] theorem State.putByte_sems (s : State) (pa : Nat) (b : Byte) : (s.putByte pa b).sems = s.sems := rfl
@[simp] theorem State.putByte_batches (s : State) (pa : Nat) (b : Byte) : (s.putByte pa b).batches = s.batches := rfl
@[simp] theorem State.putByte_batchSeq (s : State) (pa : Nat) (b : Byte) : (s.putByte pa b).batchSeq = s.batchSeq := rfl
@[simp] theorem State.putByte_ctxWords (s : State) (pa : Nat) (b : Byte) : (s.putByte pa b).ctxWords = s.ctxWords := rfl
@[simp] theorem State.putByte_maint (s : State) (pa : Nat) (b : Byte) : (s.putByte pa b).maint = s.maint := rfl
@[simp] theorem State.putByte_pslots (s : State) (pa : Nat) (b : Byte) : (s.putByte pa b).pslots = s.pslots := rfl
@[simp] theorem State.putByte_coresWere (s : State) (pa : Nat) (b : Byte) : (s.putByte pa b).coresWere = s.coresWere := rfl
@[simp] theorem State.putByte_lost (s : State) (pa : Nat) (b : Byte) : (s.putByte pa b).lost = s.lost := rfl
@[simp] theorem State.putByte_shaped (s : State) (pa : Nat) (b : Byte) : (s.putByte pa b).shaped = s.shaped := rfl
@[simp] theorem State.putByte_keys (s : State) (pa : Nat) (b : Byte) : (s.putByte pa b).keys = s.keys := rfl
@[simp] theorem State.putByte_keyGen (s : State) (pa : Nat) (b : Byte) : (s.putByte pa b).keyGen = s.keyGen := rfl
@[simp] theorem State.putByte_featWritten (s : State) (pa : Nat) (b : Byte) : (s.putByte pa b).featWritten = s.featWritten := rfl
@[simp] theorem State.putByte_freqAt (s : State) (pa : Nat) (b : Byte) : (s.putByte pa b).freqAt = s.freqAt := rfl
@[simp] theorem State.putByte_hbmFails (s : State) (pa : Nat) (b : Byte) : (s.putByte pa b).hbmFails = s.hbmFails := rfl
@[simp] theorem State.putByte_egReq (s : State) (pa : Nat) (b : Byte) : (s.putByte pa b).egReq = s.egReq := rfl
@[simp] theorem State.putByte_idPassed (s : State) (pa : Nat) (b : Byte) : (s.putByte pa b).idPassed = s.idPassed := rfl
@[simp] theorem State.putByte_secOp (s : State) (pa : Nat) (b : Byte) : (s.putByte pa b).secOp = s.secOp := rfl
@[simp] theorem State.putByte_vstore (s : State) (pa : Nat) (b : Byte) : (s.putByte pa b).vstore = s.vstore := rfl
@[simp] theorem State.putByte_vfr (s : State) (pa : Nat) (b : Byte) : (s.putByte pa b).vfr = s.vfr := rfl
@[simp] theorem State.putByte_msix (s : State) (pa : Nat) (b : Byte) : (s.putByte pa b).msix = s.msix := rfl
@[simp] theorem State.putByte_irqs (s : State) (pa : Nat) (b : Byte) : (s.putByte pa b).irqs = s.irqs := rfl
@[simp] theorem State.putByte_tdi (s : State) (pa : Nat) (b : Byte) : (s.putByte pa b).tdi = s.tdi := rfl
@[simp] theorem State.putByte_resetting (s : State) (pa : Nat) (b : Byte) : (s.putByte pa b).resetting = s.resetting := rfl
@[simp] theorem State.putByte_reports (s : State) (pa : Nat) (b : Byte) : (s.putByte pa b).reports = s.reports := rfl
@[simp] theorem State.putByte_replay (s : State) (pa : Nat) (b : Byte) : (s.putByte pa b).replay = s.replay := rfl
@[simp] theorem State.putByte_inbound (s : State) (pa : Nat) (b : Byte) : (s.putByte pa b).inbound = s.inbound := rfl
@[simp] theorem State.putByte_bells (s : State) (pa : Nat) (b : Byte) : (s.putByte pa b).bells = s.bells := rfl
@[simp] theorem State.putByte_tearing (s : State) (pa : Nat) (b : Byte) : (s.putByte pa b).tearing = s.tearing := rfl
@[simp] theorem State.putByte_drones (s : State) (pa : Nat) (b : Byte) : (s.putByte pa b).drones = s.drones := rfl
@[simp] theorem State.putByte_certs (s : State) (pa : Nat) (b : Byte) : (s.putByte pa b).certs = s.certs := rfl
@[simp] theorem State.putByte_certParts (s : State) (pa : Nat) (b : Byte) : (s.putByte pa b).certParts = s.certParts := rfl
@[simp] theorem State.putByte_spdmVersion (s : State) (pa : Nat) (b : Byte) : (s.putByte pa b).spdmVersion = s.spdmVersion := rfl
@[simp] theorem State.putByte_spdmReqs (s : State) (pa : Nat) (b : Byte) : (s.putByte pa b).spdmReqs = s.spdmReqs := rfl
@[simp] theorem State.putByte_reply (s : State) (pa : Nat) (b : Byte) : (s.putByte pa b).reply = s.reply := rfl
@[simp] theorem State.putByte_mepJob (s : State) (pa : Nat) (b : Byte) : (s.putByte pa b).mepJob = s.mepJob := rfl
@[simp] theorem State.putByte_sysLost (s : State) (pa : Nat) (b : Byte) : (s.putByte pa b).sysLost = s.sysLost := rfl
@[simp] theorem State.putByte_clk (s : State) (pa : Nat) (b : Byte) : (s.putByte pa b).clk = s.clk := rfl
@[simp] theorem State.putByte_issuedNow (s : State) (pa : Nat) (b : Byte) : (s.putByte pa b).issuedNow = s.issuedNow := rfl
@[simp] theorem State.putByte_picks (s : State) (pa : Nat) (b : Byte) : (s.putByte pa b).picks = s.picks := rfl
@[simp] theorem State.putByte_owed (s : State) (pa : Nat) (b : Byte) : (s.putByte pa b).owed = s.owed := rfl
@[simp] theorem State.putByte_leeway (s : State) (pa : Nat) (b : Byte) : (s.putByte pa b).leeway = s.leeway := rfl
@[simp] theorem State.putByte_agenda (s : State) (pa : Nat) (b : Byte) : (s.putByte pa b).agenda = s.agenda := rfl

/-! ### `State.hold` -/

@[simp] theorem State.hold_pre (s : State) (m : Lanes) : (s.hold m).pre = s.pre := rfl
@[simp] theorem State.hold_bk (s : State) (m : Lanes) : (s.hold m).bk = s.bk := rfl
@[simp] theorem State.hold_blocks (s : State) (m : Lanes) : (s.hold m).blocks = s.blocks := rfl
@[simp] theorem State.hold_launches (s : State) (m : Lanes) : (s.hold m).launches = s.launches := rfl
@[simp] theorem State.hold_nextUid (s : State) (m : Lanes) : (s.hold m).nextUid = s.nextUid := rfl
@[simp] theorem State.hold_leadSlot (s : State) (m : Lanes) : (s.hold m).leadSlot = s.leadSlot := rfl
@[simp] theorem State.hold_forcedAt (s : State) (m : Lanes) : (s.hold m).forcedAt = s.forcedAt := rfl
@[simp] theorem State.hold_grants (s : State) (m : Lanes) : (s.hold m).grants = s.grants := rfl
@[simp] theorem State.hold_passBusy (s : State) (m : Lanes) : (s.hold m).passBusy = s.passBusy := rfl
@[simp] theorem State.hold_rcache (s : State) (m : Lanes) : (s.hold m).rcache = s.rcache := rfl
@[simp] theorem State.hold_lineWants (s : State) (m : Lanes) : (s.hold m).lineWants = s.lineWants := rfl
@[simp] theorem State.hold_mem (s : State) (m : Lanes) : (s.hold m).mem = s.mem := rfl
@[simp] theorem State.hold_writes (s : State) (m : Lanes) : (s.hold m).writes = s.writes := rfl
@[simp] theorem State.hold_nextWrite (s : State) (m : Lanes) : (s.hold m).nextWrite = s.nextWrite := rfl
@[simp] theorem State.hold_observed (s : State) (m : Lanes) : (s.hold m).observed = s.observed := rfl
@[simp] theorem State.hold_ucopies (s : State) (m : Lanes) : (s.hold m).ucopies = s.ucopies := rfl
@[simp] theorem State.hold_stale (s : State) (m : Lanes) : (s.hold m).stale = s.stale := rfl
@[simp] theorem State.hold_marks (s : State) (m : Lanes) : (s.hold m).marks = s.marks := rfl
@[simp] theorem State.hold_ptag (s : State) (m : Lanes) : (s.hold m).ptag = s.ptag := rfl
@[simp] theorem State.hold_leaving (s : State) (m : Lanes) : (s.hold m).leaving = s.leaving := rfl
@[simp] theorem State.hold_tlb (s : State) (m : Lanes) : (s.hold m).tlb = s.tlb := rfl
@[simp] theorem State.hold_walks (s : State) (m : Lanes) : (s.hold m).walks = s.walks := rfl
@[simp] theorem State.hold_locks (s : State) (m : Lanes) : (s.hold m).locks = s.locks := rfl
@[simp] theorem State.hold_icache (s : State) (m : Lanes) : (s.hold m).icache = s.icache := rfl
@[simp] theorem State.hold_eng (s : State) (m : Lanes) : (s.hold m).eng = s.eng := rfl
@[simp] theorem State.hold_jobs (s : State) (m : Lanes) : (s.hold m).jobs = s.jobs := rfl
@[simp] theorem State.hold_pairEng (s : State) (m : Lanes) : (s.hold m).pairEng = s.pairEng := rfl
@[simp] theorem State.hold_mqueue (s : State) (m : Lanes) : (s.hold m).mqueue = s.mqueue := rfl
@[simp] theorem State.hold_starts (s : State) (m : Lanes) : (s.hold m).starts = s.starts := rfl
@[simp] theorem State.hold_routes (s : State) (m : Lanes) : (s.hold m).routes = s.routes := rfl
@[simp] theorem State.hold_fab (s : State) (m : Lanes) : (s.hold m).fab = s.fab := rfl
@[simp] theorem State.hold_ams (s : State) (m : Lanes) : (s.hold m).ams = s.ams := rfl
@[simp] theorem State.hold_inboxes (s : State) (m : Lanes) : (s.hold m).inboxes = s.inboxes := rfl
@[simp] theorem State.hold_amWaits (s : State) (m : Lanes) : (s.hold m).amWaits = s.amWaits := rfl
@[simp] theorem State.hold_sems (s : State) (m : Lanes) : (s.hold m).sems = s.sems := rfl
@[simp] theorem State.hold_batches (s : State) (m : Lanes) : (s.hold m).batches = s.batches := rfl
@[simp] theorem State.hold_batchSeq (s : State) (m : Lanes) : (s.hold m).batchSeq = s.batchSeq := rfl
@[simp] theorem State.hold_ctxWords (s : State) (m : Lanes) : (s.hold m).ctxWords = s.ctxWords := rfl
@[simp] theorem State.hold_maint (s : State) (m : Lanes) : (s.hold m).maint = s.maint := rfl
@[simp] theorem State.hold_pslots (s : State) (m : Lanes) : (s.hold m).pslots = s.pslots := rfl
@[simp] theorem State.hold_coresWere (s : State) (m : Lanes) : (s.hold m).coresWere = s.coresWere := rfl
@[simp] theorem State.hold_lost (s : State) (m : Lanes) : (s.hold m).lost = s.lost := rfl
@[simp] theorem State.hold_shaped (s : State) (m : Lanes) : (s.hold m).shaped = s.shaped := rfl
@[simp] theorem State.hold_keys (s : State) (m : Lanes) : (s.hold m).keys = s.keys := rfl
@[simp] theorem State.hold_keyGen (s : State) (m : Lanes) : (s.hold m).keyGen = s.keyGen := rfl
@[simp] theorem State.hold_featWritten (s : State) (m : Lanes) : (s.hold m).featWritten = s.featWritten := rfl
@[simp] theorem State.hold_freqAt (s : State) (m : Lanes) : (s.hold m).freqAt = s.freqAt := rfl
@[simp] theorem State.hold_hbmFails (s : State) (m : Lanes) : (s.hold m).hbmFails = s.hbmFails := rfl
@[simp] theorem State.hold_egReq (s : State) (m : Lanes) : (s.hold m).egReq = s.egReq := rfl
@[simp] theorem State.hold_idPassed (s : State) (m : Lanes) : (s.hold m).idPassed = s.idPassed := rfl
@[simp] theorem State.hold_secOp (s : State) (m : Lanes) : (s.hold m).secOp = s.secOp := rfl
@[simp] theorem State.hold_vstore (s : State) (m : Lanes) : (s.hold m).vstore = s.vstore := rfl
@[simp] theorem State.hold_vfr (s : State) (m : Lanes) : (s.hold m).vfr = s.vfr := rfl
@[simp] theorem State.hold_msix (s : State) (m : Lanes) : (s.hold m).msix = s.msix := rfl
@[simp] theorem State.hold_irqs (s : State) (m : Lanes) : (s.hold m).irqs = s.irqs := rfl
@[simp] theorem State.hold_tdi (s : State) (m : Lanes) : (s.hold m).tdi = s.tdi := rfl
@[simp] theorem State.hold_resetting (s : State) (m : Lanes) : (s.hold m).resetting = s.resetting := rfl
@[simp] theorem State.hold_reports (s : State) (m : Lanes) : (s.hold m).reports = s.reports := rfl
@[simp] theorem State.hold_replay (s : State) (m : Lanes) : (s.hold m).replay = s.replay := rfl
@[simp] theorem State.hold_inbound (s : State) (m : Lanes) : (s.hold m).inbound = s.inbound := rfl
@[simp] theorem State.hold_bells (s : State) (m : Lanes) : (s.hold m).bells = s.bells := rfl
@[simp] theorem State.hold_tearing (s : State) (m : Lanes) : (s.hold m).tearing = s.tearing := rfl
@[simp] theorem State.hold_drones (s : State) (m : Lanes) : (s.hold m).drones = s.drones := rfl
@[simp] theorem State.hold_certs (s : State) (m : Lanes) : (s.hold m).certs = s.certs := rfl
@[simp] theorem State.hold_certParts (s : State) (m : Lanes) : (s.hold m).certParts = s.certParts := rfl
@[simp] theorem State.hold_spdmVersion (s : State) (m : Lanes) : (s.hold m).spdmVersion = s.spdmVersion := rfl
@[simp] theorem State.hold_spdmReqs (s : State) (m : Lanes) : (s.hold m).spdmReqs = s.spdmReqs := rfl
@[simp] theorem State.hold_reply (s : State) (m : Lanes) : (s.hold m).reply = s.reply := rfl
@[simp] theorem State.hold_mepJob (s : State) (m : Lanes) : (s.hold m).mepJob = s.mepJob := rfl
@[simp] theorem State.hold_sysLost (s : State) (m : Lanes) : (s.hold m).sysLost = s.sysLost := rfl
@[simp] theorem State.hold_clk (s : State) (m : Lanes) : (s.hold m).clk = s.clk := rfl
@[simp] theorem State.hold_issuedNow (s : State) (m : Lanes) : (s.hold m).issuedNow = s.issuedNow := rfl
@[simp] theorem State.hold_picks (s : State) (m : Lanes) : (s.hold m).picks = s.picks := rfl
@[simp] theorem State.hold_owed (s : State) (m : Lanes) : (s.hold m).owed = s.owed := rfl
@[simp] theorem State.hold_leeway (s : State) (m : Lanes) : (s.hold m).leeway = s.leeway := rfl
@[simp] theorem State.hold_agenda (s : State) (m : Lanes) : (s.hold m).agenda = s.agenda := rfl

/-! ### `State.setRoute` -/

@[simp] theorem State.setRoute_wv (s : State) (pid n : Nat) (r : Route) : (s.setRoute pid n r).wv = s.wv := rfl
@[simp] theorem State.setRoute_pre (s : State) (pid n : Nat) (r : Route) : (s.setRoute pid n r).pre = s.pre := rfl
@[simp] theorem State.setRoute_bk (s : State) (pid n : Nat) (r : Route) : (s.setRoute pid n r).bk = s.bk := rfl
@[simp] theorem State.setRoute_cur (s : State) (pid n : Nat) (r : Route) : (s.setRoute pid n r).cur = s.cur := rfl
@[simp] theorem State.setRoute_blocks (s : State) (pid n : Nat) (r : Route) : (s.setRoute pid n r).blocks = s.blocks := rfl
@[simp] theorem State.setRoute_launches (s : State) (pid n : Nat) (r : Route) : (s.setRoute pid n r).launches = s.launches := rfl
@[simp] theorem State.setRoute_nextUid (s : State) (pid n : Nat) (r : Route) : (s.setRoute pid n r).nextUid = s.nextUid := rfl
@[simp] theorem State.setRoute_leadSlot (s : State) (pid n : Nat) (r : Route) : (s.setRoute pid n r).leadSlot = s.leadSlot := rfl
@[simp] theorem State.setRoute_forcedAt (s : State) (pid n : Nat) (r : Route) : (s.setRoute pid n r).forcedAt = s.forcedAt := rfl
@[simp] theorem State.setRoute_grants (s : State) (pid n : Nat) (r : Route) : (s.setRoute pid n r).grants = s.grants := rfl
@[simp] theorem State.setRoute_passBusy (s : State) (pid n : Nat) (r : Route) : (s.setRoute pid n r).passBusy = s.passBusy := rfl
@[simp] theorem State.setRoute_rcache (s : State) (pid n : Nat) (r : Route) : (s.setRoute pid n r).rcache = s.rcache := rfl
@[simp] theorem State.setRoute_lineWants (s : State) (pid n : Nat) (r : Route) : (s.setRoute pid n r).lineWants = s.lineWants := rfl
@[simp] theorem State.setRoute_mem (s : State) (pid n : Nat) (r : Route) : (s.setRoute pid n r).mem = s.mem := rfl
@[simp] theorem State.setRoute_writes (s : State) (pid n : Nat) (r : Route) : (s.setRoute pid n r).writes = s.writes := rfl
@[simp] theorem State.setRoute_nextWrite (s : State) (pid n : Nat) (r : Route) : (s.setRoute pid n r).nextWrite = s.nextWrite := rfl
@[simp] theorem State.setRoute_observed (s : State) (pid n : Nat) (r : Route) : (s.setRoute pid n r).observed = s.observed := rfl
@[simp] theorem State.setRoute_ucopies (s : State) (pid n : Nat) (r : Route) : (s.setRoute pid n r).ucopies = s.ucopies := rfl
@[simp] theorem State.setRoute_stale (s : State) (pid n : Nat) (r : Route) : (s.setRoute pid n r).stale = s.stale := rfl
@[simp] theorem State.setRoute_marks (s : State) (pid n : Nat) (r : Route) : (s.setRoute pid n r).marks = s.marks := rfl
@[simp] theorem State.setRoute_ptag (s : State) (pid n : Nat) (r : Route) : (s.setRoute pid n r).ptag = s.ptag := rfl
@[simp] theorem State.setRoute_leaving (s : State) (pid n : Nat) (r : Route) : (s.setRoute pid n r).leaving = s.leaving := rfl
@[simp] theorem State.setRoute_tlb (s : State) (pid n : Nat) (r : Route) : (s.setRoute pid n r).tlb = s.tlb := rfl
@[simp] theorem State.setRoute_walks (s : State) (pid n : Nat) (r : Route) : (s.setRoute pid n r).walks = s.walks := rfl
@[simp] theorem State.setRoute_locks (s : State) (pid n : Nat) (r : Route) : (s.setRoute pid n r).locks = s.locks := rfl
@[simp] theorem State.setRoute_icache (s : State) (pid n : Nat) (r : Route) : (s.setRoute pid n r).icache = s.icache := rfl
@[simp] theorem State.setRoute_eng (s : State) (pid n : Nat) (r : Route) : (s.setRoute pid n r).eng = s.eng := rfl
@[simp] theorem State.setRoute_jobs (s : State) (pid n : Nat) (r : Route) : (s.setRoute pid n r).jobs = s.jobs := rfl
@[simp] theorem State.setRoute_pairEng (s : State) (pid n : Nat) (r : Route) : (s.setRoute pid n r).pairEng = s.pairEng := rfl
@[simp] theorem State.setRoute_mqueue (s : State) (pid n : Nat) (r : Route) : (s.setRoute pid n r).mqueue = s.mqueue := rfl
@[simp] theorem State.setRoute_starts (s : State) (pid n : Nat) (r : Route) : (s.setRoute pid n r).starts = s.starts := rfl
@[simp] theorem State.setRoute_fab (s : State) (pid n : Nat) (r : Route) : (s.setRoute pid n r).fab = s.fab := rfl
@[simp] theorem State.setRoute_ams (s : State) (pid n : Nat) (r : Route) : (s.setRoute pid n r).ams = s.ams := rfl
@[simp] theorem State.setRoute_inboxes (s : State) (pid n : Nat) (r : Route) : (s.setRoute pid n r).inboxes = s.inboxes := rfl
@[simp] theorem State.setRoute_amWaits (s : State) (pid n : Nat) (r : Route) : (s.setRoute pid n r).amWaits = s.amWaits := rfl
@[simp] theorem State.setRoute_sems (s : State) (pid n : Nat) (r : Route) : (s.setRoute pid n r).sems = s.sems := rfl
@[simp] theorem State.setRoute_batches (s : State) (pid n : Nat) (r : Route) : (s.setRoute pid n r).batches = s.batches := rfl
@[simp] theorem State.setRoute_batchSeq (s : State) (pid n : Nat) (r : Route) : (s.setRoute pid n r).batchSeq = s.batchSeq := rfl
@[simp] theorem State.setRoute_ctxWords (s : State) (pid n : Nat) (r : Route) : (s.setRoute pid n r).ctxWords = s.ctxWords := rfl
@[simp] theorem State.setRoute_maint (s : State) (pid n : Nat) (r : Route) : (s.setRoute pid n r).maint = s.maint := rfl
@[simp] theorem State.setRoute_pslots (s : State) (pid n : Nat) (r : Route) : (s.setRoute pid n r).pslots = s.pslots := rfl
@[simp] theorem State.setRoute_coresWere (s : State) (pid n : Nat) (r : Route) : (s.setRoute pid n r).coresWere = s.coresWere := rfl
@[simp] theorem State.setRoute_lost (s : State) (pid n : Nat) (r : Route) : (s.setRoute pid n r).lost = s.lost := rfl
@[simp] theorem State.setRoute_shaped (s : State) (pid n : Nat) (r : Route) : (s.setRoute pid n r).shaped = s.shaped := rfl
@[simp] theorem State.setRoute_keys (s : State) (pid n : Nat) (r : Route) : (s.setRoute pid n r).keys = s.keys := rfl
@[simp] theorem State.setRoute_keyGen (s : State) (pid n : Nat) (r : Route) : (s.setRoute pid n r).keyGen = s.keyGen := rfl
@[simp] theorem State.setRoute_featWritten (s : State) (pid n : Nat) (r : Route) : (s.setRoute pid n r).featWritten = s.featWritten := rfl
@[simp] theorem State.setRoute_freqAt (s : State) (pid n : Nat) (r : Route) : (s.setRoute pid n r).freqAt = s.freqAt := rfl
@[simp] theorem State.setRoute_hbmFails (s : State) (pid n : Nat) (r : Route) : (s.setRoute pid n r).hbmFails = s.hbmFails := rfl
@[simp] theorem State.setRoute_egReq (s : State) (pid n : Nat) (r : Route) : (s.setRoute pid n r).egReq = s.egReq := rfl
@[simp] theorem State.setRoute_idPassed (s : State) (pid n : Nat) (r : Route) : (s.setRoute pid n r).idPassed = s.idPassed := rfl
@[simp] theorem State.setRoute_secOp (s : State) (pid n : Nat) (r : Route) : (s.setRoute pid n r).secOp = s.secOp := rfl
@[simp] theorem State.setRoute_vstore (s : State) (pid n : Nat) (r : Route) : (s.setRoute pid n r).vstore = s.vstore := rfl
@[simp] theorem State.setRoute_vfr (s : State) (pid n : Nat) (r : Route) : (s.setRoute pid n r).vfr = s.vfr := rfl
@[simp] theorem State.setRoute_msix (s : State) (pid n : Nat) (r : Route) : (s.setRoute pid n r).msix = s.msix := rfl
@[simp] theorem State.setRoute_irqs (s : State) (pid n : Nat) (r : Route) : (s.setRoute pid n r).irqs = s.irqs := rfl
@[simp] theorem State.setRoute_tdi (s : State) (pid n : Nat) (r : Route) : (s.setRoute pid n r).tdi = s.tdi := rfl
@[simp] theorem State.setRoute_resetting (s : State) (pid n : Nat) (r : Route) : (s.setRoute pid n r).resetting = s.resetting := rfl
@[simp] theorem State.setRoute_reports (s : State) (pid n : Nat) (r : Route) : (s.setRoute pid n r).reports = s.reports := rfl
@[simp] theorem State.setRoute_replay (s : State) (pid n : Nat) (r : Route) : (s.setRoute pid n r).replay = s.replay := rfl
@[simp] theorem State.setRoute_inbound (s : State) (pid n : Nat) (r : Route) : (s.setRoute pid n r).inbound = s.inbound := rfl
@[simp] theorem State.setRoute_bells (s : State) (pid n : Nat) (r : Route) : (s.setRoute pid n r).bells = s.bells := rfl
@[simp] theorem State.setRoute_tearing (s : State) (pid n : Nat) (r : Route) : (s.setRoute pid n r).tearing = s.tearing := rfl
@[simp] theorem State.setRoute_drones (s : State) (pid n : Nat) (r : Route) : (s.setRoute pid n r).drones = s.drones := rfl
@[simp] theorem State.setRoute_certs (s : State) (pid n : Nat) (r : Route) : (s.setRoute pid n r).certs = s.certs := rfl
@[simp] theorem State.setRoute_certParts (s : State) (pid n : Nat) (r : Route) : (s.setRoute pid n r).certParts = s.certParts := rfl
@[simp] theorem State.setRoute_spdmVersion (s : State) (pid n : Nat) (r : Route) : (s.setRoute pid n r).spdmVersion = s.spdmVersion := rfl
@[simp] theorem State.setRoute_spdmReqs (s : State) (pid n : Nat) (r : Route) : (s.setRoute pid n r).spdmReqs = s.spdmReqs := rfl
@[simp] theorem State.setRoute_reply (s : State) (pid n : Nat) (r : Route) : (s.setRoute pid n r).reply = s.reply := rfl
@[simp] theorem State.setRoute_mepJob (s : State) (pid n : Nat) (r : Route) : (s.setRoute pid n r).mepJob = s.mepJob := rfl
@[simp] theorem State.setRoute_sysLost (s : State) (pid n : Nat) (r : Route) : (s.setRoute pid n r).sysLost = s.sysLost := rfl
@[simp] theorem State.setRoute_clk (s : State) (pid n : Nat) (r : Route) : (s.setRoute pid n r).clk = s.clk := rfl
@[simp] theorem State.setRoute_issuedNow (s : State) (pid n : Nat) (r : Route) : (s.setRoute pid n r).issuedNow = s.issuedNow := rfl
@[simp] theorem State.setRoute_picks (s : State) (pid n : Nat) (r : Route) : (s.setRoute pid n r).picks = s.picks := rfl
@[simp] theorem State.setRoute_owed (s : State) (pid n : Nat) (r : Route) : (s.setRoute pid n r).owed = s.owed := rfl
@[simp] theorem State.setRoute_leeway (s : State) (pid n : Nat) (r : Route) : (s.setRoute pid n r).leeway = s.leeway := rfl
@[simp] theorem State.setRoute_agenda (s : State) (pid n : Nat) (r : Route) : (s.setRoute pid n r).agenda = s.agenda := rfl

/-! ### What an update wrote -/

@[simp] theorem State.setW_wv (s : State) (w : Wave) : (s.setW w).wv = w := rfl
@[simp] theorem State.setW_setW (s : State) (w u : Wave) : (s.setW w).setW u = s.setW u := rfl
@[simp] theorem State.setW_self (s : State) : s.setW s.wv = s := rfl

/-- A logged write changes maintenance registers only. -/
theorem State.log_frame (s : State) (code detail : Nat) : s.log code detail = { s with maint := (s.log code detail).maint } := by
  unfold State.log State.setReg
  dsimp only

theorem State.logIgnored_frame (s : State) (detail : Nat) :
    s.logIgnored detail = { s with maint := (s.logIgnored detail).maint } := State.log_frame s 1 detail

end Sys2Proof.Machine
end

