-- ==== Sys2Proof/Laws/Tab.lean ====
section
/-! SUPPORT. The laws of the sparse tables and of lane masks: a read after a write, and the canonical form. -/

namespace Sys2Proof

namespace Tab

variable {α : Type}

@[simp] theorem get_nil (k : Nat) (dv : α) : get ([] : Tab α) k dv = dv := rfl

theorem get_cons (j : Nat) (v : α) (r : Tab α) (k : Nat) (dv : α) :
    get ((j, v) :: r) k dv = if j = k then v else get r k dv := rfl

/-- A filter on the key does not disturb the keys it keeps. -/
theorem get_filter_keep (p : Nat → Bool) (t : Tab α) (k : Nat) (dv : α) (h : p k = true) :
    get (t.filter (fun e => p e.1)) k dv = get t k dv := by
  induction t with
  | nil => rfl
  | cons e r ih =>
    obtain ⟨j, v⟩ := e
    by_cases hj : p j = true
    · rw [List.filter_cons_of_pos (by simpa using hj), get_cons, get_cons, ih]
    · rw [List.filter_cons_of_neg (by simpa using hj), get_cons, ih]
      have : j ≠ k := fun h' => hj (h' ▸ h)
      simp [this]

/-- A filter on the key hides the keys it drops. -/
theorem get_filter_drop (p : Nat → Bool) (t : Tab α) (k : Nat) (dv : α) (h : p k = false) :
    get (t.filter (fun e => p e.1)) k dv = dv := by
  induction t with
  | nil => rfl
  | cons e r ih =>
    obtain ⟨j, v⟩ := e
    by_cases hj : p j = true
    · rw [List.filter_cons_of_pos (by simpa using hj), get_cons, ih]
      have : j ≠ k := fun h' => by simp [h' ▸ hj] at h
      simp [this]
    · rw [List.filter_cons_of_neg (by simpa using hj), ih]

@[simp] theorem get_erase_self (t : Tab α) (k : Nat) (dv : α) : get (erase t k) k dv = dv :=
  get_filter_drop (fun j => j != k) t k dv (by simp)

theorem get_erase_other (t : Tab α) (k j : Nat) (dv : α) (h : j ≠ k) : get (erase t k) j dv = get t j dv :=
  get_filter_keep (fun i => i != k) t j dv (by simp [h])

theorem get_insert_self (t : Tab α) (k : Nat) (v dv : α) (h : ∀ e ∈ t, e.1 ≠ k) : get (insert t k v) k dv = v := by
  induction t with
  | nil => simp [insert, get]
  | cons e r ih =>
    obtain ⟨j, w⟩ := e
    unfold insert
    have hj : j ≠ k := h (j, w) (by simp)
    split
    · simp [get]
    · rw [get_cons, ih (fun e he => h e (by simp [he]))]; simp [hj]

theorem get_insert_other (t : Tab α) (k j : Nat) (v dv : α) (h : j ≠ k) : get (insert t k v) j dv = get t j dv := by
  induction t with
  | nil => simp [insert, get, Ne.symm h]
  | cons e r ih =>
    obtain ⟨i, w⟩ := e
    unfold insert
    split
    · simp [get, Ne.symm h]
    · rw [get_cons, get_cons, ih]

theorem erase_keys (t : Tab α) (k : Nat) : ∀ e ∈ erase t k, e.1 ≠ k := by
  intro e he
  simpa [erase] using (List.mem_filter.1 he).2

theorem mem_insert_of_mem (t : Tab α) (k : Nat) (v : α) (e : Nat × α) (h : e ∈ t) : e ∈ insert t k v := by
  induction t with
  | nil => cases h
  | cons a r ih =>
    obtain ⟨j, w⟩ := a
    unfold insert
    split
    · simp [h]
    · rcases List.mem_cons.mp h with h | h
      · simp [h]
      · simp [ih h]

theorem mem_insert_self (t : Tab α) (k : Nat) (v : α) : (k, v) ∈ insert t k v := by
  induction t with
  | nil => simp [insert]
  | cons a r ih =>
    obtain ⟨j, w⟩ := a
    unfold insert
    split <;> simp [ih]

variable [DecidableEq α]

/-- A read of the key written. -/
@[simp] theorem get_set_self (t : Tab α) (k : Nat) (v dv : α) : get (set t k v dv) k dv = v := by
  unfold set
  split
  · simp [*]
  · exact get_insert_self _ _ _ _ (erase_keys t k)

/-- A read of any other key. -/
theorem get_set_other (t : Tab α) (k j : Nat) (v dv : α) (h : j ≠ k) : get (set t k v dv) j dv = get t j dv := by
  unfold set
  split
  · exact get_erase_other t k j dv h
  · rw [get_insert_other _ _ _ _ _ h, get_erase_other t k j dv h]

/-- A read after a write, in one equation. -/
theorem get_set (t : Tab α) (k j : Nat) (v dv : α) : get (set t k v dv) j dv = if j = k then v else get t j dv := by
  by_cases h : j = k
  · subst h; simp
  · simp [h, get_set_other t k j v dv h]

theorem get_upd (t : Tab α) (k j : Nat) (dv : α) (f : α → α) :
    get (upd t k dv f) j dv = if j = k then f (get t k dv) else get t j dv := get_set t k j _ dv

/-! ### The canonical form -/

@[simp] theorem wf_nil (dv : α) : wf ([] : Tab α) dv = true := rfl

theorem wf_cons (j : Nat) (v : α) (r : Tab α) (dv : α) :
    wf ((j, v) :: r) dv = true ↔ v ≠ dv ∧ (∀ e ∈ r, j < e.1) ∧ wf r dv = true := by
  simp [wf, and_assoc]

/-- Any filter keeps the form. -/
theorem wf_filter (t : Tab α) (dv : α) (p : Nat × α → Bool) (h : wf t dv = true) : wf (t.filter p) dv = true := by
  induction t with
  | nil => rfl
  | cons e r ih =>
    obtain ⟨j, v⟩ := e
    obtain ⟨h1, h2, h3⟩ := (wf_cons j v r dv).1 h
    by_cases hp : p (j, v) = true
    · rw [List.filter_cons_of_pos hp, wf_cons]
      exact ⟨h1, fun e he => h2 e (List.mem_filter.1 he).1, ih h3⟩
    · rw [List.filter_cons_of_neg hp]; exact ih h3

omit [DecidableEq α] in
theorem mem_insert (t : Tab α) (k : Nat) (v : α) (e : Nat × α) (h : e ∈ insert t k v) : e = (k, v) ∨ e ∈ t := by
  induction t with
  | nil => simpa [insert] using h
  | cons x r ih =>
    obtain ⟨j, w⟩ := x
    unfold insert at h
    split at h
    · simpa using h
    · rcases List.mem_cons.1 h with h | h
      · exact .inr (by simp [h])
      · rcases ih h with h | h
        · exact .inl h
        · exact .inr (by simp [h])

theorem wf_insert (t : Tab α) (k : Nat) (v dv : α) (hv : v ≠ dv) (hk : ∀ e ∈ t, e.1 ≠ k) (h : wf t dv = true) :
    wf (insert t k v) dv = true := by
  induction t with
  | nil => simp [insert, wf, hv]
  | cons e r ih =>
    obtain ⟨j, w⟩ := e
    obtain ⟨h1, h2, h3⟩ := (wf_cons j w r dv).1 h
    unfold insert
    split
    · rename_i hlt
      rw [wf_cons]
      refine ⟨hv, fun e he => ?_, h⟩
      rcases List.mem_cons.1 he with he | he
      · simpa [he] using hlt
      · exact Nat.lt_trans hlt (h2 e he)
    · rename_i hlt
      rw [wf_cons]
      have hjk : j ≠ k := hk (j, w) (by simp)
      refine ⟨h1, fun e he => ?_, ih (fun e he => hk e (by simp [he])) h3⟩
      rcases mem_insert r k v e he with he | he
      · subst he; simp only; omega
      · exact h2 e he

/-- What `set` keeps: every entry of another key. -/
theorem mem_set_of_mem (t : Tab α) (k : Nat) (v dv : α) (e : Nat × α) (h : e ∈ t) (hk : e.1 ≠ k) :
    e ∈ set t k v dv := by
  have : e ∈ erase t k := by simp [erase, h, hk]
  unfold set
  split
  · exact this
  · exact mem_insert_of_mem _ _ _ _ this

theorem mem_set_self (t : Tab α) (k : Nat) (v dv : α) (h : v ≠ dv) : (k, v) ∈ set t k v dv := by
  simp [set, h, mem_insert_self]

/-- A canonical table lists a key once. -/
theorem wf_unique (t : Tab α) (dv : α) (h : wf t dv = true) (e f : Nat × α) (he : e ∈ t) (hf : f ∈ t)
    (hk : e.1 = f.1) : e = f := by
  induction t with
  | nil => cases he
  | cons a r ih =>
    obtain ⟨j, v⟩ := a
    simp only [wf, Bool.and_eq_true, List.all_eq_true, decide_eq_true_eq] at h
    rcases List.mem_cons.mp he with he | he <;> rcases List.mem_cons.mp hf with hf | hf
    · rw [he, hf]
    · have := h.1.2 f hf; subst he; simp at hk; omega
    · have := h.1.2 e he; subst hf; simp at hk; omega
    · exact ih h.2 he hf

/-- A write keeps the form. -/
theorem wf_set (t : Tab α) (k : Nat) (v dv : α) (h : wf t dv = true) : wf (set t k v dv) dv = true := by
  unfold set
  split
  · exact wf_filter t dv _ h
  · rename_i hv
    exact wf_insert _ k v dv hv (erase_keys t k) (wf_filter t dv _ h)

end Tab

/-! ### Lane masks -/

theorem mem_lanesOf (m : Lanes) (L : Nat) : L ∈ lanesOf m ↔ L < 48 ∧ m.getLsbD L = true := by
  simp [lanesOf, allLanes, List.mem_filter]

/-- The bit of one lane. -/
theorem lane_bit (L i : Nat) (h : L < 48) : (BitVec.ofNat 48 (2 ^ L)).getLsbD i = decide (i = L) := by
  by_cases hi : i < 48
  · simp only [BitVec.getLsbD_ofNat, hi, decide_true, Bool.true_and, Nat.testBit_two_pow]
    exact decide_eq_decide.2 eq_comm
  · rw [BitVec.getLsbD_of_ge _ _ (by omega)]
    simp; omega

/-- A lane of a mask made from a test is in it exactly when the test holds. -/
theorem maskOf_lane (f : Nat → Bool) (L : Nat) (h : L < 48) : (maskOf f).getLsbD L = f L := by
  have key : ∀ (l : List Nat) (m : Lanes), (∀ x ∈ l, x < 48) →
      (l.foldl (fun m L => if f L then m ||| BitVec.ofNat 48 (2 ^ L) else m) m).getLsbD L
        = (m.getLsbD L || (l.contains L && f L)) := by
    intro l
    induction l with
    | nil => intro m _; simp
    | cons x r ih =>
      intro m hx
      have hx' : x < 48 := hx x (by simp)
      rw [List.foldl_cons, ih _ (fun y hy => hx y (by simp [hy]))]
      by_cases hf : f x = true
      · by_cases hL : L = x
        · subst hL; rw [if_pos hf, BitVec.getLsbD_or, lane_bit L L hx']; simp [hf]
        · rw [if_pos hf, BitVec.getLsbD_or, lane_bit x L hx']; simp [hL]
      · by_cases hL : L = x
        · subst hL; simp [hf]
        · simp [hf, hL]
  have := key allLanes 0 (by simp [allLanes])
  rw [maskOf, this]
  have : L ∈ allLanes := by simp [allLanes, h]
  simp [this]

theorem maskOf_getLsbD (f : Nat → Bool) (L : Nat) : (maskOf f).getLsbD L = (decide (L < 48) && f L) := by
  by_cases h : L < 48
  · rw [maskOf_lane f L h, decide_eq_true h, Bool.true_and]
  · simp [h, BitVec.getLsbD_of_ge (maskOf f) L (by omega)]

/-- The mask made from a mask's own bits is the mask. -/
@[simp] theorem maskOf_self (m : Lanes) : maskOf (fun L => laneIn m L) = m := by
  apply BitVec.eq_of_getLsbD_eq
  intro i hi
  rw [maskOf_lane _ _ hi]

theorem mem_lanesOf_maskOf (f : Nat → Bool) (L : Nat) : L ∈ lanesOf (maskOf f) ↔ L < 48 ∧ f L = true := by
  rw [mem_lanesOf]
  constructor
  · rintro ⟨h, h'⟩; exact ⟨h, by rwa [maskOf_lane f L h] at h'⟩
  · rintro ⟨h, h'⟩; exact ⟨h, by rwa [maskOf_lane f L h]⟩

theorem lanesOf_nodup (m : Lanes) : (lanesOf m).Nodup := by
  have h : allLanes.Nodup := by simp [allLanes, List.nodup_range]
  exact h.filter _

theorem setLane_getLsbD (m : Lanes) (L i : Nat) (b : Bool) (h : L < 48) :
    (setLane m L b).getLsbD i = if i = L then b else m.getLsbD i := by
  unfold setLane
  cases b
  · simp only [Bool.false_eq_true, if_false, BitVec.getLsbD_and, BitVec.getLsbD_not, lane_bit L i h]
    by_cases hi : i = L
    · simp [hi, h]
    · by_cases h48 : i < 48
      · simp [hi, h48]
      · simp [hi, h48, BitVec.getLsbD_of_ge m i (by omega)]
  · simp only [if_true, BitVec.getLsbD_or, lane_bit L i h]
    by_cases hi : i = L <;> simp [hi]

end Sys2Proof
end

