-- ==== Sys2Proof/Laws/Ops.lean ====
section
/-! SUPPORT. What the operations shared by the meanings do: a per-thread, a wave-level and a member-masked instruction that
neither waits nor faults, the operand checks, the writes of vector registers. -/

namespace Sys2Proof.Machine

open Sys2Proof

/-! ### Nothing to hold, nothing to settle -/

@[simp] theorem lanesOf_zero : lanesOf 0#48 = [] := by decide

@[simp] theorem Wave.setPcs_none (w : Wave) (a : Nat) : w.setPcs 0#48 a = w := by simp [Wave.setPcs]

@[simp] theorem State.hold_none (s : State) : s.hold 0#48 = s := by simp [State.hold]

theorem maskOf_false : maskOf (fun _ => false) = 0#48 := by decide

@[simp] theorem stopLanes_nil (p : Stop → Bool) : stopLanes p [] = 0#48 := by
  simpa [stopLanes] using maskOf_false

@[simp] theorem State.settle_nil (s : State) (lv : Bool) : s.settle lv [] = s := by
  simp [State.settle, State.wantAll, State.takeFaults]

/-! ### The three kinds of instruction -/

@[simp] theorem Wave.count_zero (w : Wave) : w.count 0 = w := by
  have : clkOf w.wclk.toNat = w.wclk := by
    have := w.wclk.isLt
    simp only [clkOf]
    rw [Nat.min_eq_left (by omega)]
    simp
  simp [Wave.count, this]

theorem lanesOf_eq_of_mask (m : Lanes) : lanesOf (maskOf fun L => laneIn m L) = lanesOf m := by simp

/-- A lane whose guarding predicate is known is stopped only by its own checks, and only when its guard is true. -/
theorem State.laneStop_of_known (s : State) (h : Hdr) (chk : Nat → Option Stop) (L : Nat)
    (hg : s.guardKnown h = true) (hL : L ∈ lanesOf s.cur.lanes) :
    s.laneStop h chk L = if h.guard s.pre L then chk L else none := by
  have := List.all_eq_true.mp hg L hL
  simp only [List.all_cons, List.all_nil, Bool.and_true, Bool.or_eq_true, beq_iff_eq, Bool.not_eq_true'] at this
  unfold State.laneStop
  rcases this with h7 | h7 <;> simp [h7]

/-- A per-thread instruction that no lane's check stops: it takes effect in the lanes that perform, and every
thread issued counts in `wclk`. -/
theorem perThread_performs (h : Hdr) (s : State) (chk : Nat → Option Stop) (eff : Lanes → State → State)
    (hg : s.guardKnown h = true) (hc : ∀ L ∈ lanesOf (s.performers h), chk L = none) :
    perThread h s chk eff =
      (eff (s.performers h) s).setW ((eff (s.performers h) s).wv.count (countLanes s.cur.lanes)) := by
  have hn : ∀ L ∈ lanesOf s.cur.lanes, s.laneStop h chk L = none := by
    intro L hL
    rw [State.laneStop_of_known s h chk L hg hL]
    split
    · rename_i hgd
      refine hc L ((mem_lanesOf_maskOf _ L).mpr ⟨((mem_lanesOf _ L).mp hL).1, ?_⟩)
      simp [State.performs, hgd, ((mem_lanesOf _ L).mp hL).2]
    · rfl
  have h1 : (lanesOf s.cur.lanes).filterMap (fun L => (s.laneStop h chk L).map (fun x => (L, x))) = [] := by
    rw [List.filterMap_eq_nil_iff]; intro L hL; simp [hn L hL]
  have h2 : ∀ L, (laneIn s.cur.lanes L && h.guard s.pre L && (s.laneStop h chk L).isNone) = s.performs h L := by
    intro L
    by_cases hL : laneIn s.cur.lanes L = true
    · have hlt : L < 48 := by
        rcases Nat.lt_or_ge L 48 with h | hge
        · exact h
        · simp [laneIn, BitVec.getLsbD_of_ge _ _ hge] at hL
      simp [State.performs, hn L ((mem_lanesOf _ L).mpr ⟨hlt, hL⟩)]
    · simp [State.performs, hL]
  unfold perThread perThreadBy
  simp only [h1, List.any_nil, Bool.and_false, Bool.false_eq_true, if_false, h2, State.settle_nil]
  rw [List.filter_eq_self.mpr (fun L hL => by rw [hn L hL])]
  rfl

/-- A wave-level instruction at which every live thread stands and which no check stops. -/
theorem waveLevel_performs (s : State) (eff : State → State) (hl : s.cur.lanes = s.pre.live)
    (hp : (eff s).pre = s.pre) :
    waveLevel s none eff = (eff s).setW ((eff s).wv.count (countLanes s.pre.live)) := by
  simp [waveLevel, waveRaw, hl, State.countLive, hp]

/-- A member-masked instruction with no effective member, which no check faults, writes nothing. -/
theorem memberMasked_empty (h : Hdr) (s : State) (chk : Option Stop) (eff : Lanes → State → State) (h0 : h.members s.pre = 0)
    (hc : chk.filter Stop.isFault = none) : memberMasked h s chk eff = s := by simp [memberMasked, h0, hc]

/-- A member-masked instruction all of whose effective members are issued and which no check stops. -/
theorem memberMasked_performs (h : Hdr) (s : State) (eff : Lanes → State → State) (h0 : h.members s.pre ≠ 0)
    (hm : h.members s.pre &&& s.cur.lanes = h.members s.pre) :
    memberMasked h s none eff =
      (eff (h.members s.pre) s).setW ((eff (h.members s.pre) s).wv.count (countLanes (h.members s.pre))) := by
  have h1 : ¬ h.members s.pre = 0#48 := h0
  simp [memberMasked, hm, h1]

/-! ### The operand checks -/

theorem boundsCheck_none (w : Wave) (ops : List VOp) (h : inBounds w ops = true) : boundsCheck w ops = none := by
  induction ops with
  | nil => rfl
  | cons o r ih =>
    simp only [inBounds, List.all_cons, Bool.and_eq_true, decide_eq_true_eq] at h
    have hb : o.beyond w.vregs = none := by simp [VOp.beyond]; omega
    simp only [boundsCheck, hb]
    exact ih (by simpa [inBounds] using h.2)

theorem srcTest_none (w : Wave) (L : Nat) (o : VOp) (h : o.full w L = true) : srcTest w L o = none := by
  have : o.regs.filter (fun r => w.isEmpty r L) = [] := by
    rw [List.filter_eq_nil_iff]; intro r hr
    have := List.all_eq_true.mp h r hr
    simpa using this
  simp [srcTest, this, faultFirst, firstStop]

theorem firstStop_none (l : List (Option Stop)) (h : ∀ x ∈ l, x = none) : firstStop l = none := by
  induction l with
  | nil => rfl
  | cons a r ih =>
    have ha := h a (by simp)
    subst ha
    exact ih (fun x hx => h x (by simp [hx]))

theorem faultFirst_none (l : List (Option Stop)) (h : ∀ x ∈ l, x = none) : faultFirst l = none := by
  have h1 : firstStop (l.filter (fun x => (x.map Stop.isFault).getD false)) = none :=
    firstStop_none _ (fun x hx => h x (List.mem_filter.mp hx).1)
  rw [faultFirst, h1]
  exact firstStop_none l h

theorem srcsTest_none (w : Wave) (L : Nat) (srcs : List VOp) (h : srcs.all (fun o => o.full w L) = true) :
    srcsTest w L srcs = none := by
  refine faultFirst_none _ fun x hx => ?_
  obtain ⟨o, ho, rfl⟩ := List.mem_map.mp hx
  exact srcTest_none w L o (List.all_eq_true.mp h o ho)

theorem dstWaits_false (w : Wave) (L : Nat) (o : VOp) (h : o.free w L = true) : dstWaits w L o = false := by
  rw [dstWaits, List.any_eq_false]
  intro r hr
  have := List.all_eq_true.mp h r hr
  rcases hm : w.marked r L with _ | a <;> simp_all

theorem opCheck_none (w : Wave) (L : Nat) (dsts srcs : List VOp) (hb : inBounds w (dsts ++ srcs) = true)
    (hs : srcs.all (fun o => o.full w L) = true) (hd : dsts.all (fun o => o.free w L) = true) :
    opCheck w L dsts srcs = none := by
  have h3 : dsts.any (dstWaits w L) = false := by
    rw [List.any_eq_false]; intro o ho
    simp [dstWaits_false w L o (List.all_eq_true.mp hd o ho)]
  simp [opCheck, boundsCheck_none w _ hb, srcsTest_none w L srcs hs, h3, firstStop, await]

theorem predCheck_none (w : Wave) (m : Lanes) (L : Nat) (ps : List (BitVec 3)) (h : predsKnown w m ps = true)
    (hL : L ∈ lanesOf m) : predCheck w L ps = none := by
  have h1 := List.all_eq_true.mp (List.all_eq_true.mp h L hL)
  have : ps.any (fun p => p != 7 && w.predAwaited p L) = false := by
    rw [List.any_eq_false]; intro p hp
    have := h1 p hp
    simp only [Bool.or_eq_true, beq_iff_eq, Bool.not_eq_true'] at this
    rcases this with h | h <;> simp [h]
  rw [predCheck, this]; rfl

theorem predsReady_none (w : Wave) (m : Lanes) (ps : List (BitVec 3)) (h : predsKnown w m ps = true) :
    predsReady w m ps = none := by
  apply firstStop_none
  intro x hx
  obtain ⟨L, hL, rfl⟩ := List.mem_map.mp hx
  exact predCheck_none w m L ps h hL

/-- What `State.ready` gives of a lane that performs. -/
theorem State.ready_lane {s : State} {h : Hdr} {dsts srcs : List VOp} {ps : List (BitVec 3)}
    (hr : s.ready h dsts srcs ps = true) :
    s.guardKnown h = true ∧ ∀ L ∈ lanesOf (s.performers h),
      boundsCheck s.pre (dsts ++ srcs) = none ∧ opCheck s.pre L dsts srcs = none ∧ predCheck s.pre L ps = none := by
  simp only [State.ready, Bool.and_eq_true] at hr
  refine ⟨hr.1.1, fun L hL => ?_⟩
  have h1 := List.all_eq_true.mp hr.2 L hL
  simp only [Bool.and_eq_true] at h1
  exact ⟨boundsCheck_none _ _ h1.1.1, opCheck_none _ _ _ _ h1.1.1 h1.1.2 h1.2, predCheck_none _ _ _ _ hr.1.2 hL⟩

/-- What `State.membersReady` gives. -/
theorem State.membersReady_check {s : State} {h : Hdr} {dsts srcs : List VOp} (hr : s.membersReady h dsts srcs = true) :
    h.members s.pre &&& s.cur.lanes = h.members s.pre ∧ crossCheck s.pre (h.members s.pre) dsts srcs = none := by
  simp only [State.membersReady, Bool.and_eq_true, decide_eq_true_eq] at hr
  obtain ⟨⟨hm, hb⟩, ha⟩ := hr
  refine ⟨hm, ?_⟩
  have hl : ∀ L ∈ lanesOf (h.members s.pre), srcsTest s.pre L srcs = none ∧ dsts.any (dstWaits s.pre L) = false := by
    intro L hL
    have h1 := List.all_eq_true.mp ha L hL
    simp only [Bool.and_eq_true] at h1
    refine ⟨srcsTest_none _ _ _ h1.1, ?_⟩
    rw [List.any_eq_false]; intro o ho
    simp [dstWaits_false _ L o (List.all_eq_true.mp h1.2 o ho)]
  have hmt : memberTest s.pre (lanesOf (h.members s.pre)) srcs = none := by
    have hall : ∀ x ∈ (lanesOf (h.members s.pre)).map (fun L => srcsTest s.pre L srcs), x = none := by
      intro x hx; obtain ⟨L, hL, rfl⟩ := List.mem_map.mp hx; exact (hl L hL).1
    have hf : faultFirst ((lanesOf (h.members s.pre)).map (fun L => srcsTest s.pre L srcs)) = none := by
      unfold faultFirst
      rw [firstStop_none (List.filter _ _) (fun x hx => hall x ((List.mem_filter.mp hx).1))]
      exact firstStop_none _ hall
    simp [memberTest, hf]
  have hany : (lanesOf (h.members s.pre)).any (fun L => dsts.any (dstWaits s.pre L)) = false := by
    rw [List.any_eq_false]; intro L hL; simp [(hl L hL).2]
  simp [crossCheck, boundsCheck_none _ _ hb, hmt, hany, firstStop, await]

/-! ### Writing vector registers -/

theorem Wave.markFull_fields (w : Wave) (r L n : Nat) :
    w.markFull r L n = { w with empty := (w.markFull r L n).empty } := by
  induction n generalizing w r with
  | zero => rfl
  | succ n ih => rw [Wave.markFull, ih]

theorem Wave.isEmpty_markFull (w : Wave) (r L n q M : Nat) (hL : L < 48) :
    (w.markFull r L n).isEmpty q M = (w.isEmpty q M && !(decide (M = L) && decide (r ≤ q) && decide (q < r + n))) := by
  induction n generalizing w r with
  | zero => simp [Wave.markFull]; omega
  | succ n ih =>
    rw [Wave.markFull, ih]
    simp only [Wave.isEmpty, laneIn, Tab.get_upd]
    by_cases hq : q = r
    · subst hq
      simp only [if_true, setLane_getLsbD _ _ _ _ hL]
      by_cases hML : M = L
      · subst hML; simp
      · simp [hML]
    · simp only [hq, if_false]
      have : (decide (r + 1 ≤ q) && decide (q < r + 1 + n)) = (decide (r ≤ q) && decide (q < r + (n + 1))) := by
        rw [Bool.eq_iff_iff]; simp; omega
      rw [Bool.and_assoc, this, ← Bool.and_assoc]

theorem Wave.clearMark_fields (w : Wave) (r L : Nat) :
    w.clearMark r L = { w with empty := (w.clearMark r L).empty, slots := (w.clearMark r L).slots } := by
  unfold Wave.clearMark
  split
  · rfl
  · rw [Wave.markFull_fields]; rfl

theorem Wave.clearMark_isEmpty_other (w : Wave) (r L q M : Nat) (hL : L < 48) (hne : M ≠ L) :
    (w.clearMark r L).isEmpty q M = w.isEmpty q M := by
  unfold Wave.clearMark
  split
  · rfl
  · show ((w.markFull _ L _).isEmpty q M) = _
    rw [Wave.isEmpty_markFull _ _ _ _ _ _ hL]; simp [hne]

theorem Wave.clearMark_full (w : Wave) (r L q M : Nat) (hL : L < 48) (h : w.isEmpty q M = false) :
    (w.clearMark r L).isEmpty q M = false := by
  unfold Wave.clearMark
  split
  · exact h
  · show ((w.markFull _ L _).isEmpty q M) = _
    rw [Wave.isEmpty_markFull _ _ _ _ _ _ hL, h]; rfl

theorem Wave.clearMark_self (w : Wave) (r L : Nat) (hL : L < 48)
    (h : w.isEmpty r L = false ∨ (w.marked r L).isSome = true) : (w.clearMark r L).isEmpty r L = false := by
  rcases h with h | h
  · exact Wave.clearMark_full w r L r L hL h
  · unfold Wave.clearMark
    split
    · rename_i hf
      unfold Wave.marked at h
      rw [hf] at h
      split at h <;> simp at h
    · rename_i i sl hf
      show ((w.markFull _ L _).isEmpty r L) = _
      rw [Wave.isEmpty_markFull _ _ _ _ _ _ hL]
      have := List.find?_some hf
      simp only [Slot.covers, Bool.and_eq_true, decide_eq_true_eq] at this
      simp [this.1.1.2, this.1.2]

theorem Wave.marked_isSome (w : Wave) (q M : Nat) :
    (w.marked q M).isSome = true ↔ w.isEmpty q M = true ∧ ∃ e ∈ w.slots, e.2.covers q = true ∧ laneIn e.2.err M = true := by
  unfold Wave.marked
  rcases w.isEmpty q M with _ | _
  · simp
  · simp [List.find?_isSome]

/-- A mark of a register that is still empty survives the clearing of another, in a canonical slot table. -/
theorem Wave.clearMark_marked (w : Wave) (r L q M : Nat) (hL : L < 48) (he : (w.clearMark r L).isEmpty q M = true)
    (h : (w.marked q M).isSome = true ∧ Tab.wf w.slots {} = true) :
    ((w.clearMark r L).marked q M).isSome = true ∧ Tab.wf (w.clearMark r L).slots {} = true := by
  obtain ⟨hm, hwf⟩ := h
  obtain ⟨_, e, hes, hcov, herr⟩ := (Wave.marked_isSome w q M).mp hm
  rw [Wave.marked_isSome]
  unfold Wave.clearMark at he ⊢
  split at he
  · exact ⟨⟨he, e, hes, hcov, herr⟩, hwf⟩
  · rename_i i sl hf
    have hslots : ∀ x : Slot, ((w.markFull sl.reg L sl.span).setSlot i x).slots = w.slots.set i x {} := by
      intro x; rw [Wave.markFull_fields]; rfl
    have hwf' : ∀ x : Slot, Tab.wf ((w.markFull sl.reg L sl.span).setSlot i x).slots {} = true := by
      intro x; rw [hslots]; exact Tab.wf_set _ _ _ _ hwf
    refine ⟨⟨he, ?_⟩, hwf' _⟩
    rw [hslots]
    by_cases hei : e.1 = i
    · have heq : e = (i, sl) := Tab.wf_unique _ _ hwf e (i, sl) hes (List.mem_of_find?_eq_some hf) hei
      subst heq
      have hML : M ≠ L := by
        intro h; subst h
        have he2 : ((w.markFull sl.reg M sl.span).isEmpty q M) = true := he
        rw [Wave.isEmpty_markFull _ _ _ _ _ _ hL] at he2
        simp only [Slot.covers, Bool.and_eq_true, decide_eq_true_eq] at hcov
        simp [hcov.1.2, hcov.2] at he2
      have hbit : laneIn (setLane sl.err L false) M = true := by
        rw [laneIn, setLane_getLsbD _ _ _ _ hL]; simpa [hML] using herr
      have hne : setLane sl.err L false ≠ 0 := by
        intro h; rw [h] at hbit; simp [laneIn] at hbit
      have ht : ({ sl with err := setLane sl.err L false, errAddr := sl.errAddr.erase L } : Slot).tidy =
          { sl with err := setLane sl.err L false, errAddr := sl.errAddr.erase L } := by
        unfold Slot.tidy; exact if_neg (fun h => hne (by simp_all))
      refine ⟨(i, _), Tab.mem_set_self _ _ _ _ ?_, ?_, ?_⟩
      · rw [ht]; intro h; exact hne (congrArg Slot.err h)
      · rw [ht]; exact hcov
      · rw [ht]; exact hbit
    · exact ⟨e, Tab.mem_set_of_mem _ _ _ _ _ hes hei, hcov, herr⟩

theorem Wave.clearMark_none (w : Wave) (r L : Nat) (h : w.slots.all (fun e => e.2.err == 0) = true) : w.clearMark r L = w := by
  unfold Wave.clearMark
  have : w.slots.find? (fun e => e.2.covers r && laneIn e.2.err L) = none := by
    rw [List.find?_eq_none]; intro e he
    have := List.all_eq_true.mp h e he
    simp only [beq_iff_eq] at this
    simp [this]
  rw [this]

theorem lanesOf_single (L : Nat) (hL : L < 48) : lanesOf (BitVec.ofNat 48 (2 ^ L)) = [L] := by
  have : ∀ L : Fin 48, lanesOf (BitVec.ofNat 48 (2 ^ L.val)) = [L.val] := by decide
  exact this ⟨L, hL⟩

/-- Clearing the marks of a span in one lane. -/
theorem Wave.clearMarks_one (w : Wave) (r L n : Nat) (hL : L < 48) :
    (w.clearMarks r (BitVec.ofNat 48 (2 ^ L)) n = { w with
      empty := (w.clearMarks r (BitVec.ofNat 48 (2 ^ L)) n).empty
      slots := (w.clearMarks r (BitVec.ofNat 48 (2 ^ L)) n).slots }) ∧
    (∀ q M, M ≠ L → (w.clearMarks r (BitVec.ofNat 48 (2 ^ L)) n).isEmpty q M = w.isEmpty q M) ∧
    (∀ q M, w.isEmpty q M = false → (w.clearMarks r (BitVec.ofNat 48 (2 ^ L)) n).isEmpty q M = false) ∧
    (w.slots.all (fun e => e.2.err == 0) = true → w.clearMarks r (BitVec.ofNat 48 (2 ^ L)) n = w) := by
  induction n generalizing w r with
  | zero => exact ⟨rfl, fun _ _ _ => rfl, fun _ _ h => h, fun _ => rfl⟩
  | succ n ih =>
    have hs : w.clearMarks r (BitVec.ofNat 48 (2 ^ L)) (n + 1) =
        (w.clearMark r L).clearMarks (r + 1) (BitVec.ofNat 48 (2 ^ L)) n := by
      rw [Wave.clearMarks, lanesOf_single L hL]; rfl
    rw [hs]
    obtain ⟨h1, h2, h3, h4⟩ := ih (w.clearMark r L) (r + 1)
    refine ⟨?_, ?_, ?_, ?_⟩
    · rw [h1, Wave.clearMark_fields]
    · intro q M hne; rw [h2 q M hne, Wave.clearMark_isEmpty_other _ _ _ _ _ hL hne]
    · intro q M h; exact h3 q M (Wave.clearMark_full _ _ _ _ _ hL h)
    · intro h
      rw [Wave.clearMark_none w r L h] at h4 ⊢
      exact h4 h

/-- A span whose registers are full or marked in a lane is full there after its marks are cleared. -/
theorem Wave.clearMarks_self (w : Wave) (r L n q : Nat) (hL : L < 48) (hq : r ≤ q ∧ q < r + n)
    (h : w.isEmpty q L = false ∨ ((w.marked q L).isSome = true ∧ Tab.wf w.slots {} = true)) :
    (w.clearMarks r (BitVec.ofNat 48 (2 ^ L)) n).isEmpty q L = false := by
  induction n generalizing w r with
  | zero => omega
  | succ n ih =>
    have hs : w.clearMarks r (BitVec.ofNat 48 (2 ^ L)) (n + 1) =
        (w.clearMark r L).clearMarks (r + 1) (BitVec.ofNat 48 (2 ^ L)) n := by
      rw [Wave.clearMarks, lanesOf_single L hL]; rfl
    rw [hs]
    obtain ⟨_, _, h3, _⟩ := Wave.clearMarks_one (w.clearMark r L) (r + 1) L n hL
    by_cases hqr : q = r
    · subst hqr; exact h3 q L (Wave.clearMark_self w q L hL (h.imp id And.left))
    · by_cases he : (w.clearMark r L).isEmpty q L = false
      · exact h3 q L he
      · refine ih (w.clearMark r L) (r + 1) (by omega) (.inr ?_)
        have he' : (w.clearMark r L).isEmpty q L = true := by simpa using he
        have hw : w.isEmpty q L = true := by
          rcases hb : w.isEmpty q L with _ | _
          · rw [Wave.clearMark_full w r L q L hL hb] at he'; cases he'
          · rfl
        have hm : (w.marked q L).isSome = true ∧ Tab.wf w.slots {} = true := by
          rcases h with h | h
          · rw [hw] at h; cases h
          · exact h
        exact Wave.clearMark_marked w r L q L hL he' hm

/-- Marks of registers that are still empty survive the clearing of a span in one lane. -/
theorem Wave.clearMarks_marked (w : Wave) (r L n q M : Nat) (hL : L < 48)
    (he : (w.clearMarks r (BitVec.ofNat 48 (2 ^ L)) n).isEmpty q M = true)
    (h : (w.marked q M).isSome = true ∧ Tab.wf w.slots {} = true) :
    ((w.clearMarks r (BitVec.ofNat 48 (2 ^ L)) n).marked q M).isSome = true ∧
      Tab.wf (w.clearMarks r (BitVec.ofNat 48 (2 ^ L)) n).slots {} = true := by
  induction n generalizing w r with
  | zero => exact h
  | succ n ih =>
    have hs : w.clearMarks r (BitVec.ofNat 48 (2 ^ L)) (n + 1) =
        (w.clearMark r L).clearMarks (r + 1) (BitVec.ofNat 48 (2 ^ L)) n := by
      rw [Wave.clearMarks, lanesOf_single L hL]; rfl
    rw [hs] at he ⊢
    refine ih (w.clearMark r L) (r + 1) he (Wave.clearMark_marked w r L q M hL ?_ h)
    obtain ⟨_, _, h3, _⟩ := Wave.clearMarks_one (w.clearMark r L) (r + 1) L n hL
    rcases hb : (w.clearMark r L).isEmpty q M with _ | _
    · rw [h3 q M hb] at he; cases he
    · rfl

@[simp] theorem Wave.setV_vreg (w : Wave) (r L q M : Nat) (x : W32) (hL : L < 48) (hM : M < 48) :
    (w.setV r L x).vreg q M = if M = L ∧ q = r then x else w.vreg q M := by
  simp only [Wave.setV, Wave.vreg, Tab.get_set]
  have : (q * 48 + M = r * 48 + L) ↔ (M = L ∧ q = r) := by omega
  simp [this]

theorem Wave.setSpan_fields (w : Wave) (r L : Nat) (xs : List W32) :
    w.setSpan r L xs = { w with v := (w.setSpan r L xs).v } := by
  induction xs generalizing w r with
  | nil => rfl
  | cons x xs ih => rw [Wave.setSpan, ih]; rfl

theorem Wave.setSpan_vreg (w : Wave) (r L q M : Nat) (xs : List W32) (hL : L < 48) (hM : M < 48) :
    (w.setSpan r L xs).vreg q M = if M = L ∧ r ≤ q ∧ q < r + xs.length then xs.getD (q - r) 0 else w.vreg q M := by
  induction xs generalizing w r with
  | nil => rw [if_neg (fun h => absurd h.2 (by simp))]; rfl
  | cons x xs ih =>
    rw [Wave.setSpan, ih, Wave.setV_vreg _ _ _ _ _ _ hL hM]
    by_cases hML : M = L
    · by_cases hqr : q = r
      · subst hqr; subst hML
        rw [if_neg (by omega), if_pos ⟨rfl, rfl⟩, if_pos (by simp)]; simp
      · by_cases h1 : r + 1 ≤ q ∧ q < r + 1 + xs.length
        · have : q - r = (q - (r + 1)) + 1 := by omega
          simp [hML, h1, this, show r ≤ q by omega, show q < r + (xs.length + 1) by omega]
        · have : ¬ (r ≤ q ∧ q < r + (xs.length + 1)) := by omega
          rw [if_neg (fun h => h1 h.2), if_neg (fun h => hqr h.2), if_neg (fun h => this h.2)]
    · simp [hML]

/-- What writing one lane of a destination does. -/
theorem Wave.put_spec (w : Wave) (L : Nat) (d : VOp) (xs : List W32) (hL : L < 48) (hx : xs.length = d.span) :
    (w.put L d xs = { w with v := (w.put L d xs).v, empty := (w.put L d xs).empty, slots := (w.put L d xs).slots }) ∧
    (∀ r M, M < 48 → (w.put L d xs).vreg r M =
      if M = L ∧ d.reg ≤ r ∧ r < d.reg + d.span then xs.getD (r - d.reg) 0 else w.vreg r M) ∧
    (∀ r, d.reg ≤ r → r < d.reg + d.span → (w.isEmpty r L = false ∨ ((w.marked r L).isSome = true ∧ Tab.wf w.slots {} = true)) →
      (w.put L d xs).isEmpty r L = false) ∧
    (∀ r M, w.isEmpty r M = false → (w.put L d xs).isEmpty r M = false) ∧
    (∀ r M, M ≠ L → (w.put L d xs).isEmpty r M = w.isEmpty r M) ∧
    (w.slots.all (fun e => e.2.err == 0) = true →
      (w.put L d xs).empty = w.empty ∧ (w.put L d xs).slots = w.slots) := by
  obtain ⟨h1, h2, h3, h4⟩ := Wave.clearMarks_one w d.reg L d.span hL
  have he : (w.put L d xs).empty = (w.clearMarks d.reg (BitVec.ofNat 48 (2 ^ L)) d.span).empty := by
    rw [Wave.put, Wave.setSpan_fields]
  have hie : ∀ r M, (w.put L d xs).isEmpty r M = (w.clearMarks d.reg (BitVec.ofNat 48 (2 ^ L)) d.span).isEmpty r M := by
    intro r M; simp only [Wave.isEmpty, he]
  refine ⟨?_, ?_, ?_, ?_, ?_, ?_⟩
  · rw [Wave.put, Wave.setSpan_fields, h1]
  · intro r M hM
    rw [Wave.put, Wave.setSpan_vreg _ _ _ _ _ _ hL hM, hx, h1]; rfl
  · intro r hr1 hr2 h; rw [hie]; exact Wave.clearMarks_self w d.reg L d.span r hL ⟨hr1, hr2⟩ h
  · intro r M h; rw [hie]; exact h3 r M h
  · intro r M h; rw [hie]; exact h2 r M h
  · intro h
    refine ⟨?_, ?_⟩
    · rw [he, h4 h]
    · rw [Wave.put, Wave.setSpan_fields, h4 h]

theorem Wave.put_marked (w : Wave) (L : Nat) (d : VOp) (xs : List W32) (r M : Nat) (hL : L < 48)
    (he : (w.put L d xs).isEmpty r M = true) (h : (w.marked r M).isSome = true ∧ Tab.wf w.slots {} = true) :
    ((w.put L d xs).marked r M).isSome = true ∧ Tab.wf (w.put L d xs).slots {} = true := by
  rw [Wave.put, Wave.setSpan_fields] at he ⊢
  exact Wave.clearMarks_marked w d.reg L d.span r M hL he h

/-- What writing a destination in several lanes does. -/
theorem Wave.puts_spec (ls : List Nat) (w : Wave) (d : VOp) (f : Nat → List W32) (hl : ∀ L ∈ ls, L < 48)
    (hx : ∀ L ∈ ls, (f L).length = d.span) :
    (ls.foldl (fun w L => w.put L d (f L)) w = { w with
      v := (ls.foldl (fun w L => w.put L d (f L)) w).v
      empty := (ls.foldl (fun w L => w.put L d (f L)) w).empty
      slots := (ls.foldl (fun w L => w.put L d (f L)) w).slots }) ∧
    (∀ r M, M < 48 → (ls.foldl (fun w L => w.put L d (f L)) w).vreg r M =
      if M ∈ ls ∧ d.reg ≤ r ∧ r < d.reg + d.span then (f M).getD (r - d.reg) 0 else w.vreg r M) ∧
    (∀ r M, M ∈ ls → d.reg ≤ r → r < d.reg + d.span → (w.isEmpty r M = false ∨ ((w.marked r M).isSome = true ∧ Tab.wf w.slots {} = true)) →
      (ls.foldl (fun w L => w.put L d (f L)) w).isEmpty r M = false) ∧
    (∀ r M, M ∉ ls → (ls.foldl (fun w L => w.put L d (f L)) w).isEmpty r M = w.isEmpty r M) ∧
    (∀ r M, w.isEmpty r M = false → (ls.foldl (fun w L => w.put L d (f L)) w).isEmpty r M = false) ∧
    (w.slots.all (fun e => e.2.err == 0) = true →
      (ls.foldl (fun w L => w.put L d (f L)) w).empty = w.empty ∧
      (ls.foldl (fun w L => w.put L d (f L)) w).slots = w.slots) := by
  induction ls generalizing w with
  | nil => exact ⟨rfl, by simp, by simp, by simp, fun _ _ h => h, fun _ => ⟨rfl, rfl⟩⟩
  | cons L ls ih =>
    obtain ⟨p1, p2, p3, p4, p5, p6⟩ := Wave.put_spec w L d (f L) (hl L (by simp)) (hx L (by simp))
    obtain ⟨i1, i2, i3, i4, i5, i6⟩ := ih (w.put L d (f L)) (fun M h => hl M (by simp [h])) (fun M h => hx M (by simp [h]))
    simp only [List.foldl_cons]
    refine ⟨?_, ?_, ?_, ?_, ?_, ?_⟩
    · rw [i1, p1]
    · intro r M hM
      rw [i2 r M hM, p2 r M hM]
      by_cases hML : M = L
      · subst hML; by_cases hr : d.reg ≤ r ∧ r < d.reg + d.span <;> simp [hr]
      · simp [hML]
    · intro r M hM hr1 hr2 h
      by_cases hML : M = L
      · subst hML; exact i5 r M (p3 r hr1 hr2 h)
      · have hin : M ∈ ls := by simpa [hML] using hM
        rcases h with h | h
        · exact i5 r M (p4 r M h)
        · rcases hb : (w.put L d (f L)).isEmpty r M with _ | _
          · exact i5 r M hb
          · exact i3 r M hin hr1 hr2 (.inr (Wave.put_marked w L d (f L) r M (hl L (by simp)) hb h))
    · intro r M hM
      have : M ≠ L := fun h => hM (by simp [h])
      rw [i4 r M (fun h => hM (by simp [h])), p5 r M this]
    · intro r M h; exact i5 r M (p4 r M h)
    · intro h
      obtain ⟨q1, q2⟩ := p6 h
      obtain ⟨j1, j2⟩ := i6 (by rw [q2]; exact h)
      exact ⟨j1.trans q1, j2.trans q2⟩

/-! ### Instructions that write registers -/

theorem Wave.count_isEmpty (w : Wave) (n r L : Nat) : (w.count n).isEmpty r L = w.isEmpty r L := rfl

/-- Writes of a destination in the lanes of a mask, counted, are what `State.VecWritten` says. -/
theorem State.puts_written (s : State) (m : Lanes) (d : VOp) (f : Nat → List W32) (n : Nat)
    (hx : ∀ L ∈ lanesOf m, (f L).length = d.span) :
    s.VecWritten m d f n
      (s.setW (((lanesOf m).foldl (fun w L => w.put L d (f L)) s.wv).count n)) := by
  have hl : ∀ L ∈ lanesOf m, L < 48 := fun L h => ((mem_lanesOf m L).mp h).1
  obtain ⟨h1, h2, h3, h4, _, h6⟩ := Wave.puts_spec (lanesOf m) s.wv d f hl hx
  refine ⟨?_, ?_, ?_, ?_, ?_⟩
  · show ({ s with wv := Wave.count _ n } : State) = _
    congr 1
    show ({ (List.foldl (fun w L => w.put L d (f L)) s.wv (lanesOf m)) with wclk := _ } : Wave) = _
    have hc : (List.foldl (fun w L => w.put L d (f L)) s.wv (lanesOf m)).wclk = s.wv.wclk := by rw [h1]
    rw [hc, h1]
    rfl
  · intro r L hL
    show (List.foldl (fun w L => w.put L d (f L)) s.wv (lanesOf m)).vreg r L = _
    rw [h2 r L hL]
    simp [mem_lanesOf, hL]
  · intro r L hm hr1 hr2 h
    have hL : L < 48 := by
      rcases Nat.lt_or_ge L 48 with h | hge
      · exact h
      · simp [laneIn, BitVec.getLsbD_of_ge _ _ hge] at hm
    exact h3 r L ((mem_lanesOf m L).mpr ⟨hL, hm⟩) hr1 hr2 h
  · intro r L hL hm
    exact h4 r L (fun h => by rw [laneIn] at hm; rw [((mem_lanesOf m L).mp h).2] at hm; cases hm)
  · intro h; exact h6 h

/-- A per-thread instruction that computes vector registers. -/
theorem vecOp_written (h : Hdr) (s : State) (d : VOp) (srcs : List VOp) (f : Nat → List W32)
    (hr : s.ready h [d] srcs [] = true) (hx : ∀ L, (f L).length = d.span) :
    s.VecWritten (s.performers h) d f (countLanes s.cur.lanes) (vecOp h s d srcs f) := by
  obtain ⟨hg, hc⟩ := State.ready_lane hr
  unfold vecOp
  rw [perThread_performs h s _ _ hg (fun L hL => (hc L hL).2.1)]
  exact State.puts_written s _ d f _ (fun L _ => hx L)

theorem Wave.setSdi_fields (w : Wave) (L : Nat) (x : W32) : w.setSdi L x = { w with sdi := w.sdi.set L x 0 } := rfl

/-- `sdi` of every lane of a list without repeats goes up by one, and nothing else changes. -/
theorem Wave.bumpSdi_spec (w : Wave) (m : Lanes) :
    w.bumpSdi m = { w with sdi := (w.bumpSdi m).sdi } ∧
    ∀ L, (w.bumpSdi m).sdiOf L = if L ∈ lanesOf m then w.sdiOf L + 1 else w.sdiOf L := by
  unfold Wave.bumpSdi
  have hnd := lanesOf_nodup m
  generalize lanesOf m = ls at hnd
  induction ls generalizing w with
  | nil => exact ⟨rfl, fun L => by simp⟩
  | cons K ls ih =>
    obtain ⟨h1, h2⟩ := ih (w.setSdi K (w.sdiOf K + 1)) (List.nodup_cons.mp hnd).2
    have hK := (List.nodup_cons.mp hnd).1
    refine ⟨?_, fun L => ?_⟩
    · simp only [List.foldl_cons]; rw [h1]; rfl
    · simp only [List.foldl_cons]
      rw [h2 L]
      have : (w.setSdi K (w.sdiOf K + 1)).sdiOf L = if L = K then w.sdiOf K + 1 else w.sdiOf L := by
        simp [Wave.setSdi, Wave.sdiOf, Tab.get_set]
      rw [this]
      by_cases hLK : L = K
      · subst hLK; simp [hK]
      · simp [hLK]

/-- A rounding instruction. -/
theorem roundOp_written (h : Hdr) (s : State) (d : VOp) (srcs : List VOp) (f : Nat → List W32)
    (hr : s.ready h [d] srcs [] = true) (hx : ∀ L, (f L).length = d.span) :
    s.RoundWritten h d f (roundOp h s d srcs f) := by
  obtain ⟨hg, hc⟩ := State.ready_lane hr
  have hw := State.puts_written s (s.performers h) d f (countLanes s.cur.lanes) (fun L _ => hx L)
  refine ⟨_, hw, ?_⟩
  unfold roundOp
  rw [perThread_performs h s _ _ hg (fun L hL => (hc L hL).2.1)]
  by_cases hs : h.modeCode s.pre = 4
  · have hs' : stochastic h s.pre = true := by simp [stochastic, hs]
    simp only [hs, hs', if_true, State.setW_wv, State.setW_setW]
    obtain ⟨h1, h2⟩ := Wave.bumpSdi_spec
      ((lanesOf (s.performers h)).foldl (fun w L => w.put L d (f L)) s.wv) (s.performers h)
    refine ⟨?_, fun L => ?_⟩
    · rw [h1]; rfl
    · have h3 := h2 L
      have h4 : ((lanesOf (s.performers h)).foldl (fun w L => w.put L d (f L)) s.wv).sdiOf L = s.wv.sdiOf L := by
        rw [(Wave.puts_spec _ s.wv d f (fun L h => ((mem_lanesOf _ L).mp h).1) (fun L _ => hx L)).1]; rfl
      rw [h4] at h3
      have h5 : (L ∈ lanesOf (s.performers h)) ↔ laneIn (s.performers h) L = true := by
        rw [mem_lanesOf]
        refine ⟨And.right, fun hb => ⟨?_, hb⟩⟩
        rcases Nat.lt_or_ge L 48 with h | hge
        · exact h
        · simp [laneIn, BitVec.getLsbD_of_ge _ _ hge] at hb
      simp only [h5] at h3
      exact h3
  · have hs' : stochastic h s.pre = false := by simp [stochastic, hs]
    simp only [hs, hs', if_false, State.setW_wv, State.setW_setW]
    rfl

/-- A cross-lane instruction. -/
theorem crossOp_written (h : Hdr) (s : State) (d : VOp) (srcs : List VOp) (f : Lanes → Nat → List W32)
    (hr : s.membersReady h [d] srcs = true) (hx : ∀ L, (f (h.members s.pre) L).length = d.span) :
    s.VecWritten (h.members s.pre) d (f (h.members s.pre)) (countLanes (h.members s.pre)) (crossOp h s d srcs f) := by
  obtain ⟨hm, hc⟩ := State.membersReady_check hr
  have hw := State.puts_written s (h.members s.pre) d (f (h.members s.pre)) (countLanes (h.members s.pre)) (fun L _ => hx L)
  unfold crossOp
  by_cases h0 : h.members s.pre = 0
  · rw [memberMasked_empty h s _ _ h0 (by rw [hc]; rfl)]
    have hn : countLanes 0#48 = 0 := by decide
    have hs : s.setW s.wv = s := rfl
    simpa [h0, hn, hs] using hw
  · rw [hc, memberMasked_performs h s _ h0 hm]
    exact hw

theorem Wave.setPred_eq (w : Wave) (p : BitVec 3) (m x : Lanes) (n : Nat) (s : State) (hw : s.wv = w) :
    s.setW ((w.setPred p m x).count n) = s.predWritten m p x n := by
  subst hw
  unfold Wave.setPred State.predWritten
  split <;> rfl

/-- A per-thread compare. -/
theorem vecCmp_written (h : Hdr) (s : State) (p : BitVec 3) (srcs : List VOp) (f : Nat → Bool)
    (hr : s.ready h [] srcs [p] = true) :
    vecCmp h s p srcs f = s.predWritten (s.performers h) p (maskOf f) (countLanes s.cur.lanes) := by
  obtain ⟨hg, hc⟩ := State.ready_lane hr
  unfold vecCmp
  rw [perThread_performs h s _ _ hg (fun L hL => ?_)]
  · exact Wave.setPred_eq s.wv p _ _ _ s rfl
  · obtain ⟨h1, h2, h3⟩ := hc L hL
    simp only [List.nil_append] at h1
    simp [h1, h2, h3, firstStop]

/-- A wave-level instruction that writes a scalar register. -/
theorem scalarOp_written (s : State) (d : BitVec 6) (v : W64) (hl : s.cur.lanes = s.pre.live) :
    scalarOp s d v = s.scalarWritten d v := by
  unfold scalarOp
  rw [waveLevel_performs s _ hl rfl]
  unfold State.scalarWritten Wave.setS
  split <;> rfl

theorem maskOp_written (s : State) (d : BitVec 3) (v : Lanes) (hl : s.cur.lanes = s.pre.live) :
    maskOp s d v = s.maskWritten d v := by
  unfold maskOp
  rw [waveLevel_performs s _ hl rfl]
  unfold State.maskWritten Wave.setMaskZ Wave.setMask
  split <;> rfl

/-! ### Long-latency instructions -/

theorem State.count_retired (s : State) (w : Wave) (n : Nat) : s.setW (w.count n) = s.retired w n := rfl

theorem lane_lt (m : Lanes) (L : Nat) (h : laneIn m L = true) : L < 48 := by
  rcases Nat.lt_or_ge L 48 with h' | hge
  · exact h'
  · simp [laneIn, BitVec.getLsbD_of_ge _ _ hge] at h

theorem Wave.markEmpty_fields (w : Wave) (r : Nat) (m : Lanes) (n : Nat) :
    w.markEmpty r m n = { w with empty := (w.markEmpty r m n).empty } := by
  induction n generalizing w r with
  | zero => rfl
  | succ n ih => rw [Wave.markEmpty, ih]

theorem Wave.isEmpty_markEmpty (w : Wave) (r n q M : Nat) (m : Lanes) :
    (w.markEmpty r m n).isEmpty q M = (w.isEmpty q M || (laneIn m M && decide (r ≤ q) && decide (q < r + n))) := by
  induction n generalizing w r with
  | zero =>
    have : (decide (r ≤ q) && decide (q < r + 0)) = false := by
      rw [Bool.eq_false_iff]; intro h; simp at h; omega
    rw [Bool.and_assoc, this]; simp [Wave.markEmpty]
  | succ n ih =>
    rw [Wave.markEmpty, ih]
    simp only [Wave.isEmpty, laneIn, Tab.get_upd]
    by_cases hq : q = r
    · subst hq
      simp only [if_true, BitVec.getLsbD_or]
      have : decide (q + 1 ≤ q) = false := by simp
      rw [this]; simp
    · simp only [hq, if_false]
      have : (decide (r + 1 ≤ q) && decide (q < r + 1 + n)) = (decide (r ≤ q) && decide (q < r + (n + 1))) := by
        rw [Bool.eq_iff_iff]; simp; omega
      rw [Bool.and_assoc, this, ← Bool.and_assoc]

/-- Clearing the marks of a span in the lanes of a mask. -/
theorem Wave.clearMarks_spec (w : Wave) (r n : Nat) (m : Lanes) :
    (w.clearMarks r m n = { w with empty := (w.clearMarks r m n).empty, slots := (w.clearMarks r m n).slots }) ∧
    (w.slots.all (fun e => e.2.err == 0) = true → w.clearMarks r m n = w) := by
  have hone : ∀ (ls : List Nat) (w : Wave) (r : Nat),
      (ls.foldl (fun w L => w.clearMark r L) w =
        { w with empty := (ls.foldl (fun w L => w.clearMark r L) w).empty,
                 slots := (ls.foldl (fun w L => w.clearMark r L) w).slots }) ∧
      (w.slots.all (fun e => e.2.err == 0) = true → ls.foldl (fun w L => w.clearMark r L) w = w) := by
    intro ls
    induction ls with
    | nil => exact fun w r => ⟨rfl, fun _ => rfl⟩
    | cons L ls ih =>
      intro w r
      obtain ⟨h1, h2⟩ := ih (w.clearMark r L) r
      refine ⟨?_, fun h => ?_⟩
      · simp only [List.foldl_cons]; rw [h1, Wave.clearMark_fields]
      · simp only [List.foldl_cons]
        rw [Wave.clearMark_none w r L h] at h2 ⊢
        exact h2 h
  induction n generalizing w r with
  | zero => exact ⟨rfl, fun _ => rfl⟩
  | succ n ih =>
    obtain ⟨h1, h2⟩ := ih ((lanesOf m).foldl (fun w L => w.clearMark r L) w) (r + 1)
    obtain ⟨k1, k2⟩ := hone (lanesOf m) w r
    refine ⟨?_, fun h => ?_⟩
    · rw [Wave.clearMarks, h1, k1]
    · rw [Wave.clearMarks, k2 h]
      rw [k2 h] at h2
      exact h2 h

/-- What taking a slot does. -/
theorem Wave.openSlot_taken (w : Wave) (kind : SlotKind) (d : VOp) (m : Lanes) (reqs : List Req)
    (hf : w.freeSlot.isSome = true) : w.SlotTaken m kind d reqs (w.openSlot kind d m reqs) := by
  unfold Wave.SlotTaken
  by_cases hm : m = 0
  · rw [if_pos hm]; exact if_pos hm
  · rw [if_neg hm]
    obtain ⟨i, hi⟩ := Option.isSome_iff_exists.mp hf
    obtain ⟨c1, c2⟩ := Wave.clearMarks_spec w d.reg d.span m
    have ho : w.openSlot kind d m reqs =
        { (((w.clearMarks d.reg m d.span).markEmpty d.reg m d.span).setSlot i
            { kind := kind, reg := d.reg, span := d.span, lanes := m, reqs := reqs, ord := w.slotSeq })
          with slotSeq := w.slotSeq + 1 } := by
      simp only [Wave.openSlot, if_neg hm, hi]
      rw [Wave.markEmpty_fields, c1]
    have hie : ∀ r L, (w.openSlot kind d m reqs).isEmpty r L =
        ((w.clearMarks d.reg m d.span).markEmpty d.reg m d.span).isEmpty r L := by
      intro r L; rw [ho]; rfl
    refine ⟨i, hi, ?_, ?_, ?_, ?_⟩
    · rw [ho, Wave.markEmpty_fields, c1]; rfl
    · rw [ho]; exact Tab.get_set_self _ _ _ _
    · intro r L hL h1 h2
      rw [hie, Wave.isEmpty_markEmpty]
      simp only [hL, h1, h2, decide_true, Bool.and_self, Bool.or_true]
    · intro h
      refine ⟨fun j hj => ?_, fun r L _ hn => ?_⟩
      · rw [ho, Wave.markEmpty_fields, c2 h]
        exact Tab.get_set_other _ _ _ _ _ hj
      · rw [hie, Wave.isEmpty_markEmpty, c2 h]
        rcases hb : (laneIn m L && decide (d.reg ≤ r) && decide (r < d.reg + d.span)) with _ | _
        · simp
        · simp only [Bool.and_eq_true, decide_eq_true_eq] at hb
          exact absurd ⟨hb.1.1, hb.1.2, hb.2⟩ hn

end Sys2Proof.Machine
end

