-- ==== Sys2Proof/Laws/PerInstr.lean ====
section
/-! SUPPORT. One lemma per constructor of `Instr` for the family `ReadsBack`: the words that the encoder gives a well-formed
instruction decode to it, with every field at every value. The words fall into few layouts, one lemma each. -/

namespace Sys2Proof.Laws

/-! ### The decoder of each major -/

theorem parse0 (h : Hdr) (w : W32) (e : (fld w 26 5).toNat = 0) : parseWord h w = decodeMisc h w := by
  unfold parseWord
  rw [e]
  rfl
theorem parse1 (h : Hdr) (w : W32) (e : (fld w 26 5).toNat = 1) : parseWord h w = decodeSalu h w := by
  unfold parseWord
  rw [e]
  rfl
theorem parse2 (h : Hdr) (w : W32) (e : (fld w 26 5).toNat = 2) : parseWord h w = decodeSimm h w := by
  unfold parseWord
  rw [e]
  rfl
theorem parse3 (h : Hdr) (w : W32) (e : (fld w 26 5).toNat = 3) : parseWord h w = decodeLi h w := by
  unfold parseWord
  rw [e]
  rfl
theorem parse4 (h : Hdr) (w : W32) (e : (fld w 26 5).toNat = 4) : parseWord h w = decodeBr h w := by
  unfold parseWord
  rw [e]
  rfl
theorem parse5 (h : Hdr) (w : W32) (e : (fld w 26 5).toNat = 5) : parseWord h w = decodeJmp h w := by
  unfold parseWord
  rw [e]
  rfl
theorem parse6 (h : Hdr) (w : W32) (e : (fld w 26 5).toNat = 6) : parseWord h w = decodeVint h w := by
  unfold parseWord
  rw [e]
  rfl
theorem parse7 (h : Hdr) (w : W32) (e : (fld w 26 5).toNat = 7) : parseWord h w = decodeVimm h w := by
  unfold parseWord
  rw [e]
  rfl
theorem parse8 (h : Hdr) (w : W32) (e : (fld w 26 5).toNat = 8) : parseWord h w = decodeVflt h w := by
  unfold parseWord
  rw [e]
  rfl
theorem parse9 (h : Hdr) (w : W32) (e : (fld w 26 5).toNat = 9) : parseWord h w = decodeVcvt h w := by
  unfold parseWord
  rw [e]
  rfl
theorem parse10 (h : Hdr) (w : W32) (e : (fld w 26 5).toNat = 10) : parseWord h w = decodeVsfu h w := by
  unfold parseWord
  rw [e]
  rfl
theorem parse11 (h : Hdr) (w : W32) (e : (fld w 26 5).toNat = 11) : parseWord h w = decodeXlane h w := by
  unfold parseWord
  rw [e]
  rfl
theorem parse12 (h : Hdr) (w : W32) (e : (fld w 26 5).toNat = 12) : parseWord h w = decodeKops h w := by
  unfold parseWord
  rw [e]
  rfl
theorem parse13 (h : Hdr) (w : W32) (e : (fld w 26 5).toNat = 13) : parseWord h w = decodeRng h w := by
  unfold parseWord
  rw [e]
  rfl
theorem parse14 (h : Hdr) (w : W32) (e : (fld w 26 5).toNat = 14) : parseWord h w = decodeLd h w := by
  unfold parseWord
  rw [e]
  rfl
theorem parse15 (h : Hdr) (w : W32) (e : (fld w 26 5).toNat = 15) : parseWord h w = decodeSt h w := by
  unfold parseWord
  rw [e]
  rfl
theorem parse16 (h : Hdr) (w : W32) (e : (fld w 26 5).toNat = 16) : parseWord h w = decodeSpm h w := by
  unfold parseWord
  rw [e]
  rfl
theorem parse17 (h : Hdr) (w : W32) (e : (fld w 26 5).toNat = 17) : parseWord h w = decodeAtom h w := by
  unfold parseWord
  rw [e]
  rfl
theorem parse18 (h : Hdr) (w : W32) (e : (fld w 26 5).toNat = 18) : parseWord h w = decodeRed h w := by
  unfold parseWord
  rw [e]
  rfl
theorem parse19 (h : Hdr) (w : W32) (e : (fld w 26 5).toNat = 19) : parseWord h w = decodeSync h w := by
  unfold parseWord
  rw [e]
  rfl
theorem parse20 (h : Hdr) (w : W32) (e : (fld w 26 5).toNat = 20) : parseWord h w = decodeMma h w := by
  unfold parseWord
  rw [e]
  rfl
theorem parse21 (h : Hdr) (w : W32) (e : (fld w 26 5).toNat = 21) : parseWord h w = decodeMseq h w := by
  unfold parseWord
  rw [e]
  rfl
theorem parse22 (h : Hdr) (w : W32) (e : (fld w 26 5).toNat = 22) : parseWord h w = decodeEng h w := by
  unfold parseWord
  rw [e]
  rfl
theorem parse23 (h : Hdr) (w : W32) (e : (fld w 26 5).toNat = 23) : parseWord h w = decodeFab h w := by
  unfold parseWord
  rw [e]
  rfl
theorem parse30 (h : Hdr) (w : W32) (e : (fld w 26 5).toNat = 30) : parseWord h w = decodePriv h w := by
  unfold parseWord
  rw [e]
  rfl

/-! ### The layouts -/

theorem encForm0 (h : Hdr) (c : Nat) (hc : c < 2147483648 ∧ c / 67108864 ≠ 31)
    (pat : W32) (hpat : pat = BitVec.ofNat 32 c) (hp : pat &&& 0x7fffffff = pat) :
    c < 2147483648 ∧
    (c) / 67108864 % 32 ≠ 31 ∧
    (fld (mkWord h (c)) 26 5).toNat = c / 67108864 ∧
    (fld (mkWord h (c)) 0 6).toNat = c / 1 % 64 ∧
    (∀ k, chk (mkWord h (c)) 0x7fffffff pat k = k) := by
  obtain ⟨N, e⟩ : ∃ N, N = c := ⟨_, rfl⟩
  rw [← e]
  subst hpat
  have hN : N < 2147483648 := by omega
  exact ⟨hN,
    by omega,
    field_is h N hN 26 5 _ (by decide) (by omega),
    field_is h N hN 0 6 _ (by decide) (by omega),
    fun k => fixed_passes h N hN 0x7fffffff c [(0, 31)] k (by decide) (by decide) (by omega) hp (by
      simp only [List.forall_mem_cons, List.not_mem_nil, false_imp_iff, forall_const, and_true]
      omega)⟩

theorem encForm1 (h : Hdr) (c : Nat) (x : BitVec 12) (hc : c < 2147483648 ∧ c / 67108864 ≠ 31 ∧ c / 256 % 4096 = 0)
    (pat : W32) (hpat : pat = BitVec.ofNat 32 c) (hp : pat &&& 0x7ff000ff = pat) :
    c + x.toNat * 256 < 2147483648 ∧
    (c + x.toNat * 256) / 67108864 % 32 ≠ 31 ∧
    (fld (mkWord h (c + x.toNat * 256)) 26 5).toNat = c / 67108864 ∧
    (fld (mkWord h (c + x.toNat * 256)) 0 6).toNat = c / 1 % 64 ∧
    (∀ k, chk (mkWord h (c + x.toNat * 256)) 0x7ff000ff pat k = k) ∧
    fld (mkWord h (c + x.toNat * 256)) 8 12 = x := by
  have hx := x.isLt
  obtain ⟨N, e⟩ : ∃ N, N = c + x.toNat * 256 := ⟨_, rfl⟩
  rw [← e]
  subst hpat
  have hN : N < 2147483648 := by omega
  exact ⟨hN,
    by omega,
    field_is h N hN 26 5 _ (by decide) (by omega),
    field_is h N hN 0 6 _ (by decide) (by omega),
    fun k => fixed_passes h N hN 0x7ff000ff c [(0, 8), (20, 11)] k (by decide) (by decide) (by omega) hp (by
      simp only [List.forall_mem_cons, List.not_mem_nil, false_imp_iff, forall_const, and_true]
      refine ⟨?_, ?_⟩ <;> omega),
    field_reads h N hN 8 x (by decide) (by omega)⟩

theorem encForm2 (h : Hdr) (c : Nat) (x : BitVec 6) (y : BitVec 6) (hc : c < 2147483648 ∧ c / 67108864 ≠ 31 ∧ c / 1048576 % 64 = 0 ∧ c / 16384 % 64 = 0)
    (pat : W32) (hpat : pat = BitVec.ofNat 32 c) (hp : pat &&& 0x7c003fff = pat) :
    c + x.toNat * 1048576 + y.toNat * 16384 < 2147483648 ∧
    (c + x.toNat * 1048576 + y.toNat * 16384) / 67108864 % 32 ≠ 31 ∧
    (fld (mkWord h (c + x.toNat * 1048576 + y.toNat * 16384)) 26 5).toNat = c / 67108864 ∧
    (fld (mkWord h (c + x.toNat * 1048576 + y.toNat * 16384)) 0 6).toNat = c / 1 % 64 ∧
    (∀ k, chk (mkWord h (c + x.toNat * 1048576 + y.toNat * 16384)) 0x7c003fff pat k = k) ∧
    fld (mkWord h (c + x.toNat * 1048576 + y.toNat * 16384)) 20 6 = x ∧
    fld (mkWord h (c + x.toNat * 1048576 + y.toNat * 16384)) 14 6 = y := by
  have hx := x.isLt
  have hy := y.isLt
  obtain ⟨N, e⟩ : ∃ N, N = c + x.toNat * 1048576 + y.toNat * 16384 := ⟨_, rfl⟩
  rw [← e]
  subst hpat
  have hN : N < 2147483648 := by omega
  exact ⟨hN,
    by omega,
    field_is h N hN 26 5 _ (by decide) (by omega),
    field_is h N hN 0 6 _ (by decide) (by omega),
    fun k => fixed_passes h N hN 0x7c003fff c [(0, 14), (26, 5)] k (by decide) (by decide) (by omega) hp (by
      simp only [List.forall_mem_cons, List.not_mem_nil, false_imp_iff, forall_const, and_true]
      refine ⟨?_, ?_⟩ <;> omega),
    field_reads h N hN 20 x (by decide) (by omega),
    field_reads h N hN 14 y (by decide) (by omega)⟩

theorem encForm3 (h : Hdr) (c : Nat) (x : BitVec 6) (hc : c < 2147483648 ∧ c / 67108864 ≠ 31 ∧ c / 16384 % 64 = 0)
    (pat : W32) (hpat : pat = BitVec.ofNat 32 c) (hp : pat &&& 0x7ff03fff = pat) :
    c + x.toNat * 16384 < 2147483648 ∧
    (c + x.toNat * 16384) / 67108864 % 32 ≠ 31 ∧
    (fld (mkWord h (c + x.toNat * 16384)) 26 5).toNat = c / 67108864 ∧
    (fld (mkWord h (c + x.toNat * 16384)) 0 6).toNat = c / 1 % 64 ∧
    (∀ k, chk (mkWord h (c + x.toNat * 16384)) 0x7ff03fff pat k = k) ∧
    fld (mkWord h (c + x.toNat * 16384)) 14 6 = x := by
  have hx := x.isLt
  obtain ⟨N, e⟩ : ∃ N, N = c + x.toNat * 16384 := ⟨_, rfl⟩
  rw [← e]
  subst hpat
  have hN : N < 2147483648 := by omega
  exact ⟨hN,
    by omega,
    field_is h N hN 26 5 _ (by decide) (by omega),
    field_is h N hN 0 6 _ (by decide) (by omega),
    fun k => fixed_passes h N hN 0x7ff03fff c [(0, 14), (20, 11)] k (by decide) (by decide) (by omega) hp (by
      simp only [List.forall_mem_cons, List.not_mem_nil, false_imp_iff, forall_const, and_true]
      refine ⟨?_, ?_⟩ <;> omega),
    field_reads h N hN 14 x (by decide) (by omega)⟩

theorem encForm4 (h : Hdr) (c : Nat) (x : BitVec 6) (y : BitVec 6) (z : BitVec 6) (u : Bool) (hc : c < 2147483648 ∧ c / 67108864 ≠ 31 ∧ c / 1048576 % 64 = 0 ∧ c / 16384 % 64 = 0 ∧ c / 256 % 64 = 0 ∧ c / 128 % 2 = 0)
    (pat : W32) (hpat : pat = BitVec.ofNat 32 c) (hp : pat &&& 0x7c00007f = pat) :
    c + x.toNat * 1048576 + y.toNat * 16384 + z.toNat * 256 + u.toNat * 128 < 2147483648 ∧
    (c + x.toNat * 1048576 + y.toNat * 16384 + z.toNat * 256 + u.toNat * 128) / 67108864 % 32 ≠ 31 ∧
    (fld (mkWord h (c + x.toNat * 1048576 + y.toNat * 16384 + z.toNat * 256 + u.toNat * 128)) 26 5).toNat = c / 67108864 ∧
    (fld (mkWord h (c + x.toNat * 1048576 + y.toNat * 16384 + z.toNat * 256 + u.toNat * 128)) 0 6).toNat = c / 1 % 64 ∧
    (∀ k, chk (mkWord h (c + x.toNat * 1048576 + y.toNat * 16384 + z.toNat * 256 + u.toNat * 128)) 0x7c00007f pat k = k) ∧
    fld (mkWord h (c + x.toNat * 1048576 + y.toNat * 16384 + z.toNat * 256 + u.toNat * 128)) 20 6 = x ∧
    fld (mkWord h (c + x.toNat * 1048576 + y.toNat * 16384 + z.toNat * 256 + u.toNat * 128)) 14 6 = y ∧
    fld (mkWord h (c + x.toNat * 1048576 + y.toNat * 16384 + z.toNat * 256 + u.toNat * 128)) 8 6 = z ∧
    bit (mkWord h (c + x.toNat * 1048576 + y.toNat * 16384 + z.toNat * 256 + u.toNat * 128)) 7 = u := by
  have hx := x.isLt
  have hy := y.isLt
  have hz := z.isLt
  have hu := u.toNat_le
  obtain ⟨N, e⟩ : ∃ N, N = c + x.toNat * 1048576 + y.toNat * 16384 + z.toNat * 256 + u.toNat * 128 := ⟨_, rfl⟩
  rw [← e]
  subst hpat
  have hN : N < 2147483648 := by omega
  exact ⟨hN,
    by omega,
    field_is h N hN 26 5 _ (by decide) (by omega),
    field_is h N hN 0 6 _ (by decide) (by omega),
    fun k => fixed_passes h N hN 0x7c00007f c [(0, 7), (26, 5)] k (by decide) (by decide) (by omega) hp (by
      simp only [List.forall_mem_cons, List.not_mem_nil, false_imp_iff, forall_const, and_true]
      refine ⟨?_, ?_⟩ <;> omega),
    field_reads h N hN 20 x (by decide) (by omega),
    field_reads h N hN 14 y (by decide) (by omega),
    field_reads h N hN 8 z (by decide) (by omega),
    bit_reads h N hN 7 u (by decide) (by omega)⟩

theorem encForm5 (h : Hdr) (c : Nat) (x : BitVec 6) (y : BitVec 6) (z : BitVec 6) (hc : c < 2147483648 ∧ c / 67108864 ≠ 31 ∧ c / 1048576 % 64 = 0 ∧ c / 16384 % 64 = 0 ∧ c / 256 % 64 = 0)
    (pat : W32) (hpat : pat = BitVec.ofNat 32 c) (hp : pat &&& 0x7c0000ff = pat) :
    c + x.toNat * 1048576 + y.toNat * 16384 + z.toNat * 256 < 2147483648 ∧
    (c + x.toNat * 1048576 + y.toNat * 16384 + z.toNat * 256) / 67108864 % 32 ≠ 31 ∧
    (fld (mkWord h (c + x.toNat * 1048576 + y.toNat * 16384 + z.toNat * 256)) 26 5).toNat = c / 67108864 ∧
    (fld (mkWord h (c + x.toNat * 1048576 + y.toNat * 16384 + z.toNat * 256)) 0 6).toNat = c / 1 % 64 ∧
    (∀ k, chk (mkWord h (c + x.toNat * 1048576 + y.toNat * 16384 + z.toNat * 256)) 0x7c0000ff pat k = k) ∧
    fld (mkWord h (c + x.toNat * 1048576 + y.toNat * 16384 + z.toNat * 256)) 20 6 = x ∧
    fld (mkWord h (c + x.toNat * 1048576 + y.toNat * 16384 + z.toNat * 256)) 14 6 = y ∧
    fld (mkWord h (c + x.toNat * 1048576 + y.toNat * 16384 + z.toNat * 256)) 8 6 = z := by
  have hx := x.isLt
  have hy := y.isLt
  have hz := z.isLt
  obtain ⟨N, e⟩ : ∃ N, N = c + x.toNat * 1048576 + y.toNat * 16384 + z.toNat * 256 := ⟨_, rfl⟩
  rw [← e]
  subst hpat
  have hN : N < 2147483648 := by omega
  exact ⟨hN,
    by omega,
    field_is h N hN 26 5 _ (by decide) (by omega),
    field_is h N hN 0 6 _ (by decide) (by omega),
    fun k => fixed_passes h N hN 0x7c0000ff c [(0, 8), (26, 5)] k (by decide) (by decide) (by omega) hp (by
      simp only [List.forall_mem_cons, List.not_mem_nil, false_imp_iff, forall_const, and_true]
      refine ⟨?_, ?_⟩ <;> omega),
    field_reads h N hN 20 x (by decide) (by omega),
    field_reads h N hN 14 y (by decide) (by omega),
    field_reads h N hN 8 z (by decide) (by omega)⟩

theorem encForm6 (h : Hdr) (c : Nat) (x : BitVec 6) (y : BitVec 6) (z : BitVec 11) (hc : c < 2147483648 ∧ c / 67108864 ≠ 31 ∧ c / 1048576 % 64 = 0 ∧ c / 16384 % 64 = 0 ∧ c % 2048 = 0)
    (pat : W32) (hpat : pat = BitVec.ofNat 32 c) (hp : pat &&& 0x7c003800 = pat) :
    c + x.toNat * 1048576 + y.toNat * 16384 + z.toNat < 2147483648 ∧
    (c + x.toNat * 1048576 + y.toNat * 16384 + z.toNat) / 67108864 % 32 ≠ 31 ∧
    (fld (mkWord h (c + x.toNat * 1048576 + y.toNat * 16384 + z.toNat)) 26 5).toNat = c / 67108864 ∧
    (fld (mkWord h (c + x.toNat * 1048576 + y.toNat * 16384 + z.toNat)) 11 3).toNat = c / 2048 % 8 ∧
    (∀ k, chk (mkWord h (c + x.toNat * 1048576 + y.toNat * 16384 + z.toNat)) 0x7c003800 pat k = k) ∧
    fld (mkWord h (c + x.toNat * 1048576 + y.toNat * 16384 + z.toNat)) 20 6 = x ∧
    fld (mkWord h (c + x.toNat * 1048576 + y.toNat * 16384 + z.toNat)) 14 6 = y ∧
    fld (mkWord h (c + x.toNat * 1048576 + y.toNat * 16384 + z.toNat)) 0 11 = z := by
  have hx := x.isLt
  have hy := y.isLt
  have hz := z.isLt
  obtain ⟨N, e⟩ : ∃ N, N = c + x.toNat * 1048576 + y.toNat * 16384 + z.toNat := ⟨_, rfl⟩
  rw [← e]
  subst hpat
  have hN : N < 2147483648 := by omega
  exact ⟨hN,
    by omega,
    field_is h N hN 26 5 _ (by decide) (by omega),
    field_is h N hN 11 3 _ (by decide) (by omega),
    fun k => fixed_passes h N hN 0x7c003800 c [(11, 3), (26, 5)] k (by decide) (by decide) (by omega) hp (by
      simp only [List.forall_mem_cons, List.not_mem_nil, false_imp_iff, forall_const, and_true]
      refine ⟨?_, ?_⟩ <;> omega),
    field_reads h N hN 20 x (by decide) (by omega),
    field_reads h N hN 14 y (by decide) (by omega),
    field_reads h N hN 0 z (by decide) (by omega)⟩

theorem encForm7 (h : Hdr) (c : Nat) (x : BitVec 6) (y : BitVec 20) (hc : c < 2147483648 ∧ c / 67108864 ≠ 31 ∧ c / 1048576 % 64 = 0 ∧ c % 1048576 = 0)
    (pat : W32) (hpat : pat = BitVec.ofNat 32 c) (hp : pat &&& 0x7c000000 = pat) :
    c + x.toNat * 1048576 + y.toNat < 2147483648 ∧
    (c + x.toNat * 1048576 + y.toNat) / 67108864 % 32 ≠ 31 ∧
    (fld (mkWord h (c + x.toNat * 1048576 + y.toNat)) 26 5).toNat = c / 67108864 ∧
    (∀ k, chk (mkWord h (c + x.toNat * 1048576 + y.toNat)) 0x7c000000 pat k = k) ∧
    fld (mkWord h (c + x.toNat * 1048576 + y.toNat)) 20 6 = x ∧
    fld (mkWord h (c + x.toNat * 1048576 + y.toNat)) 0 20 = y := by
  have hx := x.isLt
  have hy := y.isLt
  obtain ⟨N, e⟩ : ∃ N, N = c + x.toNat * 1048576 + y.toNat := ⟨_, rfl⟩
  rw [← e]
  subst hpat
  have hN : N < 2147483648 := by omega
  exact ⟨hN,
    by omega,
    field_is h N hN 26 5 _ (by decide) (by omega),
    fun k => fixed_passes h N hN 0x7c000000 c [(26, 5)] k (by decide) (by decide) (by omega) hp (by
      simp only [List.forall_mem_cons, List.not_mem_nil, false_imp_iff, forall_const, and_true]
      omega),
    field_reads h N hN 20 x (by decide) (by omega),
    field_reads h N hN 0 y (by decide) (by omega)⟩

theorem encForm8 (h : Hdr) (c : Nat) (x : Bool) (y : BitVec 3) (z : BitVec 20) (hc : c < 2147483648 ∧ c / 67108864 ≠ 31 ∧ c / 8388608 % 2 = 0 ∧ c / 1048576 % 8 = 0 ∧ c % 1048576 = 0)
    (pat : W32) (hpat : pat = BitVec.ofNat 32 c) (hp : pat &&& 0x7f000000 = pat) :
    c + x.toNat * 8388608 + y.toNat * 1048576 + z.toNat < 2147483648 ∧
    (c + x.toNat * 8388608 + y.toNat * 1048576 + z.toNat) / 67108864 % 32 ≠ 31 ∧
    (fld (mkWord h (c + x.toNat * 8388608 + y.toNat * 1048576 + z.toNat)) 26 5).toNat = c / 67108864 ∧
    (fld (mkWord h (c + x.toNat * 8388608 + y.toNat * 1048576 + z.toNat)) 24 2).toNat = c / 16777216 % 4 ∧
    (∀ k, chk (mkWord h (c + x.toNat * 8388608 + y.toNat * 1048576 + z.toNat)) 0x7f000000 pat k = k) ∧
    bit (mkWord h (c + x.toNat * 8388608 + y.toNat * 1048576 + z.toNat)) 23 = x ∧
    fld (mkWord h (c + x.toNat * 8388608 + y.toNat * 1048576 + z.toNat)) 20 3 = y ∧
    fld (mkWord h (c + x.toNat * 8388608 + y.toNat * 1048576 + z.toNat)) 0 20 = z := by
  have hx := x.toNat_le
  have hy := y.isLt
  have hz := z.isLt
  obtain ⟨N, e⟩ : ∃ N, N = c + x.toNat * 8388608 + y.toNat * 1048576 + z.toNat := ⟨_, rfl⟩
  rw [← e]
  subst hpat
  have hN : N < 2147483648 := by omega
  exact ⟨hN,
    by omega,
    field_is h N hN 26 5 _ (by decide) (by omega),
    field_is h N hN 24 2 _ (by decide) (by omega),
    fun k => fixed_passes h N hN 0x7f000000 c [(24, 7)] k (by decide) (by decide) (by omega) hp (by
      simp only [List.forall_mem_cons, List.not_mem_nil, false_imp_iff, forall_const, and_true]
      omega),
    bit_reads h N hN 23 x (by decide) (by omega),
    field_reads h N hN 20 y (by decide) (by omega),
    field_reads h N hN 0 z (by decide) (by omega)⟩

theorem encForm9 (h : Hdr) (c : Nat) (x : BitVec 3) (y : BitVec 20) (hc : c < 2147483648 ∧ c / 67108864 ≠ 31 ∧ c / 1048576 % 8 = 0 ∧ c % 1048576 = 0)
    (pat : W32) (hpat : pat = BitVec.ofNat 32 c) (hp : pat &&& 0x7f800000 = pat) :
    c + x.toNat * 1048576 + y.toNat < 2147483648 ∧
    (c + x.toNat * 1048576 + y.toNat) / 67108864 % 32 ≠ 31 ∧
    (fld (mkWord h (c + x.toNat * 1048576 + y.toNat)) 26 5).toNat = c / 67108864 ∧
    (fld (mkWord h (c + x.toNat * 1048576 + y.toNat)) 24 2).toNat = c / 16777216 % 4 ∧
    (∀ k, chk (mkWord h (c + x.toNat * 1048576 + y.toNat)) 0x7f800000 pat k = k) ∧
    fld (mkWord h (c + x.toNat * 1048576 + y.toNat)) 20 3 = x ∧
    fld (mkWord h (c + x.toNat * 1048576 + y.toNat)) 0 20 = y := by
  have hx := x.isLt
  have hy := y.isLt
  obtain ⟨N, e⟩ : ∃ N, N = c + x.toNat * 1048576 + y.toNat := ⟨_, rfl⟩
  rw [← e]
  subst hpat
  have hN : N < 2147483648 := by omega
  exact ⟨hN,
    by omega,
    field_is h N hN 26 5 _ (by decide) (by omega),
    field_is h N hN 24 2 _ (by decide) (by omega),
    fun k => fixed_passes h N hN 0x7f800000 c [(23, 8)] k (by decide) (by decide) (by omega) hp (by
      simp only [List.forall_mem_cons, List.not_mem_nil, false_imp_iff, forall_const, and_true]
      omega),
    field_reads h N hN 20 x (by decide) (by omega),
    field_reads h N hN 0 y (by decide) (by omega)⟩

theorem encForm10 (h : Hdr) (c : Nat) (x : BitVec 20) (hc : c < 2147483648 ∧ c / 67108864 ≠ 31 ∧ c % 1048576 = 0)
    (pat : W32) (hpat : pat = BitVec.ofNat 32 c) (hp : pat &&& 0x7ff00000 = pat) :
    c + x.toNat < 2147483648 ∧
    (c + x.toNat) / 67108864 % 32 ≠ 31 ∧
    (fld (mkWord h (c + x.toNat)) 26 5).toNat = c / 67108864 ∧
    (fld (mkWord h (c + x.toNat)) 24 2).toNat = c / 16777216 % 4 ∧
    (∀ k, chk (mkWord h (c + x.toNat)) 0x7ff00000 pat k = k) ∧
    fld (mkWord h (c + x.toNat)) 0 20 = x := by
  have hx := x.isLt
  obtain ⟨N, e⟩ : ∃ N, N = c + x.toNat := ⟨_, rfl⟩
  rw [← e]
  subst hpat
  have hN : N < 2147483648 := by omega
  exact ⟨hN,
    by omega,
    field_is h N hN 26 5 _ (by decide) (by omega),
    field_is h N hN 24 2 _ (by decide) (by omega),
    fun k => fixed_passes h N hN 0x7ff00000 c [(20, 11)] k (by decide) (by decide) (by omega) hp (by
      simp only [List.forall_mem_cons, List.not_mem_nil, false_imp_iff, forall_const, and_true]
      omega),
    field_reads h N hN 0 x (by decide) (by omega)⟩

theorem encForm11 (h : Hdr) (c : Nat) (x : BitVec 6) (y : Bool) (hc : c < 2147483648 ∧ c / 67108864 ≠ 31 ∧ c / 16384 % 64 = 0 ∧ c / 128 % 2 = 0)
    (pat : W32) (hpat : pat = BitVec.ofNat 32 c) (hp : pat &&& 0x7ff03f7f = pat) :
    c + x.toNat * 16384 + y.toNat * 128 < 2147483648 ∧
    (c + x.toNat * 16384 + y.toNat * 128) / 67108864 % 32 ≠ 31 ∧
    (fld (mkWord h (c + x.toNat * 16384 + y.toNat * 128)) 26 5).toNat = c / 67108864 ∧
    (fld (mkWord h (c + x.toNat * 16384 + y.toNat * 128)) 0 6).toNat = c / 1 % 64 ∧
    (∀ k, chk (mkWord h (c + x.toNat * 16384 + y.toNat * 128)) 0x7ff03f7f pat k = k) ∧
    fld (mkWord h (c + x.toNat * 16384 + y.toNat * 128)) 14 6 = x ∧
    bit (mkWord h (c + x.toNat * 16384 + y.toNat * 128)) 7 = y := by
  have hx := x.isLt
  have hy := y.toNat_le
  obtain ⟨N, e⟩ : ∃ N, N = c + x.toNat * 16384 + y.toNat * 128 := ⟨_, rfl⟩
  rw [← e]
  subst hpat
  have hN : N < 2147483648 := by omega
  exact ⟨hN,
    by omega,
    field_is h N hN 26 5 _ (by decide) (by omega),
    field_is h N hN 0 6 _ (by decide) (by omega),
    fun k => fixed_passes h N hN 0x7ff03f7f c [(0, 7), (8, 6), (20, 11)] k (by decide) (by decide) (by omega) hp (by
      simp only [List.forall_mem_cons, List.not_mem_nil, false_imp_iff, forall_const, and_true]
      refine ⟨?_, ?_, ?_⟩ <;> omega),
    field_reads h N hN 14 x (by decide) (by omega),
    bit_reads h N hN 7 y (by decide) (by omega)⟩

theorem encForm12 (h : Hdr) (c : Nat) (x : BitVec 6) (y : BitVec 6) (z : BitVec 6) (u : Bool) (v : Bool) (hc : c < 2147483648 ∧ c / 67108864 ≠ 31 ∧ c / 1048576 % 64 = 0 ∧ c / 16384 % 64 = 0 ∧ c / 256 % 64 = 0 ∧ c / 128 % 2 = 0 ∧ c / 64 % 2 = 0)
    (pat : W32) (hpat : pat = BitVec.ofNat 32 c) (hp : pat &&& 0x7c00003f = pat) :
    c + x.toNat * 1048576 + y.toNat * 16384 + z.toNat * 256 + u.toNat * 128 + v.toNat * 64 < 2147483648 ∧
    (c + x.toNat * 1048576 + y.toNat * 16384 + z.toNat * 256 + u.toNat * 128 + v.toNat * 64) / 67108864 % 32 ≠ 31 ∧
    (fld (mkWord h (c + x.toNat * 1048576 + y.toNat * 16384 + z.toNat * 256 + u.toNat * 128 + v.toNat * 64)) 26 5).toNat = c / 67108864 ∧
    (fld (mkWord h (c + x.toNat * 1048576 + y.toNat * 16384 + z.toNat * 256 + u.toNat * 128 + v.toNat * 64)) 0 6).toNat = c / 1 % 64 ∧
    (∀ k, chk (mkWord h (c + x.toNat * 1048576 + y.toNat * 16384 + z.toNat * 256 + u.toNat * 128 + v.toNat * 64)) 0x7c00003f pat k = k) ∧
    fld (mkWord h (c + x.toNat * 1048576 + y.toNat * 16384 + z.toNat * 256 + u.toNat * 128 + v.toNat * 64)) 20 6 = x ∧
    fld (mkWord h (c + x.toNat * 1048576 + y.toNat * 16384 + z.toNat * 256 + u.toNat * 128 + v.toNat * 64)) 14 6 = y ∧
    fld (mkWord h (c + x.toNat * 1048576 + y.toNat * 16384 + z.toNat * 256 + u.toNat * 128 + v.toNat * 64)) 8 6 = z ∧
    bit (mkWord h (c + x.toNat * 1048576 + y.toNat * 16384 + z.toNat * 256 + u.toNat * 128 + v.toNat * 64)) 7 = u ∧
    bit (mkWord h (c + x.toNat * 1048576 + y.toNat * 16384 + z.toNat * 256 + u.toNat * 128 + v.toNat * 64)) 6 = v := by
  have hx := x.isLt
  have hy := y.isLt
  have hz := z.isLt
  have hu := u.toNat_le
  have hv := v.toNat_le
  obtain ⟨N, e⟩ : ∃ N, N = c + x.toNat * 1048576 + y.toNat * 16384 + z.toNat * 256 + u.toNat * 128 + v.toNat * 64 := ⟨_, rfl⟩
  rw [← e]
  subst hpat
  have hN : N < 2147483648 := by omega
  exact ⟨hN,
    by omega,
    field_is h N hN 26 5 _ (by decide) (by omega),
    field_is h N hN 0 6 _ (by decide) (by omega),
    fun k => fixed_passes h N hN 0x7c00003f c [(0, 6), (26, 5)] k (by decide) (by decide) (by omega) hp (by
      simp only [List.forall_mem_cons, List.not_mem_nil, false_imp_iff, forall_const, and_true]
      refine ⟨?_, ?_⟩ <;> omega),
    field_reads h N hN 20 x (by decide) (by omega),
    field_reads h N hN 14 y (by decide) (by omega),
    field_reads h N hN 8 z (by decide) (by omega),
    bit_reads h N hN 7 u (by decide) (by omega),
    bit_reads h N hN 6 v (by decide) (by omega)⟩

theorem encForm13 (h : Hdr) (c : Nat) (x : BitVec 6) (y : BitVec 6) (z : Bool) (hc : c < 2147483648 ∧ c / 67108864 ≠ 31 ∧ c / 1048576 % 64 = 0 ∧ c / 16384 % 64 = 0 ∧ c / 128 % 2 = 0)
    (pat : W32) (hpat : pat = BitVec.ofNat 32 c) (hp : pat &&& 0x7c003f7f = pat) :
    c + x.toNat * 1048576 + y.toNat * 16384 + z.toNat * 128 < 2147483648 ∧
    (c + x.toNat * 1048576 + y.toNat * 16384 + z.toNat * 128) / 67108864 % 32 ≠ 31 ∧
    (fld (mkWord h (c + x.toNat * 1048576 + y.toNat * 16384 + z.toNat * 128)) 26 5).toNat = c / 67108864 ∧
    (fld (mkWord h (c + x.toNat * 1048576 + y.toNat * 16384 + z.toNat * 128)) 0 6).toNat = c / 1 % 64 ∧
    (∀ k, chk (mkWord h (c + x.toNat * 1048576 + y.toNat * 16384 + z.toNat * 128)) 0x7c003f7f pat k = k) ∧
    fld (mkWord h (c + x.toNat * 1048576 + y.toNat * 16384 + z.toNat * 128)) 20 6 = x ∧
    fld (mkWord h (c + x.toNat * 1048576 + y.toNat * 16384 + z.toNat * 128)) 14 6 = y ∧
    bit (mkWord h (c + x.toNat * 1048576 + y.toNat * 16384 + z.toNat * 128)) 7 = z := by
  have hx := x.isLt
  have hy := y.isLt
  have hz := z.toNat_le
  obtain ⟨N, e⟩ : ∃ N, N = c + x.toNat * 1048576 + y.toNat * 16384 + z.toNat * 128 := ⟨_, rfl⟩
  rw [← e]
  subst hpat
  have hN : N < 2147483648 := by omega
  exact ⟨hN,
    by omega,
    field_is h N hN 26 5 _ (by decide) (by omega),
    field_is h N hN 0 6 _ (by decide) (by omega),
    fun k => fixed_passes h N hN 0x7c003f7f c [(0, 7), (8, 6), (26, 5)] k (by decide) (by decide) (by omega) hp (by
      simp only [List.forall_mem_cons, List.not_mem_nil, false_imp_iff, forall_const, and_true]
      refine ⟨?_, ?_, ?_⟩ <;> omega),
    field_reads h N hN 20 x (by decide) (by omega),
    field_reads h N hN 14 y (by decide) (by omega),
    bit_reads h N hN 7 z (by decide) (by omega)⟩

theorem encForm14 (h : Hdr) (c : Nat) (x : BitVec 3) (y : BitVec 6) (z : BitVec 6) (u : Bool) (v : Bool) (hc : c < 2147483648 ∧ c / 67108864 ≠ 31 ∧ c / 1048576 % 64 = 0 ∧ c / 16384 % 64 = 0 ∧ c / 256 % 64 = 0 ∧ c / 128 % 2 = 0 ∧ c / 64 % 2 = 0)
    (pat : W32) (hpat : pat = BitVec.ofNat 32 c) (hp : pat &&& 0x7c00003f = pat) :
    c + x.toNat * 1048576 + y.toNat * 16384 + z.toNat * 256 + u.toNat * 128 + v.toNat * 64 < 2147483648 ∧
    (c + x.toNat * 1048576 + y.toNat * 16384 + z.toNat * 256 + u.toNat * 128 + v.toNat * 64) / 67108864 % 32 ≠ 31 ∧
    (fld (mkWord h (c + x.toNat * 1048576 + y.toNat * 16384 + z.toNat * 256 + u.toNat * 128 + v.toNat * 64)) 26 5).toNat = c / 67108864 ∧
    (fld (mkWord h (c + x.toNat * 1048576 + y.toNat * 16384 + z.toNat * 256 + u.toNat * 128 + v.toNat * 64)) 0 6).toNat = c / 1 % 64 ∧
    (∀ k, chk (mkWord h (c + x.toNat * 1048576 + y.toNat * 16384 + z.toNat * 256 + u.toNat * 128 + v.toNat * 64)) 0x7c00003f pat k = k) ∧
    (∀ k, cls3 (mkWord h (c + x.toNat * 1048576 + y.toNat * 16384 + z.toNat * 256 + u.toNat * 128 + v.toNat * 64)) 20 k = k x) ∧
    fld (mkWord h (c + x.toNat * 1048576 + y.toNat * 16384 + z.toNat * 256 + u.toNat * 128 + v.toNat * 64)) 14 6 = y ∧
    fld (mkWord h (c + x.toNat * 1048576 + y.toNat * 16384 + z.toNat * 256 + u.toNat * 128 + v.toNat * 64)) 8 6 = z ∧
    bit (mkWord h (c + x.toNat * 1048576 + y.toNat * 16384 + z.toNat * 256 + u.toNat * 128 + v.toNat * 64)) 7 = u ∧
    bit (mkWord h (c + x.toNat * 1048576 + y.toNat * 16384 + z.toNat * 256 + u.toNat * 128 + v.toNat * 64)) 6 = v := by
  have hx := x.isLt
  have hy := y.isLt
  have hz := z.isLt
  have hu := u.toNat_le
  have hv := v.toNat_le
  obtain ⟨N, e⟩ : ∃ N, N = c + x.toNat * 1048576 + y.toNat * 16384 + z.toNat * 256 + u.toNat * 128 + v.toNat * 64 := ⟨_, rfl⟩
  rw [← e]
  subst hpat
  have hN : N < 2147483648 := by omega
  exact ⟨hN,
    by omega,
    field_is h N hN 26 5 _ (by decide) (by omega),
    field_is h N hN 0 6 _ (by decide) (by omega),
    fun k => fixed_passes h N hN 0x7c00003f c [(0, 6), (26, 5)] k (by decide) (by decide) (by omega) hp (by
      simp only [List.forall_mem_cons, List.not_mem_nil, false_imp_iff, forall_const, and_true]
      refine ⟨?_, ?_⟩ <;> omega),
    fun k => cls3_passes h N hN 20 x k (by decide) (by omega),
    field_reads h N hN 14 y (by decide) (by omega),
    field_reads h N hN 8 z (by decide) (by omega),
    bit_reads h N hN 7 u (by decide) (by omega),
    bit_reads h N hN 6 v (by decide) (by omega)⟩

theorem encForm15 (h : Hdr) (c : Nat) (x : BitVec 6) (y : BitVec 11) (hc : c < 2147483648 ∧ c / 67108864 ≠ 31 ∧ c / 1048576 % 64 = 0 ∧ c % 2048 = 0)
    (pat : W32) (hpat : pat = BitVec.ofNat 32 c) (hp : pat &&& 0x7c0ff800 = pat) :
    c + x.toNat * 1048576 + y.toNat < 2147483648 ∧
    (c + x.toNat * 1048576 + y.toNat) / 67108864 % 32 ≠ 31 ∧
    (fld (mkWord h (c + x.toNat * 1048576 + y.toNat)) 26 5).toNat = c / 67108864 ∧
    (fld (mkWord h (c + x.toNat * 1048576 + y.toNat)) 11 3).toNat = c / 2048 % 8 ∧
    (∀ k, chk (mkWord h (c + x.toNat * 1048576 + y.toNat)) 0x7c0ff800 pat k = k) ∧
    fld (mkWord h (c + x.toNat * 1048576 + y.toNat)) 20 6 = x ∧
    fld (mkWord h (c + x.toNat * 1048576 + y.toNat)) 0 11 = y := by
  have hx := x.isLt
  have hy := y.isLt
  obtain ⟨N, e⟩ : ∃ N, N = c + x.toNat * 1048576 + y.toNat := ⟨_, rfl⟩
  rw [← e]
  subst hpat
  have hN : N < 2147483648 := by omega
  exact ⟨hN,
    by omega,
    field_is h N hN 26 5 _ (by decide) (by omega),
    field_is h N hN 11 3 _ (by decide) (by omega),
    fun k => fixed_passes h N hN 0x7c0ff800 c [(11, 9), (26, 5)] k (by decide) (by decide) (by omega) hp (by
      simp only [List.forall_mem_cons, List.not_mem_nil, false_imp_iff, forall_const, and_true]
      refine ⟨?_, ?_⟩ <;> omega),
    field_reads h N hN 20 x (by decide) (by omega),
    field_reads h N hN 0 y (by decide) (by omega)⟩

theorem encForm16 (h : Hdr) (c : Nat) (x : BitVec 3) (y : BitVec 3) (hc : c < 2147483648 ∧ c / 67108864 ≠ 31 ∧ c / 1048576 % 64 = 0 ∧ c / 16384 % 64 = 0)
    (pat : W32) (hpat : pat = BitVec.ofNat 32 c) (hp : pat &&& 0x7c003fff = pat) :
    c + x.toNat * 1048576 + y.toNat * 16384 < 2147483648 ∧
    (c + x.toNat * 1048576 + y.toNat * 16384) / 67108864 % 32 ≠ 31 ∧
    (fld (mkWord h (c + x.toNat * 1048576 + y.toNat * 16384)) 26 5).toNat = c / 67108864 ∧
    (fld (mkWord h (c + x.toNat * 1048576 + y.toNat * 16384)) 0 6).toNat = c / 1 % 64 ∧
    (∀ k, chk (mkWord h (c + x.toNat * 1048576 + y.toNat * 16384)) 0x7c003fff pat k = k) ∧
    (∀ k, cls3 (mkWord h (c + x.toNat * 1048576 + y.toNat * 16384)) 20 k = k x) ∧
    (∀ k, cls3 (mkWord h (c + x.toNat * 1048576 + y.toNat * 16384)) 14 k = k y) := by
  have hx := x.isLt
  have hy := y.isLt
  obtain ⟨N, e⟩ : ∃ N, N = c + x.toNat * 1048576 + y.toNat * 16384 := ⟨_, rfl⟩
  rw [← e]
  subst hpat
  have hN : N < 2147483648 := by omega
  exact ⟨hN,
    by omega,
    field_is h N hN 26 5 _ (by decide) (by omega),
    field_is h N hN 0 6 _ (by decide) (by omega),
    fun k => fixed_passes h N hN 0x7c003fff c [(0, 14), (26, 5)] k (by decide) (by decide) (by omega) hp (by
      simp only [List.forall_mem_cons, List.not_mem_nil, false_imp_iff, forall_const, and_true]
      refine ⟨?_, ?_⟩ <;> omega),
    fun k => cls3_passes h N hN 20 x k (by decide) (by omega),
    fun k => cls3_passes h N hN 14 y k (by decide) (by omega)⟩

theorem encForm17 (h : Hdr) (c : Nat) (x : BitVec 3) (y : BitVec 3) (z : BitVec 3) (hc : c < 2147483648 ∧ c / 67108864 ≠ 31 ∧ c / 1048576 % 64 = 0 ∧ c / 16384 % 64 = 0 ∧ c / 256 % 64 = 0)
    (pat : W32) (hpat : pat = BitVec.ofNat 32 c) (hp : pat &&& 0x7c0000ff = pat) :
    c + x.toNat * 1048576 + y.toNat * 16384 + z.toNat * 256 < 2147483648 ∧
    (c + x.toNat * 1048576 + y.toNat * 16384 + z.toNat * 256) / 67108864 % 32 ≠ 31 ∧
    (fld (mkWord h (c + x.toNat * 1048576 + y.toNat * 16384 + z.toNat * 256)) 26 5).toNat = c / 67108864 ∧
    (fld (mkWord h (c + x.toNat * 1048576 + y.toNat * 16384 + z.toNat * 256)) 0 6).toNat = c / 1 % 64 ∧
    (∀ k, chk (mkWord h (c + x.toNat * 1048576 + y.toNat * 16384 + z.toNat * 256)) 0x7c0000ff pat k = k) ∧
    (∀ k, cls3 (mkWord h (c + x.toNat * 1048576 + y.toNat * 16384 + z.toNat * 256)) 20 k = k x) ∧
    (∀ k, cls3 (mkWord h (c + x.toNat * 1048576 + y.toNat * 16384 + z.toNat * 256)) 14 k = k y) ∧
    (∀ k, cls3 (mkWord h (c + x.toNat * 1048576 + y.toNat * 16384 + z.toNat * 256)) 8 k = k z) := by
  have hx := x.isLt
  have hy := y.isLt
  have hz := z.isLt
  obtain ⟨N, e⟩ : ∃ N, N = c + x.toNat * 1048576 + y.toNat * 16384 + z.toNat * 256 := ⟨_, rfl⟩
  rw [← e]
  subst hpat
  have hN : N < 2147483648 := by omega
  exact ⟨hN,
    by omega,
    field_is h N hN 26 5 _ (by decide) (by omega),
    field_is h N hN 0 6 _ (by decide) (by omega),
    fun k => fixed_passes h N hN 0x7c0000ff c [(0, 8), (26, 5)] k (by decide) (by decide) (by omega) hp (by
      simp only [List.forall_mem_cons, List.not_mem_nil, false_imp_iff, forall_const, and_true]
      refine ⟨?_, ?_⟩ <;> omega),
    fun k => cls3_passes h N hN 20 x k (by decide) (by omega),
    fun k => cls3_passes h N hN 14 y k (by decide) (by omega),
    fun k => cls3_passes h N hN 8 z k (by decide) (by omega)⟩

theorem encForm18 (h : Hdr) (c : Nat) (x : BitVec 6) (y : BitVec 3) (hc : c < 2147483648 ∧ c / 67108864 ≠ 31 ∧ c / 1048576 % 64 = 0 ∧ c / 16384 % 64 = 0)
    (pat : W32) (hpat : pat = BitVec.ofNat 32 c) (hp : pat &&& 0x7c003fff = pat) :
    c + x.toNat * 1048576 + y.toNat * 16384 < 2147483648 ∧
    (c + x.toNat * 1048576 + y.toNat * 16384) / 67108864 % 32 ≠ 31 ∧
    (fld (mkWord h (c + x.toNat * 1048576 + y.toNat * 16384)) 26 5).toNat = c / 67108864 ∧
    (fld (mkWord h (c + x.toNat * 1048576 + y.toNat * 16384)) 0 6).toNat = c / 1 % 64 ∧
    (∀ k, chk (mkWord h (c + x.toNat * 1048576 + y.toNat * 16384)) 0x7c003fff pat k = k) ∧
    fld (mkWord h (c + x.toNat * 1048576 + y.toNat * 16384)) 20 6 = x ∧
    (∀ k, cls3 (mkWord h (c + x.toNat * 1048576 + y.toNat * 16384)) 14 k = k y) := by
  have hx := x.isLt
  have hy := y.isLt
  obtain ⟨N, e⟩ : ∃ N, N = c + x.toNat * 1048576 + y.toNat * 16384 := ⟨_, rfl⟩
  rw [← e]
  subst hpat
  have hN : N < 2147483648 := by omega
  exact ⟨hN,
    by omega,
    field_is h N hN 26 5 _ (by decide) (by omega),
    field_is h N hN 0 6 _ (by decide) (by omega),
    fun k => fixed_passes h N hN 0x7c003fff c [(0, 14), (26, 5)] k (by decide) (by decide) (by omega) hp (by
      simp only [List.forall_mem_cons, List.not_mem_nil, false_imp_iff, forall_const, and_true]
      refine ⟨?_, ?_⟩ <;> omega),
    field_reads h N hN 20 x (by decide) (by omega),
    fun k => cls3_passes h N hN 14 y k (by decide) (by omega)⟩

theorem encForm19 (h : Hdr) (c : Nat) (x : BitVec 3) (y : BitVec 6) (hc : c < 2147483648 ∧ c / 67108864 ≠ 31 ∧ c / 1048576 % 64 = 0 ∧ c / 16384 % 64 = 0)
    (pat : W32) (hpat : pat = BitVec.ofNat 32 c) (hp : pat &&& 0x7c003fff = pat) :
    c + x.toNat * 1048576 + y.toNat * 16384 < 2147483648 ∧
    (c + x.toNat * 1048576 + y.toNat * 16384) / 67108864 % 32 ≠ 31 ∧
    (fld (mkWord h (c + x.toNat * 1048576 + y.toNat * 16384)) 26 5).toNat = c / 67108864 ∧
    (fld (mkWord h (c + x.toNat * 1048576 + y.toNat * 16384)) 0 6).toNat = c / 1 % 64 ∧
    (∀ k, chk (mkWord h (c + x.toNat * 1048576 + y.toNat * 16384)) 0x7c003fff pat k = k) ∧
    (∀ k, cls3 (mkWord h (c + x.toNat * 1048576 + y.toNat * 16384)) 20 k = k x) ∧
    fld (mkWord h (c + x.toNat * 1048576 + y.toNat * 16384)) 14 6 = y := by
  have hx := x.isLt
  have hy := y.isLt
  obtain ⟨N, e⟩ : ∃ N, N = c + x.toNat * 1048576 + y.toNat * 16384 := ⟨_, rfl⟩
  rw [← e]
  subst hpat
  have hN : N < 2147483648 := by omega
  exact ⟨hN,
    by omega,
    field_is h N hN 26 5 _ (by decide) (by omega),
    field_is h N hN 0 6 _ (by decide) (by omega),
    fun k => fixed_passes h N hN 0x7c003fff c [(0, 14), (26, 5)] k (by decide) (by decide) (by omega) hp (by
      simp only [List.forall_mem_cons, List.not_mem_nil, false_imp_iff, forall_const, and_true]
      refine ⟨?_, ?_⟩ <;> omega),
    fun k => cls3_passes h N hN 20 x k (by decide) (by omega),
    field_reads h N hN 14 y (by decide) (by omega)⟩

theorem encForm20 (h : Hdr) (c : Nat) (x : BitVec 6) (y : BitVec 6) (hc : c < 2147483648 ∧ c / 67108864 ≠ 31 ∧ c / 1048576 % 64 = 0 ∧ c / 256 % 64 = 0)
    (pat : W32) (hpat : pat = BitVec.ofNat 32 c) (hp : pat &&& 0x7c0fc0ff = pat) :
    c + x.toNat * 1048576 + y.toNat * 256 < 2147483648 ∧
    (c + x.toNat * 1048576 + y.toNat * 256) / 67108864 % 32 ≠ 31 ∧
    (fld (mkWord h (c + x.toNat * 1048576 + y.toNat * 256)) 26 5).toNat = c / 67108864 ∧
    (fld (mkWord h (c + x.toNat * 1048576 + y.toNat * 256)) 0 6).toNat = c / 1 % 64 ∧
    (∀ k, chk (mkWord h (c + x.toNat * 1048576 + y.toNat * 256)) 0x7c0fc0ff pat k = k) ∧
    fld (mkWord h (c + x.toNat * 1048576 + y.toNat * 256)) 20 6 = x ∧
    fld (mkWord h (c + x.toNat * 1048576 + y.toNat * 256)) 8 6 = y := by
  have hx := x.isLt
  have hy := y.isLt
  obtain ⟨N, e⟩ : ∃ N, N = c + x.toNat * 1048576 + y.toNat * 256 := ⟨_, rfl⟩
  rw [← e]
  subst hpat
  have hN : N < 2147483648 := by omega
  exact ⟨hN,
    by omega,
    field_is h N hN 26 5 _ (by decide) (by omega),
    field_is h N hN 0 6 _ (by decide) (by omega),
    fun k => fixed_passes h N hN 0x7c0fc0ff c [(0, 8), (14, 6), (26, 5)] k (by decide) (by decide) (by omega) hp (by
      simp only [List.forall_mem_cons, List.not_mem_nil, false_imp_iff, forall_const, and_true]
      refine ⟨?_, ?_, ?_⟩ <;> omega),
    field_reads h N hN 20 x (by decide) (by omega),
    field_reads h N hN 8 y (by decide) (by omega)⟩

theorem encForm21 (h : Hdr) (c : Nat) (x : BitVec 6) (hc : c < 2147483648 ∧ c / 67108864 ≠ 31 ∧ c / 1048576 % 64 = 0)
    (pat : W32) (hpat : pat = BitVec.ofNat 32 c) (hp : pat &&& 0x7c0fffff = pat) :
    c + x.toNat * 1048576 < 2147483648 ∧
    (c + x.toNat * 1048576) / 67108864 % 32 ≠ 31 ∧
    (fld (mkWord h (c + x.toNat * 1048576)) 26 5).toNat = c / 67108864 ∧
    (fld (mkWord h (c + x.toNat * 1048576)) 0 6).toNat = c / 1 % 64 ∧
    (∀ k, chk (mkWord h (c + x.toNat * 1048576)) 0x7c0fffff pat k = k) ∧
    fld (mkWord h (c + x.toNat * 1048576)) 20 6 = x := by
  have hx := x.isLt
  obtain ⟨N, e⟩ : ∃ N, N = c + x.toNat * 1048576 := ⟨_, rfl⟩
  rw [← e]
  subst hpat
  have hN : N < 2147483648 := by omega
  exact ⟨hN,
    by omega,
    field_is h N hN 26 5 _ (by decide) (by omega),
    field_is h N hN 0 6 _ (by decide) (by omega),
    fun k => fixed_passes h N hN 0x7c0fffff c [(0, 20), (26, 5)] k (by decide) (by decide) (by omega) hp (by
      simp only [List.forall_mem_cons, List.not_mem_nil, false_imp_iff, forall_const, and_true]
      refine ⟨?_, ?_⟩ <;> omega),
    field_reads h N hN 20 x (by decide) (by omega)⟩

theorem encForm22 (h : Hdr) (c : Nat) (x : BitVec 6) (y : BitVec 6) (z : BitVec 6) (u : BitVec 2) (v : BitVec 3) (hc : c < 2147483648 ∧ c / 67108864 ≠ 31 ∧ c / 1048576 % 64 = 0 ∧ c / 16384 % 64 = 0 ∧ c / 256 % 64 = 0 ∧ c / 8 % 4 = 0 ∧ c % 8 = 0)
    (pat : W32) (hpat : pat = BitVec.ofNat 32 c) (hp : pat &&& 0x7c0000e0 = pat) :
    c + x.toNat * 1048576 + y.toNat * 16384 + z.toNat * 256 + u.toNat * 8 + v.toNat < 2147483648 ∧
    (c + x.toNat * 1048576 + y.toNat * 16384 + z.toNat * 256 + u.toNat * 8 + v.toNat) / 67108864 % 32 ≠ 31 ∧
    (fld (mkWord h (c + x.toNat * 1048576 + y.toNat * 16384 + z.toNat * 256 + u.toNat * 8 + v.toNat)) 26 5).toNat = c / 67108864 ∧
    (fld (mkWord h (c + x.toNat * 1048576 + y.toNat * 16384 + z.toNat * 256 + u.toNat * 8 + v.toNat)) 5 3).toNat = c / 32 % 8 ∧
    (∀ k, chk (mkWord h (c + x.toNat * 1048576 + y.toNat * 16384 + z.toNat * 256 + u.toNat * 8 + v.toNat)) 0x7c0000e0 pat k = k) ∧
    fld (mkWord h (c + x.toNat * 1048576 + y.toNat * 16384 + z.toNat * 256 + u.toNat * 8 + v.toNat)) 20 6 = x ∧
    fld (mkWord h (c + x.toNat * 1048576 + y.toNat * 16384 + z.toNat * 256 + u.toNat * 8 + v.toNat)) 14 6 = y ∧
    fld (mkWord h (c + x.toNat * 1048576 + y.toNat * 16384 + z.toNat * 256 + u.toNat * 8 + v.toNat)) 8 6 = z ∧
    fld (mkWord h (c + x.toNat * 1048576 + y.toNat * 16384 + z.toNat * 256 + u.toNat * 8 + v.toNat)) 3 2 = u ∧
    fld (mkWord h (c + x.toNat * 1048576 + y.toNat * 16384 + z.toNat * 256 + u.toNat * 8 + v.toNat)) 0 3 = v := by
  have hx := x.isLt
  have hy := y.isLt
  have hz := z.isLt
  have hu := u.isLt
  have hv := v.isLt
  obtain ⟨N, e⟩ : ∃ N, N = c + x.toNat * 1048576 + y.toNat * 16384 + z.toNat * 256 + u.toNat * 8 + v.toNat := ⟨_, rfl⟩
  rw [← e]
  subst hpat
  have hN : N < 2147483648 := by omega
  exact ⟨hN,
    by omega,
    field_is h N hN 26 5 _ (by decide) (by omega),
    field_is h N hN 5 3 _ (by decide) (by omega),
    fun k => fixed_passes h N hN 0x7c0000e0 c [(5, 3), (26, 5)] k (by decide) (by decide) (by omega) hp (by
      simp only [List.forall_mem_cons, List.not_mem_nil, false_imp_iff, forall_const, and_true]
      refine ⟨?_, ?_⟩ <;> omega),
    field_reads h N hN 20 x (by decide) (by omega),
    field_reads h N hN 14 y (by decide) (by omega),
    field_reads h N hN 8 z (by decide) (by omega),
    field_reads h N hN 3 u (by decide) (by omega),
    field_reads h N hN 0 v (by decide) (by omega)⟩

theorem encForm23 (h : Hdr) (c : Nat) (x : BitVec 6) (y : BitVec 6) (hc : c < 2147483648 ∧ c / 67108864 ≠ 31 ∧ c / 16384 % 64 = 0 ∧ c / 256 % 64 = 0)
    (pat : W32) (hpat : pat = BitVec.ofNat 32 c) (hp : pat &&& 0x7ff000ff = pat) :
    c + x.toNat * 16384 + y.toNat * 256 < 2147483648 ∧
    (c + x.toNat * 16384 + y.toNat * 256) / 67108864 % 32 ≠ 31 ∧
    (fld (mkWord h (c + x.toNat * 16384 + y.toNat * 256)) 26 5).toNat = c / 67108864 ∧
    (fld (mkWord h (c + x.toNat * 16384 + y.toNat * 256)) 0 6).toNat = c / 1 % 64 ∧
    (∀ k, chk (mkWord h (c + x.toNat * 16384 + y.toNat * 256)) 0x7ff000ff pat k = k) ∧
    fld (mkWord h (c + x.toNat * 16384 + y.toNat * 256)) 14 6 = x ∧
    fld (mkWord h (c + x.toNat * 16384 + y.toNat * 256)) 8 6 = y := by
  have hx := x.isLt
  have hy := y.isLt
  obtain ⟨N, e⟩ : ∃ N, N = c + x.toNat * 16384 + y.toNat * 256 := ⟨_, rfl⟩
  rw [← e]
  subst hpat
  have hN : N < 2147483648 := by omega
  exact ⟨hN,
    by omega,
    field_is h N hN 26 5 _ (by decide) (by omega),
    field_is h N hN 0 6 _ (by decide) (by omega),
    fun k => fixed_passes h N hN 0x7ff000ff c [(0, 8), (20, 11)] k (by decide) (by decide) (by omega) hp (by
      simp only [List.forall_mem_cons, List.not_mem_nil, false_imp_iff, forall_const, and_true]
      refine ⟨?_, ?_⟩ <;> omega),
    field_reads h N hN 14 x (by decide) (by omega),
    field_reads h N hN 8 y (by decide) (by omega)⟩

theorem encForm24 (h : Hdr) (c : Nat) (x : BitVec 6) (hc : c < 2147483648 ∧ c / 67108864 ≠ 31 ∧ c / 16384 % 64 = 0)
    (pat : W32) (hpat : pat = BitVec.ofNat 32 c) (hp : pat &&& 0x7ff03fff = pat) :
    c + x.toNat * 16384 < 2147483648 ∧
    (c + x.toNat * 16384) / 67108864 % 32 ≠ 31 ∧
    (fld (mkWord h (c + x.toNat * 16384)) 26 5).toNat = c / 67108864 ∧
    (fld (mkWord h (c + x.toNat * 16384)) 0 6).toNat = c / 1 % 64 ∧
    (fld (mkWord h (c + x.toNat * 16384)) 8 6).toNat = c / 256 % 64 ∧
    (∀ k, chk (mkWord h (c + x.toNat * 16384)) 0x7ff03fff pat k = k) ∧
    fld (mkWord h (c + x.toNat * 16384)) 14 6 = x := by
  have hx := x.isLt
  obtain ⟨N, e⟩ : ∃ N, N = c + x.toNat * 16384 := ⟨_, rfl⟩
  rw [← e]
  subst hpat
  have hN : N < 2147483648 := by omega
  exact ⟨hN,
    by omega,
    field_is h N hN 26 5 _ (by decide) (by omega),
    field_is h N hN 0 6 _ (by decide) (by omega),
    field_is h N hN 8 6 _ (by decide) (by omega),
    fun k => fixed_passes h N hN 0x7ff03fff c [(0, 14), (20, 11)] k (by decide) (by decide) (by omega) hp (by
      simp only [List.forall_mem_cons, List.not_mem_nil, false_imp_iff, forall_const, and_true]
      refine ⟨?_, ?_⟩ <;> omega),
    field_reads h N hN 14 x (by decide) (by omega)⟩

theorem encForm25 (h : Hdr) (c : Nat) (x : BitVec 6) (y : BitVec 6) (z : BitVec 6) (u : BitVec 3) (hc : c < 2147483648 ∧ c / 67108864 ≠ 31 ∧ c / 1048576 % 64 = 0 ∧ c / 16384 % 64 = 0 ∧ c / 256 % 64 = 0 ∧ c / 2 % 8 = 0)
    (pat : W32) (hpat : pat = BitVec.ofNat 32 c) (hp : pat &&& 0x7c0000f1 = pat) :
    c + x.toNat * 1048576 + y.toNat * 16384 + z.toNat * 256 + u.toNat * 2 < 2147483648 ∧
    (c + x.toNat * 1048576 + y.toNat * 16384 + z.toNat * 256 + u.toNat * 2) / 67108864 % 32 ≠ 31 ∧
    (fld (mkWord h (c + x.toNat * 1048576 + y.toNat * 16384 + z.toNat * 256 + u.toNat * 2)) 26 5).toNat = c / 67108864 ∧
    (fld (mkWord h (c + x.toNat * 1048576 + y.toNat * 16384 + z.toNat * 256 + u.toNat * 2)) 4 4).toNat = c / 16 % 16 ∧
    (∀ k, chk (mkWord h (c + x.toNat * 1048576 + y.toNat * 16384 + z.toNat * 256 + u.toNat * 2)) 0x7c0000f1 pat k = k) ∧
    fld (mkWord h (c + x.toNat * 1048576 + y.toNat * 16384 + z.toNat * 256 + u.toNat * 2)) 20 6 = x ∧
    fld (mkWord h (c + x.toNat * 1048576 + y.toNat * 16384 + z.toNat * 256 + u.toNat * 2)) 14 6 = y ∧
    fld (mkWord h (c + x.toNat * 1048576 + y.toNat * 16384 + z.toNat * 256 + u.toNat * 2)) 8 6 = z ∧
    fld (mkWord h (c + x.toNat * 1048576 + y.toNat * 16384 + z.toNat * 256 + u.toNat * 2)) 1 3 = u := by
  have hx := x.isLt
  have hy := y.isLt
  have hz := z.isLt
  have hu := u.isLt
  obtain ⟨N, e⟩ : ∃ N, N = c + x.toNat * 1048576 + y.toNat * 16384 + z.toNat * 256 + u.toNat * 2 := ⟨_, rfl⟩
  rw [← e]
  subst hpat
  have hN : N < 2147483648 := by omega
  exact ⟨hN,
    by omega,
    field_is h N hN 26 5 _ (by decide) (by omega),
    field_is h N hN 4 4 _ (by decide) (by omega),
    fun k => fixed_passes h N hN 0x7c0000f1 c [(0, 1), (4, 4), (26, 5)] k (by decide) (by decide) (by omega) hp (by
      simp only [List.forall_mem_cons, List.not_mem_nil, false_imp_iff, forall_const, and_true]
      refine ⟨?_, ?_, ?_⟩ <;> omega),
    field_reads h N hN 20 x (by decide) (by omega),
    field_reads h N hN 14 y (by decide) (by omega),
    field_reads h N hN 8 z (by decide) (by omega),
    field_reads h N hN 1 u (by decide) (by omega)⟩

theorem encForm26 (h : Hdr) (c : Nat) (x : BitVec 3) (hc : c < 2147483648 ∧ c / 67108864 ≠ 31 ∧ c / 2048 % 8 = 0)
    (pat : W32) (hpat : pat = BitVec.ofNat 32 c) (hp : pat &&& 0x7fffc7ff = pat) :
    c + x.toNat * 2048 < 2147483648 ∧
    (c + x.toNat * 2048) / 67108864 % 32 ≠ 31 ∧
    (fld (mkWord h (c + x.toNat * 2048)) 26 5).toNat = c / 67108864 ∧
    (fld (mkWord h (c + x.toNat * 2048)) 0 6).toNat = c / 1 % 64 ∧
    (fld (mkWord h (c + x.toNat * 2048)) 8 2).toNat = c / 256 % 4 ∧
    (∀ k, chk (mkWord h (c + x.toNat * 2048)) 0x7fffc7ff pat k = k) ∧
    fld (mkWord h (c + x.toNat * 2048)) 11 3 = x := by
  have hx := x.isLt
  obtain ⟨N, e⟩ : ∃ N, N = c + x.toNat * 2048 := ⟨_, rfl⟩
  rw [← e]
  subst hpat
  have hN : N < 2147483648 := by omega
  exact ⟨hN,
    by omega,
    field_is h N hN 26 5 _ (by decide) (by omega),
    field_is h N hN 0 6 _ (by decide) (by omega),
    field_is h N hN 8 2 _ (by decide) (by omega),
    fun k => fixed_passes h N hN 0x7fffc7ff c [(0, 11), (14, 17)] k (by decide) (by decide) (by omega) hp (by
      simp only [List.forall_mem_cons, List.not_mem_nil, false_imp_iff, forall_const, and_true]
      refine ⟨?_, ?_⟩ <;> omega),
    field_reads h N hN 11 x (by decide) (by omega)⟩

theorem encForm27 (h : Hdr) (c : Nat) (hc : c < 2147483648 ∧ c / 67108864 ≠ 31)
    (pat : W32) (hpat : pat = BitVec.ofNat 32 c) (hp : pat &&& 0x7fffffff = pat) :
    c < 2147483648 ∧
    (c) / 67108864 % 32 ≠ 31 ∧
    (fld (mkWord h (c)) 26 5).toNat = c / 67108864 ∧
    (fld (mkWord h (c)) 0 6).toNat = c / 1 % 64 ∧
    (fld (mkWord h (c)) 8 2).toNat = c / 256 % 4 ∧
    (∀ k, chk (mkWord h (c)) 0x7fffffff pat k = k) := by
  obtain ⟨N, e⟩ : ∃ N, N = c := ⟨_, rfl⟩
  rw [← e]
  subst hpat
  have hN : N < 2147483648 := by omega
  exact ⟨hN,
    by omega,
    field_is h N hN 26 5 _ (by decide) (by omega),
    field_is h N hN 0 6 _ (by decide) (by omega),
    field_is h N hN 8 2 _ (by decide) (by omega),
    fun k => fixed_passes h N hN 0x7fffffff c [(0, 31)] k (by decide) (by decide) (by omega) hp (by
      simp only [List.forall_mem_cons, List.not_mem_nil, false_imp_iff, forall_const, and_true]
      omega)⟩

theorem encForm28 (h : Hdr) (c : Nat) (x : BitVec 3) (y : BitVec 6) (z : BitVec 6) (hc : c < 2147483648 ∧ c / 67108864 ≠ 31 ∧ c / 1048576 % 8 = 0 ∧ c / 16384 % 64 = 0 ∧ c / 256 % 64 = 0)
    (pat : W32) (hpat : pat = BitVec.ofNat 32 c) (hp : pat &&& 0x7f8000ff = pat) :
    c + x.toNat * 1048576 + y.toNat * 16384 + z.toNat * 256 < 2147483648 ∧
    (c + x.toNat * 1048576 + y.toNat * 16384 + z.toNat * 256) / 67108864 % 32 ≠ 31 ∧
    (fld (mkWord h (c + x.toNat * 1048576 + y.toNat * 16384 + z.toNat * 256)) 26 5).toNat = c / 67108864 ∧
    (fld (mkWord h (c + x.toNat * 1048576 + y.toNat * 16384 + z.toNat * 256)) 0 6).toNat = c / 1 % 64 ∧
    (∀ k, chk (mkWord h (c + x.toNat * 1048576 + y.toNat * 16384 + z.toNat * 256)) 0x7f8000ff pat k = k) ∧
    fld (mkWord h (c + x.toNat * 1048576 + y.toNat * 16384 + z.toNat * 256)) 20 3 = x ∧
    fld (mkWord h (c + x.toNat * 1048576 + y.toNat * 16384 + z.toNat * 256)) 14 6 = y ∧
    fld (mkWord h (c + x.toNat * 1048576 + y.toNat * 16384 + z.toNat * 256)) 8 6 = z := by
  have hx := x.isLt
  have hy := y.isLt
  have hz := z.isLt
  obtain ⟨N, e⟩ : ∃ N, N = c + x.toNat * 1048576 + y.toNat * 16384 + z.toNat * 256 := ⟨_, rfl⟩
  rw [← e]
  subst hpat
  have hN : N < 2147483648 := by omega
  exact ⟨hN,
    by omega,
    field_is h N hN 26 5 _ (by decide) (by omega),
    field_is h N hN 0 6 _ (by decide) (by omega),
    fun k => fixed_passes h N hN 0x7f8000ff c [(0, 8), (23, 8)] k (by decide) (by decide) (by omega) hp (by
      simp only [List.forall_mem_cons, List.not_mem_nil, false_imp_iff, forall_const, and_true]
      refine ⟨?_, ?_⟩ <;> omega),
    field_reads h N hN 20 x (by decide) (by omega),
    field_reads h N hN 14 y (by decide) (by omega),
    field_reads h N hN 8 z (by decide) (by omega)⟩

theorem encForm29 (h : Hdr) (c : Nat) (x : BitVec 3) (hc : c < 2147483648 ∧ c / 67108864 ≠ 31 ∧ c / 1048576 % 64 = 0)
    (pat : W32) (hpat : pat = BitVec.ofNat 32 c) (hp : pat &&& 0x7c0fffff = pat) :
    c + x.toNat * 1048576 < 2147483648 ∧
    (c + x.toNat * 1048576) / 67108864 % 32 ≠ 31 ∧
    (fld (mkWord h (c + x.toNat * 1048576)) 26 5).toNat = c / 67108864 ∧
    (fld (mkWord h (c + x.toNat * 1048576)) 0 6).toNat = c / 1 % 64 ∧
    (∀ k, chk (mkWord h (c + x.toNat * 1048576)) 0x7c0fffff pat k = k) ∧
    (∀ k, cls3 (mkWord h (c + x.toNat * 1048576)) 20 k = k x) := by
  have hx := x.isLt
  obtain ⟨N, e⟩ : ∃ N, N = c + x.toNat * 1048576 := ⟨_, rfl⟩
  rw [← e]
  subst hpat
  have hN : N < 2147483648 := by omega
  exact ⟨hN,
    by omega,
    field_is h N hN 26 5 _ (by decide) (by omega),
    field_is h N hN 0 6 _ (by decide) (by omega),
    fun k => fixed_passes h N hN 0x7c0fffff c [(0, 20), (26, 5)] k (by decide) (by decide) (by omega) hp (by
      simp only [List.forall_mem_cons, List.not_mem_nil, false_imp_iff, forall_const, and_true]
      refine ⟨?_, ?_⟩ <;> omega),
    fun k => cls3_passes h N hN 20 x k (by decide) (by omega)⟩

theorem encForm30 (h : Hdr) (c : Nat) (x : BitVec 3) (y : BitVec 6) (z : BitVec 6) (hc : c < 2147483648 ∧ c / 67108864 ≠ 31 ∧ c / 1048576 % 64 = 0 ∧ c / 16384 % 64 = 0 ∧ c / 256 % 64 = 0)
    (pat : W32) (hpat : pat = BitVec.ofNat 32 c) (hp : pat &&& 0x7c0000ff = pat) :
    c + x.toNat * 1048576 + y.toNat * 16384 + z.toNat * 256 < 2147483648 ∧
    (c + x.toNat * 1048576 + y.toNat * 16384 + z.toNat * 256) / 67108864 % 32 ≠ 31 ∧
    (fld (mkWord h (c + x.toNat * 1048576 + y.toNat * 16384 + z.toNat * 256)) 26 5).toNat = c / 67108864 ∧
    (fld (mkWord h (c + x.toNat * 1048576 + y.toNat * 16384 + z.toNat * 256)) 0 6).toNat = c / 1 % 64 ∧
    (∀ k, chk (mkWord h (c + x.toNat * 1048576 + y.toNat * 16384 + z.toNat * 256)) 0x7c0000ff pat k = k) ∧
    (∀ k, cls3 (mkWord h (c + x.toNat * 1048576 + y.toNat * 16384 + z.toNat * 256)) 20 k = k x) ∧
    fld (mkWord h (c + x.toNat * 1048576 + y.toNat * 16384 + z.toNat * 256)) 14 6 = y ∧
    fld (mkWord h (c + x.toNat * 1048576 + y.toNat * 16384 + z.toNat * 256)) 8 6 = z := by
  have hx := x.isLt
  have hy := y.isLt
  have hz := z.isLt
  obtain ⟨N, e⟩ : ∃ N, N = c + x.toNat * 1048576 + y.toNat * 16384 + z.toNat * 256 := ⟨_, rfl⟩
  rw [← e]
  subst hpat
  have hN : N < 2147483648 := by omega
  exact ⟨hN,
    by omega,
    field_is h N hN 26 5 _ (by decide) (by omega),
    field_is h N hN 0 6 _ (by decide) (by omega),
    fun k => fixed_passes h N hN 0x7c0000ff c [(0, 8), (26, 5)] k (by decide) (by decide) (by omega) hp (by
      simp only [List.forall_mem_cons, List.not_mem_nil, false_imp_iff, forall_const, and_true]
      refine ⟨?_, ?_⟩ <;> omega),
    fun k => cls3_passes h N hN 20 x k (by decide) (by omega),
    field_reads h N hN 14 y (by decide) (by omega),
    field_reads h N hN 8 z (by decide) (by omega)⟩

theorem encForm31 (h : Hdr) (c : Nat) (x : BitVec 3) (hc : c < 2147483648 ∧ c / 67108864 ≠ 31 ∧ c / 16384 % 64 = 0)
    (pat : W32) (hpat : pat = BitVec.ofNat 32 c) (hp : pat &&& 0x7ff03fff = pat) :
    c + x.toNat * 16384 < 2147483648 ∧
    (c + x.toNat * 16384) / 67108864 % 32 ≠ 31 ∧
    (fld (mkWord h (c + x.toNat * 16384)) 26 5).toNat = c / 67108864 ∧
    (fld (mkWord h (c + x.toNat * 16384)) 0 6).toNat = c / 1 % 64 ∧
    (∀ k, chk (mkWord h (c + x.toNat * 16384)) 0x7ff03fff pat k = k) ∧
    (∀ k, cls3 (mkWord h (c + x.toNat * 16384)) 14 k = k x) := by
  have hx := x.isLt
  obtain ⟨N, e⟩ : ∃ N, N = c + x.toNat * 16384 := ⟨_, rfl⟩
  rw [← e]
  subst hpat
  have hN : N < 2147483648 := by omega
  exact ⟨hN,
    by omega,
    field_is h N hN 26 5 _ (by decide) (by omega),
    field_is h N hN 0 6 _ (by decide) (by omega),
    fun k => fixed_passes h N hN 0x7ff03fff c [(0, 14), (20, 11)] k (by decide) (by decide) (by omega) hp (by
      simp only [List.forall_mem_cons, List.not_mem_nil, false_imp_iff, forall_const, and_true]
      refine ⟨?_, ?_⟩ <;> omega),
    fun k => cls3_passes h N hN 14 x k (by decide) (by omega)⟩

/-! ### The constructors -/

open ReadsBack

theorem ReadsBack.memoryWritePerform (id : Nat) : Statement (.memoryWritePerform id) := readsBack_step rfl

theorem ReadsBack.atomicPerform (uid : Nat) (wid : Nat) (slot : Nat) (pa : Nat) : Statement (.atomicPerform uid wid slot pa) := readsBack_step rfl

theorem ReadsBack.txCommitValidate (uid : Nat) (wid : Nat) (lane : Nat) : Statement (.txCommitValidate uid wid lane) := readsBack_step rfl

theorem ReadsBack.wlputAnswer (launch : Nat) (index : Nat) : Statement (.wlputAnswer launch index) := readsBack_step rfl

theorem ReadsBack.launchQuiet (launch : Nat) : Statement (.launchQuiet launch) := readsBack_step rfl

theorem ReadsBack.mstBufferComplete (quarter : Nat) : Statement (.mstBufferComplete quarter) := readsBack_step rfl

theorem ReadsBack.matrixOpComplete (quarter : Nat) : Statement (.matrixOpComplete quarter) := readsBack_step rfl

theorem ReadsBack.streamStartPhaseEnd (uid : Nat) (wid : Nat) : Statement (.streamStartPhaseEnd uid wid) := readsBack_step rfl

theorem ReadsBack.copyJobStart (ctxn : Nat) (handle : Nat) (num : Nat) : Statement (.copyJobStart ctxn handle num) := readsBack_step rfl

theorem ReadsBack.fillSectorArrival (ctxn : Nat) (handle : Nat) (num : Nat) (sector : Nat) : Statement (.fillSectorArrival ctxn handle num sector) := readsBack_step rfl

theorem ReadsBack.copyJobRetire (ctxn : Nat) (handle : Nat) (num : Nat) : Statement (.copyJobRetire ctxn handle num) := readsBack_step rfl

theorem ReadsBack.chainJobRetire (ctxn : Nat) (handle : Nat) (num : Nat) : Statement (.chainJobRetire ctxn handle num) := readsBack_step rfl

theorem ReadsBack.pairJobStart (quad : Nat) : Statement (.pairJobStart quad) := readsBack_step rfl

theorem ReadsBack.pairJobSuspend (ctxn : Nat) (handle : Nat) (num : Nat) : Statement (.pairJobSuspend ctxn handle num) := readsBack_step rfl

theorem ReadsBack.pairJobRetire (ctxn : Nat) (handle : Nat) (num : Nat) : Statement (.pairJobRetire ctxn handle num) := readsBack_step rfl

theorem ReadsBack.fabricInstanceComplete (pid : Nat) (route : Nat) (inst : Nat) : Statement (.fabricInstanceComplete pid route inst) := readsBack_step rfl

theorem ReadsBack.amArrival (index : Nat) : Statement (.amArrival index) := readsBack_step rfl

theorem ReadsBack.amsendJobRetire (ctxn : Nat) (handle : Nat) (num : Nat) : Statement (.amsendJobRetire ctxn handle num) := readsBack_step rfl

theorem ReadsBack.packetDecode (uid : Nat) (wid : Nat) (lane : Nat) : Statement (.packetDecode uid wid lane) := readsBack_step rfl

theorem ReadsBack.waveSwap (uid : Nat) (wid : Nat) : Statement (.waveSwap uid wid) := readsBack_step rfl

theorem ReadsBack.forcedSwap (quarter : Nat) : Statement (.forcedSwap quarter) := readsBack_step rfl

theorem ReadsBack.replyWrite (uid : Nat) (wid : Nat) (slot : Nat) (lanes : Lanes) (stale : Nat) : Statement (.replyWrite uid wid slot lanes stale) := readsBack_step rfl

theorem ReadsBack.regLineFill (uid : Nat) (wid : Nat) (reg : Nat) : Statement (.regLineFill uid wid reg) := readsBack_step rfl

theorem ReadsBack.pageWalk (die : Nat) (quarter : Nat) (ctxn : Nat) (va : Nat) : Statement (.pageWalk die quarter ctxn va) := readsBack_step rfl

theorem ReadsBack.commitTokenHandoff (launch : Nat) : Statement (.commitTokenHandoff launch) := readsBack_step rfl

theorem ReadsBack.asyncCauseTake (uid : Nat) : Statement (.asyncCauseTake uid) := readsBack_step rfl

theorem ReadsBack.qtailWrite (via : Via) (die : Nat) (pslot : Nat) (q : Nat) (value : W64) : Statement (.qtailWrite via die pslot q value) := readsBack_step rfl

theorem ReadsBack.queueEnable (via : Via) (die : Nat) (pslot : Nat) (q : Nat) (value : W64) : Statement (.queueEnable via die pslot q value) := readsBack_step rfl

theorem ReadsBack.queueDisable (via : Via) (die : Nat) (pslot : Nat) (q : Nat) (value : W64) : Statement (.queueDisable via die pslot q value) := readsBack_step rfl

theorem ReadsBack.queueRetry (via : Via) (die : Nat) (pslot : Nat) (q : Nat) (value : W64) : Statement (.queueRetry via die pslot q value) := readsBack_step rfl

theorem ReadsBack.queueSkip (via : Via) (die : Nat) (pslot : Nat) (q : Nat) (value : W64) : Statement (.queueSkip via die pslot q value) := readsBack_step rfl

theorem ReadsBack.launchTake (die : Nat) (pslot : Nat) (q : Nat) : Statement (.launchTake die pslot q) := readsBack_step rfl

theorem ReadsBack.blockPlace (die : Nat) (pid : Nat) : Statement (.blockPlace die pid) := readsBack_step rfl

theorem ReadsBack.blockEnd (uid : Nat) : Statement (.blockEnd uid) := readsBack_step rfl

theorem ReadsBack.launchComplete (launch : Nat) : Statement (.launchComplete launch) := readsBack_step rfl

theorem ReadsBack.preempt (uid : Nat) : Statement (.preempt uid) := readsBack_step rfl

theorem ReadsBack.blockHalt (uid : Nat) (keep : List Nat) : Statement (.blockHalt uid keep) := readsBack_step rfl

theorem ReadsBack.blockStopped (uid : Nat) : Statement (.blockStopped uid) := readsBack_step rfl

theorem ReadsBack.droneWrite (via : Via) (die : Nat) (pslot : Nat) (off : Nat) (value : W64) : Statement (.droneWrite via die pslot off value) := readsBack_step rfl

theorem ReadsBack.dronePlace (die : Nat) (pid : Nat) : Statement (.dronePlace die pid) := readsBack_step rfl

theorem ReadsBack.watchdog (uid : Nat) : Statement (.watchdog uid) := readsBack_step rfl

theorem ReadsBack.externalStall (uid : Nat) (wid : Nat) : Statement (.externalStall uid wid) := readsBack_step rfl

theorem ReadsBack.repeatTrap (uid : Nat) : Statement (.repeatTrap uid) := readsBack_step rfl

theorem ReadsBack.flitDrop (die : Nat) (flit : Flit) (reason : Nat) (ans : DropAnswer) : Statement (.flitDrop die flit reason ans) := readsBack_step rfl

theorem ReadsBack.tlbinvJobComplete (ctxn : Nat) (handle : Nat) (num : Nat) : Statement (.tlbinvJobComplete ctxn handle num) := readsBack_step rfl

theorem ReadsBack.contextTeardown (ctxn : Nat) : Statement (.contextTeardown ctxn) := readsBack_step rfl

theorem ReadsBack.splitcfgWrite (via : Via) (die : Nat) (tile : Nat) (value : W64) : Statement (.splitcfgWrite via die tile value) := readsBack_step rfl

theorem ReadsBack.semownWrite (via : Via) (die : Nat) (index : Nat) (value : W64) : Statement (.semownWrite via die index value) := readsBack_step rfl

theorem ReadsBack.pstateCmdRun (via : Via) (pid : Nat) (value : W64) : Statement (.pstateCmdRun via pid value) := readsBack_step rfl

theorem ReadsBack.pstateCmdFreeze (via : Via) (pid : Nat) (value : W64) : Statement (.pstateCmdFreeze via pid value) := readsBack_step rfl

theorem ReadsBack.pstateCmdStop (via : Via) (pid : Nat) (value : W64) : Statement (.pstateCmdStop via pid value) := readsBack_step rfl

theorem ReadsBack.pstateCmdDrain (via : Via) (pid : Nat) (value : W64) : Statement (.pstateCmdDrain via pid value) := readsBack_step rfl

theorem ReadsBack.pstateCmdFlush (via : Via) (pid : Nat) (value : W64) : Statement (.pstateCmdFlush via pid value) := readsBack_step rfl

theorem ReadsBack.pstateCmdRemap (via : Via) (pid : Nat) (value : W64) : Statement (.pstateCmdRemap via pid value) := readsBack_step rfl

theorem ReadsBack.quiesceStateDone (pid : Nat) : Statement (.quiesceStateDone pid) := readsBack_step rfl

theorem ReadsBack.tileProbe (silent erring : List (Nat × Nat)) : Statement (.tileProbe silent erring) := readsBack_step rfl

theorem ReadsBack.shapereqGrow (pid : Nat) (value : W64) : Statement (.shapereqGrow pid value) := readsBack_step rfl

theorem ReadsBack.shapereqShrink (pid : Nat) (value : W64) : Statement (.shapereqShrink pid value) := readsBack_step rfl

theorem ReadsBack.shapereqCompact (pid : Nat) (value : W64) : Statement (.shapereqCompact pid value) := readsBack_step rfl

theorem ReadsBack.shapereqMigrate (pid : Nat) (value : W64) : Statement (.shapereqMigrate pid value) := readsBack_step rfl

theorem ReadsBack.doorbell (pid : Nat) (value : W64) : Statement (.doorbell pid value) := readsBack_step rfl

theorem ReadsBack.killWave (pid : Nat) (value : W64) : Statement (.killWave pid value) := readsBack_step rfl

theorem ReadsBack.killBlock (pid : Nat) (value : W64) : Statement (.killBlock pid value) := readsBack_step rfl

theorem ReadsBack.partitionReset (pid : Nat) : Statement (.partitionReset pid) := readsBack_step rfl

theorem ReadsBack.partitionResetComplete (pid : Nat) : Statement (.partitionResetComplete pid) := readsBack_step rfl

theorem ReadsBack.ldReset (ld : Nat) : Statement (.ldReset ld) := readsBack_step rfl

theorem ReadsBack.stopInterface (pid : Nat) : Statement (.stopInterface pid) := readsBack_step rfl

theorem ReadsBack.msixUnmask (pid : Nat) (vector : Nat) : Statement (.msixUnmask pid vector) := readsBack_step rfl

theorem ReadsBack.inboundMemoryRequest (req : Inbound) : Statement (.inboundMemoryRequest req) := readsBack_step rfl

theorem ReadsBack.feataccWrite (via : Via) (word : Nat) (value : W64) : Statement (.feataccWrite via word value) := readsBack_step rfl

theorem ReadsBack.keyCreate (via : Via) (value : W64) : Statement (.keyCreate via value) := readsBack_step rfl

theorem ReadsBack.keyDestroy (via : Via) (value : W64) : Statement (.keyDestroy via value) := readsBack_step rfl

theorem ReadsBack.edgeReqOff (via : Via) (group : Nat) (value : W64) : Statement (.edgeReqOff via group value) := readsBack_step rfl

theorem ReadsBack.edgeReqCxl (via : Via) (group : Nat) (value : W64) : Statement (.edgeReqCxl via group value) := readsBack_step rfl

theorem ReadsBack.edgeReqUalink (via : Via) (group : Nat) (value : W64) : Statement (.edgeReqUalink via group value) := readsBack_step rfl

theorem ReadsBack.edgeReqUltraEthernet (via : Via) (group : Nat) (value : W64) : Statement (.edgeReqUltraEthernet via group value) := readsBack_step rfl

theorem ReadsBack.edgeDrainComplete (group : Nat) : Statement (.edgeDrainComplete group) := readsBack_step rfl

theorem ReadsBack.edgeTrainComplete (group : Nat) (rate : Nat) (lanes : Nat) : Statement (.edgeTrainComplete group rate lanes) := readsBack_step rfl

theorem ReadsBack.edgeTrainTimeout (group : Nat) : Statement (.edgeTrainTimeout group) := readsBack_step rfl

theorem ReadsBack.edgeEnumComplete (group : Nat) : Statement (.edgeEnumComplete group) := readsBack_step rfl

theorem ReadsBack.linkLost (group : Nat) : Statement (.linkLost group) := readsBack_step rfl

theorem ReadsBack.hbmReset (via : Via) (stack : Nat) (value : W64) : Statement (.hbmReset via stack value) := readsBack_step rfl

theorem ReadsBack.hbmZqcal (via : Via) (stack : Nat) (value : W64) : Statement (.hbmZqcal via stack value) := readsBack_step rfl

theorem ReadsBack.hbmCatrain (via : Via) (stack : Nat) (value : W64) : Statement (.hbmCatrain via stack value) := readsBack_step rfl

theorem ReadsBack.hbmRdtrain (via : Via) (stack : Nat) (value : W64) : Statement (.hbmRdtrain via stack value) := readsBack_step rfl

theorem ReadsBack.hbmWrtrain (via : Via) (stack : Nat) (value : W64) : Statement (.hbmWrtrain via stack value) := readsBack_step rfl

theorem ReadsBack.hbmRepair (via : Via) (stack : Nat) (value : W64) : Statement (.hbmRepair via stack value) := readsBack_step rfl

theorem ReadsBack.hbmMemtest (via : Via) (stack : Nat) (value : W64) : Statement (.hbmMemtest via stack value) := readsBack_step rfl

theorem ReadsBack.hbmEnable (via : Via) (stack : Nat) (value : W64) : Statement (.hbmEnable via stack value) := readsBack_step rfl

theorem ReadsBack.hbmOpComplete (stack : Nat) (pass : Bool) (repaired : Nat) : Statement (.hbmOpComplete stack pass repaired) := readsBack_step rfl

theorem ReadsBack.patrolScrub (pa : Nat) (store : Nat) (bad : Bool) : Statement (.patrolScrub pa store bad) := readsBack_step rfl

theorem ReadsBack.bistGo (via : Via) (value : W64) : Statement (.bistGo via value) := readsBack_step rfl

theorem ReadsBack.bistComplete (results : List (Nat × W64)) : Statement (.bistComplete results) := readsBack_step rfl

theorem ReadsBack.timeRun (via : Via) (value : W64) : Statement (.timeRun via value) := readsBack_step rfl

theorem ReadsBack.freqChangeRequest (via : Via) (value : W64) : Statement (.freqChangeRequest via value) := readsBack_step rfl

theorem ReadsBack.freqChangeApply : Statement (.freqChangeApply) := readsBack_step rfl

theorem ReadsBack.limiterCheck (power : Nat) (temps : List (Nat × Nat)) : Statement (.limiterCheck power temps) := readsBack_step rfl

theorem ReadsBack.thermalTrip (die : Nat) (tj : Nat) : Statement (.thermalTrip die tj) := readsBack_step rfl

theorem ReadsBack.railWrite (via : Via) (rail : Nat) (value : W64) : Statement (.railWrite via rail value) := readsBack_step rfl

theorem ReadsBack.railPgood (rail : Nat) (mv : Nat) : Statement (.railPgood rail mv) := readsBack_step rfl

theorem ReadsBack.idcheck (via : Via) (value : W64) : Statement (.idcheck via value) := readsBack_step rfl

theorem ReadsBack.verifyxip (via : Via) (value : W64) : Statement (.verifyxip via value) := readsBack_step rfl

theorem ReadsBack.securityOpComplete (nonce : List Byte) (answer : Option (List Byte)) : Statement (.securityOpComplete nonce answer) := readsBack_step rfl

theorem ReadsBack.xipLock (via : Via) (value : W64) : Statement (.xipLock via value) := readsBack_step rfl

theorem ReadsBack.loadgo (via : Via) (value : W64) : Statement (.loadgo via value) := readsBack_step rfl

theorem ReadsBack.rimrun (via : Via) (value : W64) : Statement (.rimrun via value) := readsBack_step rfl

theorem ReadsBack.moduleReset : Statement (.moduleReset) := readsBack_step rfl

theorem ReadsBack.mepRead (frame : List Byte) : Statement (.mepRead frame) := readsBack_step rfl

theorem ReadsBack.mepWrite (frame : List Byte) : Statement (.mepWrite frame) := readsBack_step rfl

theorem ReadsBack.mepReset (frame : List Byte) : Statement (.mepReset frame) := readsBack_step rfl

theorem ReadsBack.getVersion (ld : Nat) (msg : List Byte) : Statement (.getVersion ld msg) := readsBack_step rfl

theorem ReadsBack.getCapabilities (ld : Nat) (msg : List Byte) : Statement (.getCapabilities ld msg) := readsBack_step rfl

theorem ReadsBack.negotiateAlgorithms (ld : Nat) (msg : List Byte) : Statement (.negotiateAlgorithms ld msg) := readsBack_step rfl

theorem ReadsBack.getDigests (ld : Nat) (msg : List Byte) : Statement (.getDigests ld msg) := readsBack_step rfl

theorem ReadsBack.getCertificate (ld : Nat) (msg : List Byte) : Statement (.getCertificate ld msg) := readsBack_step rfl

theorem ReadsBack.challenge (ld : Nat) (msg : List Byte) : Statement (.challenge ld msg) := readsBack_step rfl

theorem ReadsBack.getMeasurements (ld : Nat) (vf : Option Nat) (msg : List Byte) : Statement (.getMeasurements ld vf msg) := readsBack_step rfl

theorem ReadsBack.setCertificate (ld : Nat) (msg : List Byte) : Statement (.setCertificate ld msg) := readsBack_step rfl

theorem ReadsBack.registerWrite (via : Via) (addr : Nat) (value : W64) : Statement (.registerWrite via addr value) := readsBack_step rfl

theorem ReadsBack.reservedEncodingIssue (word : W32) : Statement (.reservedEncodingIssue word) := readsBack_step rfl

theorem ReadsBack.powerOn : Statement (.powerOn) := readsBack_step rfl

theorem ReadsBack.idleTimeReached (uid : Nat) (wid : Nat) : Statement (.idleTimeReached uid wid) := readsBack_step rfl

theorem ReadsBack.ualinkSemaphoreDoorbell (pid : Nat) (value : W64) : Statement (.ualinkSemaphoreDoorbell pid value) := readsBack_step rfl

theorem ReadsBack.mepBadcmd (frame : List Byte) : Statement (.mepBadcmd frame) := readsBack_step rfl

theorem ReadsBack.tdispLockInterface (pid : Nat) : Statement (.tdispLockInterface pid) := readsBack_step rfl

theorem ReadsBack.tdispStartInterface (pid : Nat) : Statement (.tdispStartInterface pid) := readsBack_step rfl

theorem ReadsBack.nop (h : Hdr) : Statement (.nop h) := by
  have F := encForm0 h 0x0 (by decide) 0x0 rfl (by decide)
  refine readsBack_of h _ rfl rfl F.1 F.2.1 ((parse0 h _ F.2.2.1).trans ?_)
  unfold decodeMisc
  rw [show (fld (mkWord h _) 0 6).toNat = 0 from F.2.2.2.1, F.2.2.2.2]
  rfl

theorem ReadsBack.nap (h : Hdr) : Statement (.nap h) := by
  have F := encForm0 h 0x1 (by decide) 0x1 rfl (by decide)
  refine readsBack_of h _ rfl rfl F.1 F.2.1 ((parse0 h _ F.2.2.1).trans ?_)
  unfold decodeMisc
  rw [show (fld (mkWord h _) 0 6).toNat = 1 from F.2.2.2.1, F.2.2.2.2]
  rfl

theorem ReadsBack.exitT (h : Hdr) : Statement (.exitT h) := by
  have F := encForm0 h 0x2 (by decide) 0x2 rfl (by decide)
  refine readsBack_of h _ rfl rfl F.1 F.2.1 ((parse0 h _ F.2.2.1).trans ?_)
  unfold decodeMisc
  rw [show (fld (mkWord h _) 0 6).toNat = 2 from F.2.2.2.1, F.2.2.2.2]
  rfl

theorem ReadsBack.brk (h : Hdr) (n : BitVec 12) : Statement (.brk h n) := by
  have F := encForm1 h 0x3 n (by decide) 0x3 rfl (by decide)
  refine readsBack_of h _ rfl rfl F.1 F.2.1 ((parse0 h _ F.2.2.1).trans ?_)
  unfold decodeMisc
  rw [show (fld (mkWord h _) 0 6).toNat = 3 from F.2.2.2.1, F.2.2.2.2.1, F.2.2.2.2.2]
  rfl

theorem ReadsBack.trapN (h : Hdr) (n : BitVec 12) : Statement (.trapN h n) := by
  have F := encForm1 h 0x4 n (by decide) 0x4 rfl (by decide)
  refine readsBack_of h _ rfl rfl F.1 F.2.1 ((parse0 h _ F.2.2.1).trans ?_)
  unfold decodeMisc
  rw [show (fld (mkWord h _) 0 6).toNat = 4 from F.2.2.2.1, F.2.2.2.2.1, F.2.2.2.2.2]
  rfl

theorem ReadsBack.srd (h : Hdr) (d : BitVec 6) (a : BitVec 6) : Statement (.srd h d a) := by
  have F := encForm2 h 0x5 d a (by decide) 0x5 rfl (by decide)
  refine readsBack_of h _ rfl rfl F.1 F.2.1 ((parse0 h _ F.2.2.1).trans ?_)
  unfold decodeMisc
  rw [show (fld (mkWord h _) 0 6).toNat = 5 from F.2.2.2.1, F.2.2.2.2.1, F.2.2.2.2.2.1, F.2.2.2.2.2.2]
  rfl

theorem ReadsBack.swr (h : Hdr) (d : BitVec 6) (a : BitVec 6) : Statement (.swr h d a) := by
  have F := encForm2 h 0x6 d a (by decide) 0x6 rfl (by decide)
  refine readsBack_of h _ rfl rfl F.1 F.2.1 ((parse0 h _ F.2.2.1).trans ?_)
  unfold decodeMisc
  rw [show (fld (mkWord h _) 0 6).toNat = 6 from F.2.2.2.1, F.2.2.2.2.1, F.2.2.2.2.2.1, F.2.2.2.2.2.2]
  rfl

theorem ReadsBack.clkadd (h : Hdr) (a : BitVec 6) : Statement (.clkadd h a) := by
  have F := encForm3 h 0x7 a (by decide) 0x7 rfl (by decide)
  refine readsBack_of h _ rfl rfl F.1 F.2.1 ((parse0 h _ F.2.2.1).trans ?_)
  unfold decodeMisc
  rw [show (fld (mkWord h _) 0 6).toNat = 7 from F.2.2.2.1, F.2.2.2.2.1, F.2.2.2.2.2]
  rfl

theorem ReadsBack.svc (h : Hdr) (d : BitVec 6) (a : BitVec 6) (b : BitVec 6) (x : Bool) : Statement (.svc h d a b x) := by
  have F := encForm4 h 0x8 d a b x (by decide) 0x8 rfl (by decide)
  refine readsBack_of h _ rfl rfl F.1 F.2.1 ((parse0 h _ F.2.2.1).trans ?_)
  unfold decodeMisc
  rw [show (fld (mkWord h _) 0 6).toNat = 8 from F.2.2.2.1, F.2.2.2.2.1, F.2.2.2.2.2.1, F.2.2.2.2.2.2.1, F.2.2.2.2.2.2.2.1, F.2.2.2.2.2.2.2.2]
  rfl

theorem ReadsBack.add (h : Hdr) (d : BitVec 6) (a : BitVec 6) (b : BitVec 6) : Statement (.add h d a b) := by
  have F := encForm5 h 0x4000000 d a b (by decide) 0x4000000 rfl (by decide)
  refine readsBack_of h _ rfl rfl F.1 F.2.1 ((parse1 h _ F.2.2.1).trans ?_)
  unfold decodeSalu
  rw [show (fld (mkWord h _) 0 6).toNat = 0 from F.2.2.2.1, F.2.2.2.2.1, F.2.2.2.2.2.1, F.2.2.2.2.2.2.1, F.2.2.2.2.2.2.2]
  rfl

theorem ReadsBack.sub (h : Hdr) (d : BitVec 6) (a : BitVec 6) (b : BitVec 6) : Statement (.sub h d a b) := by
  have F := encForm5 h 0x4000001 d a b (by decide) 0x4000001 rfl (by decide)
  refine readsBack_of h _ rfl rfl F.1 F.2.1 ((parse1 h _ F.2.2.1).trans ?_)
  unfold decodeSalu
  rw [show (fld (mkWord h _) 0 6).toNat = 1 from F.2.2.2.1, F.2.2.2.2.1, F.2.2.2.2.2.1, F.2.2.2.2.2.2.1, F.2.2.2.2.2.2.2]
  rfl

theorem ReadsBack.mul (h : Hdr) (d : BitVec 6) (a : BitVec 6) (b : BitVec 6) : Statement (.mul h d a b) := by
  have F := encForm5 h 0x4000002 d a b (by decide) 0x4000002 rfl (by decide)
  refine readsBack_of h _ rfl rfl F.1 F.2.1 ((parse1 h _ F.2.2.1).trans ?_)
  unfold decodeSalu
  rw [show (fld (mkWord h _) 0 6).toNat = 2 from F.2.2.2.1, F.2.2.2.2.1, F.2.2.2.2.2.1, F.2.2.2.2.2.2.1, F.2.2.2.2.2.2.2]
  rfl

theorem ReadsBack.mulh (h : Hdr) (d : BitVec 6) (a : BitVec 6) (b : BitVec 6) : Statement (.mulh h d a b) := by
  have F := encForm5 h 0x4000003 d a b (by decide) 0x4000003 rfl (by decide)
  refine readsBack_of h _ rfl rfl F.1 F.2.1 ((parse1 h _ F.2.2.1).trans ?_)
  unfold decodeSalu
  rw [show (fld (mkWord h _) 0 6).toNat = 3 from F.2.2.2.1, F.2.2.2.2.1, F.2.2.2.2.2.1, F.2.2.2.2.2.2.1, F.2.2.2.2.2.2.2]
  rfl

theorem ReadsBack.mulhn (h : Hdr) (d : BitVec 6) (a : BitVec 6) (b : BitVec 6) : Statement (.mulhn h d a b) := by
  have F := encForm5 h 0x4000004 d a b (by decide) 0x4000004 rfl (by decide)
  refine readsBack_of h _ rfl rfl F.1 F.2.1 ((parse1 h _ F.2.2.1).trans ?_)
  unfold decodeSalu
  rw [show (fld (mkWord h _) 0 6).toNat = 4 from F.2.2.2.1, F.2.2.2.2.1, F.2.2.2.2.2.1, F.2.2.2.2.2.2.1, F.2.2.2.2.2.2.2]
  rfl

theorem ReadsBack.div (h : Hdr) (d : BitVec 6) (a : BitVec 6) (b : BitVec 6) : Statement (.div h d a b) := by
  have F := encForm5 h 0x4000005 d a b (by decide) 0x4000005 rfl (by decide)
  refine readsBack_of h _ rfl rfl F.1 F.2.1 ((parse1 h _ F.2.2.1).trans ?_)
  unfold decodeSalu
  rw [show (fld (mkWord h _) 0 6).toNat = 5 from F.2.2.2.1, F.2.2.2.2.1, F.2.2.2.2.2.1, F.2.2.2.2.2.2.1, F.2.2.2.2.2.2.2]
  rfl

theorem ReadsBack.divn (h : Hdr) (d : BitVec 6) (a : BitVec 6) (b : BitVec 6) : Statement (.divn h d a b) := by
  have F := encForm5 h 0x4000006 d a b (by decide) 0x4000006 rfl (by decide)
  refine readsBack_of h _ rfl rfl F.1 F.2.1 ((parse1 h _ F.2.2.1).trans ?_)
  unfold decodeSalu
  rw [show (fld (mkWord h _) 0 6).toNat = 6 from F.2.2.2.1, F.2.2.2.2.1, F.2.2.2.2.2.1, F.2.2.2.2.2.2.1, F.2.2.2.2.2.2.2]
  rfl

theorem ReadsBack.rem (h : Hdr) (d : BitVec 6) (a : BitVec 6) (b : BitVec 6) : Statement (.rem h d a b) := by
  have F := encForm5 h 0x4000007 d a b (by decide) 0x4000007 rfl (by decide)
  refine readsBack_of h _ rfl rfl F.1 F.2.1 ((parse1 h _ F.2.2.1).trans ?_)
  unfold decodeSalu
  rw [show (fld (mkWord h _) 0 6).toNat = 7 from F.2.2.2.1, F.2.2.2.2.1, F.2.2.2.2.2.1, F.2.2.2.2.2.2.1, F.2.2.2.2.2.2.2]
  rfl

theorem ReadsBack.remn (h : Hdr) (d : BitVec 6) (a : BitVec 6) (b : BitVec 6) : Statement (.remn h d a b) := by
  have F := encForm5 h 0x4000008 d a b (by decide) 0x4000008 rfl (by decide)
  refine readsBack_of h _ rfl rfl F.1 F.2.1 ((parse1 h _ F.2.2.1).trans ?_)
  unfold decodeSalu
  rw [show (fld (mkWord h _) 0 6).toNat = 8 from F.2.2.2.1, F.2.2.2.2.1, F.2.2.2.2.2.1, F.2.2.2.2.2.2.1, F.2.2.2.2.2.2.2]
  rfl

theorem ReadsBack.andS (h : Hdr) (d : BitVec 6) (a : BitVec 6) (b : BitVec 6) : Statement (.andS h d a b) := by
  have F := encForm5 h 0x4000009 d a b (by decide) 0x4000009 rfl (by decide)
  refine readsBack_of h _ rfl rfl F.1 F.2.1 ((parse1 h _ F.2.2.1).trans ?_)
  unfold decodeSalu
  rw [show (fld (mkWord h _) 0 6).toNat = 9 from F.2.2.2.1, F.2.2.2.2.1, F.2.2.2.2.2.1, F.2.2.2.2.2.2.1, F.2.2.2.2.2.2.2]
  rfl

theorem ReadsBack.orS (h : Hdr) (d : BitVec 6) (a : BitVec 6) (b : BitVec 6) : Statement (.orS h d a b) := by
  have F := encForm5 h 0x400000a d a b (by decide) 0x400000a rfl (by decide)
  refine readsBack_of h _ rfl rfl F.1 F.2.1 ((parse1 h _ F.2.2.1).trans ?_)
  unfold decodeSalu
  rw [show (fld (mkWord h _) 0 6).toNat = 10 from F.2.2.2.1, F.2.2.2.2.1, F.2.2.2.2.2.1, F.2.2.2.2.2.2.1, F.2.2.2.2.2.2.2]
  rfl

theorem ReadsBack.xorS (h : Hdr) (d : BitVec 6) (a : BitVec 6) (b : BitVec 6) : Statement (.xorS h d a b) := by
  have F := encForm5 h 0x400000b d a b (by decide) 0x400000b rfl (by decide)
  refine readsBack_of h _ rfl rfl F.1 F.2.1 ((parse1 h _ F.2.2.1).trans ?_)
  unfold decodeSalu
  rw [show (fld (mkWord h _) 0 6).toNat = 11 from F.2.2.2.1, F.2.2.2.2.1, F.2.2.2.2.2.1, F.2.2.2.2.2.2.1, F.2.2.2.2.2.2.2]
  rfl

theorem ReadsBack.andn (h : Hdr) (d : BitVec 6) (a : BitVec 6) (b : BitVec 6) : Statement (.andn h d a b) := by
  have F := encForm5 h 0x400000c d a b (by decide) 0x400000c rfl (by decide)
  refine readsBack_of h _ rfl rfl F.1 F.2.1 ((parse1 h _ F.2.2.1).trans ?_)
  unfold decodeSalu
  rw [show (fld (mkWord h _) 0 6).toNat = 12 from F.2.2.2.1, F.2.2.2.2.1, F.2.2.2.2.2.1, F.2.2.2.2.2.2.1, F.2.2.2.2.2.2.2]
  rfl

theorem ReadsBack.shl (h : Hdr) (d : BitVec 6) (a : BitVec 6) (b : BitVec 6) : Statement (.shl h d a b) := by
  have F := encForm5 h 0x400000d d a b (by decide) 0x400000d rfl (by decide)
  refine readsBack_of h _ rfl rfl F.1 F.2.1 ((parse1 h _ F.2.2.1).trans ?_)
  unfold decodeSalu
  rw [show (fld (mkWord h _) 0 6).toNat = 13 from F.2.2.2.1, F.2.2.2.2.1, F.2.2.2.2.2.1, F.2.2.2.2.2.2.1, F.2.2.2.2.2.2.2]
  rfl

theorem ReadsBack.shr (h : Hdr) (d : BitVec 6) (a : BitVec 6) (b : BitVec 6) : Statement (.shr h d a b) := by
  have F := encForm5 h 0x400000e d a b (by decide) 0x400000e rfl (by decide)
  refine readsBack_of h _ rfl rfl F.1 F.2.1 ((parse1 h _ F.2.2.1).trans ?_)
  unfold decodeSalu
  rw [show (fld (mkWord h _) 0 6).toNat = 14 from F.2.2.2.1, F.2.2.2.2.1, F.2.2.2.2.2.1, F.2.2.2.2.2.2.1, F.2.2.2.2.2.2.2]
  rfl

theorem ReadsBack.sra (h : Hdr) (d : BitVec 6) (a : BitVec 6) (b : BitVec 6) : Statement (.sra h d a b) := by
  have F := encForm5 h 0x400000f d a b (by decide) 0x400000f rfl (by decide)
  refine readsBack_of h _ rfl rfl F.1 F.2.1 ((parse1 h _ F.2.2.1).trans ?_)
  unfold decodeSalu
  rw [show (fld (mkWord h _) 0 6).toNat = 15 from F.2.2.2.1, F.2.2.2.2.1, F.2.2.2.2.2.1, F.2.2.2.2.2.2.1, F.2.2.2.2.2.2.2]
  rfl

theorem ReadsBack.rol (h : Hdr) (d : BitVec 6) (a : BitVec 6) (b : BitVec 6) : Statement (.rol h d a b) := by
  have F := encForm5 h 0x4000010 d a b (by decide) 0x4000010 rfl (by decide)
  refine readsBack_of h _ rfl rfl F.1 F.2.1 ((parse1 h _ F.2.2.1).trans ?_)
  unfold decodeSalu
  rw [show (fld (mkWord h _) 0 6).toNat = 16 from F.2.2.2.1, F.2.2.2.2.1, F.2.2.2.2.2.1, F.2.2.2.2.2.2.1, F.2.2.2.2.2.2.2]
  rfl

theorem ReadsBack.ror (h : Hdr) (d : BitVec 6) (a : BitVec 6) (b : BitVec 6) : Statement (.ror h d a b) := by
  have F := encForm5 h 0x4000011 d a b (by decide) 0x4000011 rfl (by decide)
  refine readsBack_of h _ rfl rfl F.1 F.2.1 ((parse1 h _ F.2.2.1).trans ?_)
  unfold decodeSalu
  rw [show (fld (mkWord h _) 0 6).toNat = 17 from F.2.2.2.1, F.2.2.2.2.1, F.2.2.2.2.2.1, F.2.2.2.2.2.2.1, F.2.2.2.2.2.2.2]
  rfl

theorem ReadsBack.minS (h : Hdr) (d : BitVec 6) (a : BitVec 6) (b : BitVec 6) : Statement (.minS h d a b) := by
  have F := encForm5 h 0x4000012 d a b (by decide) 0x4000012 rfl (by decide)
  refine readsBack_of h _ rfl rfl F.1 F.2.1 ((parse1 h _ F.2.2.1).trans ?_)
  unfold decodeSalu
  rw [show (fld (mkWord h _) 0 6).toNat = 18 from F.2.2.2.1, F.2.2.2.2.1, F.2.2.2.2.2.1, F.2.2.2.2.2.2.1, F.2.2.2.2.2.2.2]
  rfl

theorem ReadsBack.maxS (h : Hdr) (d : BitVec 6) (a : BitVec 6) (b : BitVec 6) : Statement (.maxS h d a b) := by
  have F := encForm5 h 0x4000013 d a b (by decide) 0x4000013 rfl (by decide)
  refine readsBack_of h _ rfl rfl F.1 F.2.1 ((parse1 h _ F.2.2.1).trans ?_)
  unfold decodeSalu
  rw [show (fld (mkWord h _) 0 6).toNat = 19 from F.2.2.2.1, F.2.2.2.2.1, F.2.2.2.2.2.1, F.2.2.2.2.2.2.1, F.2.2.2.2.2.2.2]
  rfl

theorem ReadsBack.minn (h : Hdr) (d : BitVec 6) (a : BitVec 6) (b : BitVec 6) : Statement (.minn h d a b) := by
  have F := encForm5 h 0x4000014 d a b (by decide) 0x4000014 rfl (by decide)
  refine readsBack_of h _ rfl rfl F.1 F.2.1 ((parse1 h _ F.2.2.1).trans ?_)
  unfold decodeSalu
  rw [show (fld (mkWord h _) 0 6).toNat = 20 from F.2.2.2.1, F.2.2.2.2.1, F.2.2.2.2.2.1, F.2.2.2.2.2.2.1, F.2.2.2.2.2.2.2]
  rfl

theorem ReadsBack.maxn (h : Hdr) (d : BitVec 6) (a : BitVec 6) (b : BitVec 6) : Statement (.maxn h d a b) := by
  have F := encForm5 h 0x4000015 d a b (by decide) 0x4000015 rfl (by decide)
  refine readsBack_of h _ rfl rfl F.1 F.2.1 ((parse1 h _ F.2.2.1).trans ?_)
  unfold decodeSalu
  rw [show (fld (mkWord h _) 0 6).toNat = 21 from F.2.2.2.1, F.2.2.2.2.1, F.2.2.2.2.2.1, F.2.2.2.2.2.2.1, F.2.2.2.2.2.2.2]
  rfl

theorem ReadsBack.clz (h : Hdr) (d : BitVec 6) (a : BitVec 6) : Statement (.clz h d a) := by
  have F := encForm2 h 0x4000016 d a (by decide) 0x4000016 rfl (by decide)
  refine readsBack_of h _ rfl rfl F.1 F.2.1 ((parse1 h _ F.2.2.1).trans ?_)
  unfold decodeSalu
  rw [show (fld (mkWord h _) 0 6).toNat = 22 from F.2.2.2.1, F.2.2.2.2.1, F.2.2.2.2.2.1, F.2.2.2.2.2.2]
  rfl

theorem ReadsBack.ctz (h : Hdr) (d : BitVec 6) (a : BitVec 6) : Statement (.ctz h d a) := by
  have F := encForm2 h 0x4000017 d a (by decide) 0x4000017 rfl (by decide)
  refine readsBack_of h _ rfl rfl F.1 F.2.1 ((parse1 h _ F.2.2.1).trans ?_)
  unfold decodeSalu
  rw [show (fld (mkWord h _) 0 6).toNat = 23 from F.2.2.2.1, F.2.2.2.2.1, F.2.2.2.2.2.1, F.2.2.2.2.2.2]
  rfl

theorem ReadsBack.popc (h : Hdr) (d : BitVec 6) (a : BitVec 6) : Statement (.popc h d a) := by
  have F := encForm2 h 0x4000018 d a (by decide) 0x4000018 rfl (by decide)
  refine readsBack_of h _ rfl rfl F.1 F.2.1 ((parse1 h _ F.2.2.1).trans ?_)
  unfold decodeSalu
  rw [show (fld (mkWord h _) 0 6).toNat = 24 from F.2.2.2.1, F.2.2.2.2.1, F.2.2.2.2.2.1, F.2.2.2.2.2.2]
  rfl

theorem ReadsBack.brev (h : Hdr) (d : BitVec 6) (a : BitVec 6) : Statement (.brev h d a) := by
  have F := encForm2 h 0x4000019 d a (by decide) 0x4000019 rfl (by decide)
  refine readsBack_of h _ rfl rfl F.1 F.2.1 ((parse1 h _ F.2.2.1).trans ?_)
  unfold decodeSalu
  rw [show (fld (mkWord h _) 0 6).toNat = 25 from F.2.2.2.1, F.2.2.2.2.1, F.2.2.2.2.2.1, F.2.2.2.2.2.2]
  rfl

theorem ReadsBack.sext (h : Hdr) (d : BitVec 6) (a : BitVec 6) (b : BitVec 6) : Statement (.sext h d a b) := by
  have F := encForm5 h 0x400001a d a b (by decide) 0x400001a rfl (by decide)
  refine readsBack_of h _ rfl rfl F.1 F.2.1 ((parse1 h _ F.2.2.1).trans ?_)
  unfold decodeSalu
  rw [show (fld (mkWord h _) 0 6).toNat = 26 from F.2.2.2.1, F.2.2.2.2.1, F.2.2.2.2.2.1, F.2.2.2.2.2.2.1, F.2.2.2.2.2.2.2]
  rfl

theorem ReadsBack.zext (h : Hdr) (d : BitVec 6) (a : BitVec 6) (b : BitVec 6) : Statement (.zext h d a b) := by
  have F := encForm5 h 0x400001b d a b (by decide) 0x400001b rfl (by decide)
  refine readsBack_of h _ rfl rfl F.1 F.2.1 ((parse1 h _ F.2.2.1).trans ?_)
  unfold decodeSalu
  rw [show (fld (mkWord h _) 0 6).toNat = 27 from F.2.2.2.1, F.2.2.2.2.1, F.2.2.2.2.2.1, F.2.2.2.2.2.2.1, F.2.2.2.2.2.2.2]
  rfl

theorem ReadsBack.cmp (h : Hdr) (d : BitVec 6) (a : BitVec 6) (b : BitVec 6) : Statement (.cmp h d a b) := by
  have F := encForm5 h 0x400001c d a b (by decide) 0x400001c rfl (by decide)
  refine readsBack_of h _ rfl rfl F.1 F.2.1 ((parse1 h _ F.2.2.1).trans ?_)
  unfold decodeSalu
  rw [show (fld (mkWord h _) 0 6).toNat = 28 from F.2.2.2.1, F.2.2.2.2.1, F.2.2.2.2.2.1, F.2.2.2.2.2.2.1, F.2.2.2.2.2.2.2]
  rfl

theorem ReadsBack.clmul (h : Hdr) (d : BitVec 6) (a : BitVec 6) (b : BitVec 6) : Statement (.clmul h d a b) := by
  have F := encForm5 h 0x400001d d a b (by decide) 0x400001d rfl (by decide)
  refine readsBack_of h _ rfl rfl F.1 F.2.1 ((parse1 h _ F.2.2.1).trans ?_)
  unfold decodeSalu
  rw [show (fld (mkWord h _) 0 6).toNat = 29 from F.2.2.2.1, F.2.2.2.2.1, F.2.2.2.2.2.1, F.2.2.2.2.2.2.1, F.2.2.2.2.2.2.2]
  rfl

theorem ReadsBack.clmulh (h : Hdr) (d : BitVec 6) (a : BitVec 6) (b : BitVec 6) : Statement (.clmulh h d a b) := by
  have F := encForm5 h 0x400001e d a b (by decide) 0x400001e rfl (by decide)
  refine readsBack_of h _ rfl rfl F.1 F.2.1 ((parse1 h _ F.2.2.1).trans ?_)
  unfold decodeSalu
  rw [show (fld (mkWord h _) 0 6).toNat = 30 from F.2.2.2.1, F.2.2.2.2.1, F.2.2.2.2.2.1, F.2.2.2.2.2.2.1, F.2.2.2.2.2.2.2]
  rfl

theorem ReadsBack.mov (h : Hdr) (d : BitVec 6) (a : BitVec 6) : Statement (.mov h d a) := by
  have F := encForm2 h 0x400001f d a (by decide) 0x400001f rfl (by decide)
  refine readsBack_of h _ rfl rfl F.1 F.2.1 ((parse1 h _ F.2.2.1).trans ?_)
  unfold decodeSalu
  rw [show (fld (mkWord h _) 0 6).toNat = 31 from F.2.2.2.1, F.2.2.2.2.1, F.2.2.2.2.2.1, F.2.2.2.2.2.2]
  rfl

theorem ReadsBack.addi (h : Hdr) (d : BitVec 6) (a : BitVec 6) (i : BitVec 11) : Statement (.addi h d a i) := by
  have F := encForm6 h 0x8000000 d a i (by decide) 0x8000000 rfl (by decide)
  refine readsBack_of h _ rfl rfl F.1 F.2.1 ((parse2 h _ F.2.2.1).trans ?_)
  unfold decodeSimm
  rw [show (fld (mkWord h _) 11 3).toNat = 0 from F.2.2.2.1, F.2.2.2.2.1, F.2.2.2.2.2.1, F.2.2.2.2.2.2.1, F.2.2.2.2.2.2.2]
  rfl

theorem ReadsBack.andi (h : Hdr) (d : BitVec 6) (a : BitVec 6) (i : BitVec 11) : Statement (.andi h d a i) := by
  have F := encForm6 h 0x8000800 d a i (by decide) 0x8000800 rfl (by decide)
  refine readsBack_of h _ rfl rfl F.1 F.2.1 ((parse2 h _ F.2.2.1).trans ?_)
  unfold decodeSimm
  rw [show (fld (mkWord h _) 11 3).toNat = 1 from F.2.2.2.1, F.2.2.2.2.1, F.2.2.2.2.2.1, F.2.2.2.2.2.2.1, F.2.2.2.2.2.2.2]
  rfl

theorem ReadsBack.ori (h : Hdr) (d : BitVec 6) (a : BitVec 6) (i : BitVec 11) : Statement (.ori h d a i) := by
  have F := encForm6 h 0x8001000 d a i (by decide) 0x8001000 rfl (by decide)
  refine readsBack_of h _ rfl rfl F.1 F.2.1 ((parse2 h _ F.2.2.1).trans ?_)
  unfold decodeSimm
  rw [show (fld (mkWord h _) 11 3).toNat = 2 from F.2.2.2.1, F.2.2.2.2.1, F.2.2.2.2.2.1, F.2.2.2.2.2.2.1, F.2.2.2.2.2.2.2]
  rfl

theorem ReadsBack.xori (h : Hdr) (d : BitVec 6) (a : BitVec 6) (i : BitVec 11) : Statement (.xori h d a i) := by
  have F := encForm6 h 0x8001800 d a i (by decide) 0x8001800 rfl (by decide)
  refine readsBack_of h _ rfl rfl F.1 F.2.1 ((parse2 h _ F.2.2.1).trans ?_)
  unfold decodeSimm
  rw [show (fld (mkWord h _) 11 3).toNat = 3 from F.2.2.2.1, F.2.2.2.2.1, F.2.2.2.2.2.1, F.2.2.2.2.2.2.1, F.2.2.2.2.2.2.2]
  rfl

theorem ReadsBack.shli (h : Hdr) (d : BitVec 6) (a : BitVec 6) (i : BitVec 11) : Statement (.shli h d a i) := by
  have F := encForm6 h 0x8002000 d a i (by decide) 0x8002000 rfl (by decide)
  refine readsBack_of h _ rfl rfl F.1 F.2.1 ((parse2 h _ F.2.2.1).trans ?_)
  unfold decodeSimm
  rw [show (fld (mkWord h _) 11 3).toNat = 4 from F.2.2.2.1, F.2.2.2.2.1, F.2.2.2.2.2.1, F.2.2.2.2.2.2.1, F.2.2.2.2.2.2.2]
  rfl

theorem ReadsBack.shri (h : Hdr) (d : BitVec 6) (a : BitVec 6) (i : BitVec 11) : Statement (.shri h d a i) := by
  have F := encForm6 h 0x8002800 d a i (by decide) 0x8002800 rfl (by decide)
  refine readsBack_of h _ rfl rfl F.1 F.2.1 ((parse2 h _ F.2.2.1).trans ?_)
  unfold decodeSimm
  rw [show (fld (mkWord h _) 11 3).toNat = 5 from F.2.2.2.1, F.2.2.2.2.1, F.2.2.2.2.2.1, F.2.2.2.2.2.2.1, F.2.2.2.2.2.2.2]
  rfl

theorem ReadsBack.srai (h : Hdr) (d : BitVec 6) (a : BitVec 6) (i : BitVec 11) : Statement (.srai h d a i) := by
  have F := encForm6 h 0x8003000 d a i (by decide) 0x8003000 rfl (by decide)
  refine readsBack_of h _ rfl rfl F.1 F.2.1 ((parse2 h _ F.2.2.1).trans ?_)
  unfold decodeSimm
  rw [show (fld (mkWord h _) 11 3).toNat = 6 from F.2.2.2.1, F.2.2.2.2.1, F.2.2.2.2.2.1, F.2.2.2.2.2.2.1, F.2.2.2.2.2.2.2]
  rfl

theorem ReadsBack.cmpi (h : Hdr) (d : BitVec 6) (a : BitVec 6) (i : BitVec 11) : Statement (.cmpi h d a i) := by
  have F := encForm6 h 0x8003800 d a i (by decide) 0x8003800 rfl (by decide)
  refine readsBack_of h _ rfl rfl F.1 F.2.1 ((parse2 h _ F.2.2.1).trans ?_)
  unfold decodeSimm
  rw [show (fld (mkWord h _) 11 3).toNat = 7 from F.2.2.2.1, F.2.2.2.2.1, F.2.2.2.2.2.1, F.2.2.2.2.2.2.1, F.2.2.2.2.2.2.2]
  rfl

theorem ReadsBack.li (h : Hdr) (d : BitVec 6) (i : BitVec 20) : Statement (.li h d i) := by
  have F := encForm7 h 0xc000000 d i (by decide) 0xc000000 rfl (by decide)
  refine readsBack_of h _ rfl rfl F.1 F.2.1 ((parse3 h _ F.2.2.1).trans ?_)
  unfold decodeLi
  rw [F.2.2.2.1, F.2.2.2.2.1, F.2.2.2.2.2]

theorem ReadsBack.bt (h : Hdr) (u : Bool) (p : BitVec 3) (o : BitVec 20) : Statement (.bt h u p o) := by
  have F := encForm8 h 0x10000000 u p o (by decide) 0x10000000 rfl (by decide)
  refine readsBack_of h _ rfl rfl F.1 F.2.1 ((parse4 h _ F.2.2.1).trans ?_)
  unfold decodeBr
  rw [show (fld (mkWord h _) 24 2).toNat = 0 from F.2.2.2.1, F.2.2.2.2.1, F.2.2.2.2.2.1, F.2.2.2.2.2.2.1, F.2.2.2.2.2.2.2]
  rfl

theorem ReadsBack.bw (h : Hdr) (q : BitVec 3) (o : BitVec 20) : Statement (.bw h q o) := by
  have F := encForm9 h 0x11000000 q o (by decide) 0x11000000 rfl (by decide)
  refine readsBack_of h _ rfl rfl F.1 F.2.1 ((parse4 h _ F.2.2.1).trans ?_)
  unfold decodeBr
  rw [show (fld (mkWord h _) 24 2).toNat = 1 from F.2.2.2.1, F.2.2.2.2.1, F.2.2.2.2.2.1, F.2.2.2.2.2.2]
  rfl

theorem ReadsBack.call (h : Hdr) (o : BitVec 20) : Statement (.call h o) := by
  have F := encForm10 h 0x12000000 o (by decide) 0x12000000 rfl (by decide)
  refine readsBack_of h _ rfl rfl F.1 F.2.1 ((parse4 h _ F.2.2.1).trans ?_)
  unfold decodeBr
  rw [show (fld (mkWord h _) 24 2).toNat = 2 from F.2.2.2.1, F.2.2.2.2.1, F.2.2.2.2.2]
  rfl

theorem ReadsBack.btn (h : Hdr) (u : Bool) (p : BitVec 3) (o : BitVec 20) : Statement (.btn h u p o) := by
  have F := encForm8 h 0x13000000 u p o (by decide) 0x13000000 rfl (by decide)
  refine readsBack_of h _ rfl rfl F.1 F.2.1 ((parse4 h _ F.2.2.1).trans ?_)
  unfold decodeBr
  rw [show (fld (mkWord h _) 24 2).toNat = 3 from F.2.2.2.1, F.2.2.2.2.1, F.2.2.2.2.2.1, F.2.2.2.2.2.2.1, F.2.2.2.2.2.2.2]
  rfl

theorem ReadsBack.jr (h : Hdr) (a : BitVec 6) (x : Bool) : Statement (.jr h a x) := by
  have F := encForm11 h 0x14000000 a x (by decide) 0x14000000 rfl (by decide)
  refine readsBack_of h _ rfl rfl F.1 F.2.1 ((parse5 h _ F.2.2.1).trans ?_)
  unfold decodeJmp
  rw [show (fld (mkWord h _) 0 6).toNat = 0 from F.2.2.2.1, F.2.2.2.2.1, F.2.2.2.2.2.1, F.2.2.2.2.2.2]
  rfl

theorem ReadsBack.callr (h : Hdr) (a : BitVec 6) (x : Bool) : Statement (.callr h a x) := by
  have F := encForm11 h 0x14000001 a x (by decide) 0x14000001 rfl (by decide)
  refine readsBack_of h _ rfl rfl F.1 F.2.1 ((parse5 h _ F.2.2.1).trans ?_)
  unfold decodeJmp
  rw [show (fld (mkWord h _) 0 6).toNat = 1 from F.2.2.2.1, F.2.2.2.2.1, F.2.2.2.2.2.1, F.2.2.2.2.2.2]
  rfl

theorem ReadsBack.ret (h : Hdr) : Statement (.ret h) := by
  have F := encForm0 h 0x14000002 (by decide) 0x14000002 rfl (by decide)
  refine readsBack_of h _ rfl rfl F.1 F.2.1 ((parse5 h _ F.2.2.1).trans ?_)
  unfold decodeJmp
  rw [show (fld (mkWord h _) 0 6).toNat = 2 from F.2.2.2.1, F.2.2.2.2]
  rfl

theorem ReadsBack.addI32 (h : Hdr) (d : BitVec 6) (a : BitVec 6) (b : BitVec 6) (x : Bool) (y : Bool) : Statement (.addI32 h d a b x y) := by
  have F := encForm12 h 0x18000000 d a b x y (by decide) 0x18000000 rfl (by decide)
  refine readsBack_of h _ rfl rfl F.1 F.2.1 ((parse6 h _ F.2.2.1).trans ?_)
  unfold decodeVint
  rw [show (fld (mkWord h _) 0 6).toNat = 0 from F.2.2.2.1, F.2.2.2.2.1, F.2.2.2.2.2.1, F.2.2.2.2.2.2.1, F.2.2.2.2.2.2.2.1, F.2.2.2.2.2.2.2.2.1, F.2.2.2.2.2.2.2.2.2]
  rfl

theorem ReadsBack.subI32 (h : Hdr) (d : BitVec 6) (a : BitVec 6) (b : BitVec 6) (x : Bool) (y : Bool) : Statement (.subI32 h d a b x y) := by
  have F := encForm12 h 0x18000001 d a b x y (by decide) 0x18000001 rfl (by decide)
  refine readsBack_of h _ rfl rfl F.1 F.2.1 ((parse6 h _ F.2.2.1).trans ?_)
  unfold decodeVint
  rw [show (fld (mkWord h _) 0 6).toNat = 1 from F.2.2.2.1, F.2.2.2.2.1, F.2.2.2.2.2.1, F.2.2.2.2.2.2.1, F.2.2.2.2.2.2.2.1, F.2.2.2.2.2.2.2.2.1, F.2.2.2.2.2.2.2.2.2]
  rfl

theorem ReadsBack.mulI32 (h : Hdr) (d : BitVec 6) (a : BitVec 6) (b : BitVec 6) (x : Bool) (y : Bool) : Statement (.mulI32 h d a b x y) := by
  have F := encForm12 h 0x18000002 d a b x y (by decide) 0x18000002 rfl (by decide)
  refine readsBack_of h _ rfl rfl F.1 F.2.1 ((parse6 h _ F.2.2.1).trans ?_)
  unfold decodeVint
  rw [show (fld (mkWord h _) 0 6).toNat = 2 from F.2.2.2.1, F.2.2.2.2.1, F.2.2.2.2.2.1, F.2.2.2.2.2.2.1, F.2.2.2.2.2.2.2.1, F.2.2.2.2.2.2.2.2.1, F.2.2.2.2.2.2.2.2.2]
  rfl

theorem ReadsBack.mulhI32 (h : Hdr) (d : BitVec 6) (a : BitVec 6) (b : BitVec 6) (x : Bool) (y : Bool) : Statement (.mulhI32 h d a b x y) := by
  have F := encForm12 h 0x18000003 d a b x y (by decide) 0x18000003 rfl (by decide)
  refine readsBack_of h _ rfl rfl F.1 F.2.1 ((parse6 h _ F.2.2.1).trans ?_)
  unfold decodeVint
  rw [show (fld (mkWord h _) 0 6).toNat = 3 from F.2.2.2.1, F.2.2.2.2.1, F.2.2.2.2.2.1, F.2.2.2.2.2.2.1, F.2.2.2.2.2.2.2.1, F.2.2.2.2.2.2.2.2.1, F.2.2.2.2.2.2.2.2.2]
  rfl

theorem ReadsBack.mulhnI32 (h : Hdr) (d : BitVec 6) (a : BitVec 6) (b : BitVec 6) (x : Bool) (y : Bool) : Statement (.mulhnI32 h d a b x y) := by
  have F := encForm12 h 0x18000004 d a b x y (by decide) 0x18000004 rfl (by decide)
  refine readsBack_of h _ rfl rfl F.1 F.2.1 ((parse6 h _ F.2.2.1).trans ?_)
  unfold decodeVint
  rw [show (fld (mkWord h _) 0 6).toNat = 4 from F.2.2.2.1, F.2.2.2.2.1, F.2.2.2.2.2.1, F.2.2.2.2.2.2.1, F.2.2.2.2.2.2.2.1, F.2.2.2.2.2.2.2.2.1, F.2.2.2.2.2.2.2.2.2]
  rfl

theorem ReadsBack.minI32 (h : Hdr) (d : BitVec 6) (a : BitVec 6) (b : BitVec 6) (x : Bool) (y : Bool) : Statement (.minI32 h d a b x y) := by
  have F := encForm12 h 0x18000005 d a b x y (by decide) 0x18000005 rfl (by decide)
  refine readsBack_of h _ rfl rfl F.1 F.2.1 ((parse6 h _ F.2.2.1).trans ?_)
  unfold decodeVint
  rw [show (fld (mkWord h _) 0 6).toNat = 5 from F.2.2.2.1, F.2.2.2.2.1, F.2.2.2.2.2.1, F.2.2.2.2.2.2.1, F.2.2.2.2.2.2.2.1, F.2.2.2.2.2.2.2.2.1, F.2.2.2.2.2.2.2.2.2]
  rfl

theorem ReadsBack.maxI32 (h : Hdr) (d : BitVec 6) (a : BitVec 6) (b : BitVec 6) (x : Bool) (y : Bool) : Statement (.maxI32 h d a b x y) := by
  have F := encForm12 h 0x18000006 d a b x y (by decide) 0x18000006 rfl (by decide)
  refine readsBack_of h _ rfl rfl F.1 F.2.1 ((parse6 h _ F.2.2.1).trans ?_)
  unfold decodeVint
  rw [show (fld (mkWord h _) 0 6).toNat = 6 from F.2.2.2.1, F.2.2.2.2.1, F.2.2.2.2.2.1, F.2.2.2.2.2.2.1, F.2.2.2.2.2.2.2.1, F.2.2.2.2.2.2.2.2.1, F.2.2.2.2.2.2.2.2.2]
  rfl

theorem ReadsBack.minnI32 (h : Hdr) (d : BitVec 6) (a : BitVec 6) (b : BitVec 6) (x : Bool) (y : Bool) : Statement (.minnI32 h d a b x y) := by
  have F := encForm12 h 0x18000007 d a b x y (by decide) 0x18000007 rfl (by decide)
  refine readsBack_of h _ rfl rfl F.1 F.2.1 ((parse6 h _ F.2.2.1).trans ?_)
  unfold decodeVint
  rw [show (fld (mkWord h _) 0 6).toNat = 7 from F.2.2.2.1, F.2.2.2.2.1, F.2.2.2.2.2.1, F.2.2.2.2.2.2.1, F.2.2.2.2.2.2.2.1, F.2.2.2.2.2.2.2.2.1, F.2.2.2.2.2.2.2.2.2]
  rfl

theorem ReadsBack.maxnI32 (h : Hdr) (d : BitVec 6) (a : BitVec 6) (b : BitVec 6) (x : Bool) (y : Bool) : Statement (.maxnI32 h d a b x y) := by
  have F := encForm12 h 0x18000008 d a b x y (by decide) 0x18000008 rfl (by decide)
  refine readsBack_of h _ rfl rfl F.1 F.2.1 ((parse6 h _ F.2.2.1).trans ?_)
  unfold decodeVint
  rw [show (fld (mkWord h _) 0 6).toNat = 8 from F.2.2.2.1, F.2.2.2.2.1, F.2.2.2.2.2.1, F.2.2.2.2.2.2.1, F.2.2.2.2.2.2.2.1, F.2.2.2.2.2.2.2.2.1, F.2.2.2.2.2.2.2.2.2]
  rfl

theorem ReadsBack.absI32 (h : Hdr) (d : BitVec 6) (a : BitVec 6) (x : Bool) : Statement (.absI32 h d a x) := by
  have F := encForm13 h 0x18000009 d a x (by decide) 0x18000009 rfl (by decide)
  refine readsBack_of h _ rfl rfl F.1 F.2.1 ((parse6 h _ F.2.2.1).trans ?_)
  unfold decodeVint
  rw [show (fld (mkWord h _) 0 6).toNat = 9 from F.2.2.2.1, F.2.2.2.2.1, F.2.2.2.2.2.1, F.2.2.2.2.2.2.1, F.2.2.2.2.2.2.2]
  rfl

theorem ReadsBack.negI32 (h : Hdr) (d : BitVec 6) (a : BitVec 6) (x : Bool) : Statement (.negI32 h d a x) := by
  have F := encForm13 h 0x1800000a d a x (by decide) 0x1800000a rfl (by decide)
  refine readsBack_of h _ rfl rfl F.1 F.2.1 ((parse6 h _ F.2.2.1).trans ?_)
  unfold decodeVint
  rw [show (fld (mkWord h _) 0 6).toNat = 10 from F.2.2.2.1, F.2.2.2.2.1, F.2.2.2.2.2.1, F.2.2.2.2.2.2.1, F.2.2.2.2.2.2.2]
  rfl

theorem ReadsBack.andI32 (h : Hdr) (d : BitVec 6) (a : BitVec 6) (b : BitVec 6) (x : Bool) (y : Bool) : Statement (.andI32 h d a b x y) := by
  have F := encForm12 h 0x1800000b d a b x y (by decide) 0x1800000b rfl (by decide)
  refine readsBack_of h _ rfl rfl F.1 F.2.1 ((parse6 h _ F.2.2.1).trans ?_)
  unfold decodeVint
  rw [show (fld (mkWord h _) 0 6).toNat = 11 from F.2.2.2.1, F.2.2.2.2.1, F.2.2.2.2.2.1, F.2.2.2.2.2.2.1, F.2.2.2.2.2.2.2.1, F.2.2.2.2.2.2.2.2.1, F.2.2.2.2.2.2.2.2.2]
  rfl

theorem ReadsBack.orI32 (h : Hdr) (d : BitVec 6) (a : BitVec 6) (b : BitVec 6) (x : Bool) (y : Bool) : Statement (.orI32 h d a b x y) := by
  have F := encForm12 h 0x1800000c d a b x y (by decide) 0x1800000c rfl (by decide)
  refine readsBack_of h _ rfl rfl F.1 F.2.1 ((parse6 h _ F.2.2.1).trans ?_)
  unfold decodeVint
  rw [show (fld (mkWord h _) 0 6).toNat = 12 from F.2.2.2.1, F.2.2.2.2.1, F.2.2.2.2.2.1, F.2.2.2.2.2.2.1, F.2.2.2.2.2.2.2.1, F.2.2.2.2.2.2.2.2.1, F.2.2.2.2.2.2.2.2.2]
  rfl

theorem ReadsBack.xorI32 (h : Hdr) (d : BitVec 6) (a : BitVec 6) (b : BitVec 6) (x : Bool) (y : Bool) : Statement (.xorI32 h d a b x y) := by
  have F := encForm12 h 0x1800000d d a b x y (by decide) 0x1800000d rfl (by decide)
  refine readsBack_of h _ rfl rfl F.1 F.2.1 ((parse6 h _ F.2.2.1).trans ?_)
  unfold decodeVint
  rw [show (fld (mkWord h _) 0 6).toNat = 13 from F.2.2.2.1, F.2.2.2.2.1, F.2.2.2.2.2.1, F.2.2.2.2.2.2.1, F.2.2.2.2.2.2.2.1, F.2.2.2.2.2.2.2.2.1, F.2.2.2.2.2.2.2.2.2]
  rfl

theorem ReadsBack.andnI32 (h : Hdr) (d : BitVec 6) (a : BitVec 6) (b : BitVec 6) (x : Bool) (y : Bool) : Statement (.andnI32 h d a b x y) := by
  have F := encForm12 h 0x1800000e d a b x y (by decide) 0x1800000e rfl (by decide)
  refine readsBack_of h _ rfl rfl F.1 F.2.1 ((parse6 h _ F.2.2.1).trans ?_)
  unfold decodeVint
  rw [show (fld (mkWord h _) 0 6).toNat = 14 from F.2.2.2.1, F.2.2.2.2.1, F.2.2.2.2.2.1, F.2.2.2.2.2.2.1, F.2.2.2.2.2.2.2.1, F.2.2.2.2.2.2.2.2.1, F.2.2.2.2.2.2.2.2.2]
  rfl

theorem ReadsBack.notI32 (h : Hdr) (d : BitVec 6) (a : BitVec 6) (x : Bool) : Statement (.notI32 h d a x) := by
  have F := encForm13 h 0x1800000f d a x (by decide) 0x1800000f rfl (by decide)
  refine readsBack_of h _ rfl rfl F.1 F.2.1 ((parse6 h _ F.2.2.1).trans ?_)
  unfold decodeVint
  rw [show (fld (mkWord h _) 0 6).toNat = 15 from F.2.2.2.1, F.2.2.2.2.1, F.2.2.2.2.2.1, F.2.2.2.2.2.2.1, F.2.2.2.2.2.2.2]
  rfl

theorem ReadsBack.shlI32 (h : Hdr) (d : BitVec 6) (a : BitVec 6) (b : BitVec 6) (x : Bool) (y : Bool) : Statement (.shlI32 h d a b x y) := by
  have F := encForm12 h 0x18000010 d a b x y (by decide) 0x18000010 rfl (by decide)
  refine readsBack_of h _ rfl rfl F.1 F.2.1 ((parse6 h _ F.2.2.1).trans ?_)
  unfold decodeVint
  rw [show (fld (mkWord h _) 0 6).toNat = 16 from F.2.2.2.1, F.2.2.2.2.1, F.2.2.2.2.2.1, F.2.2.2.2.2.2.1, F.2.2.2.2.2.2.2.1, F.2.2.2.2.2.2.2.2.1, F.2.2.2.2.2.2.2.2.2]
  rfl

theorem ReadsBack.shrI32 (h : Hdr) (d : BitVec 6) (a : BitVec 6) (b : BitVec 6) (x : Bool) (y : Bool) : Statement (.shrI32 h d a b x y) := by
  have F := encForm12 h 0x18000011 d a b x y (by decide) 0x18000011 rfl (by decide)
  refine readsBack_of h _ rfl rfl F.1 F.2.1 ((parse6 h _ F.2.2.1).trans ?_)
  unfold decodeVint
  rw [show (fld (mkWord h _) 0 6).toNat = 17 from F.2.2.2.1, F.2.2.2.2.1, F.2.2.2.2.2.1, F.2.2.2.2.2.2.1, F.2.2.2.2.2.2.2.1, F.2.2.2.2.2.2.2.2.1, F.2.2.2.2.2.2.2.2.2]
  rfl

theorem ReadsBack.sraI32 (h : Hdr) (d : BitVec 6) (a : BitVec 6) (b : BitVec 6) (x : Bool) (y : Bool) : Statement (.sraI32 h d a b x y) := by
  have F := encForm12 h 0x18000012 d a b x y (by decide) 0x18000012 rfl (by decide)
  refine readsBack_of h _ rfl rfl F.1 F.2.1 ((parse6 h _ F.2.2.1).trans ?_)
  unfold decodeVint
  rw [show (fld (mkWord h _) 0 6).toNat = 18 from F.2.2.2.1, F.2.2.2.2.1, F.2.2.2.2.2.1, F.2.2.2.2.2.2.1, F.2.2.2.2.2.2.2.1, F.2.2.2.2.2.2.2.2.1, F.2.2.2.2.2.2.2.2.2]
  rfl

theorem ReadsBack.clzI32 (h : Hdr) (d : BitVec 6) (a : BitVec 6) (x : Bool) : Statement (.clzI32 h d a x) := by
  have F := encForm13 h 0x18000013 d a x (by decide) 0x18000013 rfl (by decide)
  refine readsBack_of h _ rfl rfl F.1 F.2.1 ((parse6 h _ F.2.2.1).trans ?_)
  unfold decodeVint
  rw [show (fld (mkWord h _) 0 6).toNat = 19 from F.2.2.2.1, F.2.2.2.2.1, F.2.2.2.2.2.1, F.2.2.2.2.2.2.1, F.2.2.2.2.2.2.2]
  rfl

theorem ReadsBack.popcI32 (h : Hdr) (d : BitVec 6) (a : BitVec 6) (x : Bool) : Statement (.popcI32 h d a x) := by
  have F := encForm13 h 0x18000014 d a x (by decide) 0x18000014 rfl (by decide)
  refine readsBack_of h _ rfl rfl F.1 F.2.1 ((parse6 h _ F.2.2.1).trans ?_)
  unfold decodeVint
  rw [show (fld (mkWord h _) 0 6).toNat = 20 from F.2.2.2.1, F.2.2.2.2.1, F.2.2.2.2.2.1, F.2.2.2.2.2.2.1, F.2.2.2.2.2.2.2]
  rfl

theorem ReadsBack.brevI32 (h : Hdr) (d : BitVec 6) (a : BitVec 6) (x : Bool) : Statement (.brevI32 h d a x) := by
  have F := encForm13 h 0x18000015 d a x (by decide) 0x18000015 rfl (by decide)
  refine readsBack_of h _ rfl rfl F.1 F.2.1 ((parse6 h _ F.2.2.1).trans ?_)
  unfold decodeVint
  rw [show (fld (mkWord h _) 0 6).toNat = 21 from F.2.2.2.1, F.2.2.2.2.1, F.2.2.2.2.2.1, F.2.2.2.2.2.2.1, F.2.2.2.2.2.2.2]
  rfl

theorem ReadsBack.addsI32 (h : Hdr) (d : BitVec 6) (a : BitVec 6) (b : BitVec 6) (x : Bool) (y : Bool) : Statement (.addsI32 h d a b x y) := by
  have F := encForm12 h 0x18000016 d a b x y (by decide) 0x18000016 rfl (by decide)
  refine readsBack_of h _ rfl rfl F.1 F.2.1 ((parse6 h _ F.2.2.1).trans ?_)
  unfold decodeVint
  rw [show (fld (mkWord h _) 0 6).toNat = 22 from F.2.2.2.1, F.2.2.2.2.1, F.2.2.2.2.2.1, F.2.2.2.2.2.2.1, F.2.2.2.2.2.2.2.1, F.2.2.2.2.2.2.2.2.1, F.2.2.2.2.2.2.2.2.2]
  rfl

theorem ReadsBack.subsI32 (h : Hdr) (d : BitVec 6) (a : BitVec 6) (b : BitVec 6) (x : Bool) (y : Bool) : Statement (.subsI32 h d a b x y) := by
  have F := encForm12 h 0x18000017 d a b x y (by decide) 0x18000017 rfl (by decide)
  refine readsBack_of h _ rfl rfl F.1 F.2.1 ((parse6 h _ F.2.2.1).trans ?_)
  unfold decodeVint
  rw [show (fld (mkWord h _) 0 6).toNat = 23 from F.2.2.2.1, F.2.2.2.2.1, F.2.2.2.2.2.1, F.2.2.2.2.2.2.1, F.2.2.2.2.2.2.2.1, F.2.2.2.2.2.2.2.2.1, F.2.2.2.2.2.2.2.2.2]
  rfl

theorem ReadsBack.addsnI32 (h : Hdr) (d : BitVec 6) (a : BitVec 6) (b : BitVec 6) (x : Bool) (y : Bool) : Statement (.addsnI32 h d a b x y) := by
  have F := encForm12 h 0x18000018 d a b x y (by decide) 0x18000018 rfl (by decide)
  refine readsBack_of h _ rfl rfl F.1 F.2.1 ((parse6 h _ F.2.2.1).trans ?_)
  unfold decodeVint
  rw [show (fld (mkWord h _) 0 6).toNat = 24 from F.2.2.2.1, F.2.2.2.2.1, F.2.2.2.2.2.1, F.2.2.2.2.2.2.1, F.2.2.2.2.2.2.2.1, F.2.2.2.2.2.2.2.2.1, F.2.2.2.2.2.2.2.2.2]
  rfl

theorem ReadsBack.subsnI32 (h : Hdr) (d : BitVec 6) (a : BitVec 6) (b : BitVec 6) (x : Bool) (y : Bool) : Statement (.subsnI32 h d a b x y) := by
  have F := encForm12 h 0x18000019 d a b x y (by decide) 0x18000019 rfl (by decide)
  refine readsBack_of h _ rfl rfl F.1 F.2.1 ((parse6 h _ F.2.2.1).trans ?_)
  unfold decodeVint
  rw [show (fld (mkWord h _) 0 6).toNat = 25 from F.2.2.2.1, F.2.2.2.2.1, F.2.2.2.2.2.1, F.2.2.2.2.2.2.1, F.2.2.2.2.2.2.2.1, F.2.2.2.2.2.2.2.2.1, F.2.2.2.2.2.2.2.2.2]
  rfl

theorem ReadsBack.cmpeqI32 (h : Hdr) (d : BitVec 3) (a : BitVec 6) (b : BitVec 6) (x : Bool) (y : Bool) : Statement (.cmpeqI32 h d a b x y) := by
  have F := encForm14 h 0x1800001a d a b x y (by decide) 0x1800001a rfl (by decide)
  refine readsBack_of h _ rfl rfl F.1 F.2.1 ((parse6 h _ F.2.2.1).trans ?_)
  unfold decodeVint
  rw [show (fld (mkWord h _) 0 6).toNat = 26 from F.2.2.2.1, F.2.2.2.2.1, F.2.2.2.2.2.2.1, F.2.2.2.2.2.2.2.1, F.2.2.2.2.2.2.2.2.1, F.2.2.2.2.2.2.2.2.2]
  simp only [F.2.2.2.2.2.1]

theorem ReadsBack.cmpneI32 (h : Hdr) (d : BitVec 3) (a : BitVec 6) (b : BitVec 6) (x : Bool) (y : Bool) : Statement (.cmpneI32 h d a b x y) := by
  have F := encForm14 h 0x1800001b d a b x y (by decide) 0x1800001b rfl (by decide)
  refine readsBack_of h _ rfl rfl F.1 F.2.1 ((parse6 h _ F.2.2.1).trans ?_)
  unfold decodeVint
  rw [show (fld (mkWord h _) 0 6).toNat = 27 from F.2.2.2.1, F.2.2.2.2.1, F.2.2.2.2.2.2.1, F.2.2.2.2.2.2.2.1, F.2.2.2.2.2.2.2.2.1, F.2.2.2.2.2.2.2.2.2]
  simp only [F.2.2.2.2.2.1]

theorem ReadsBack.cmpltI32 (h : Hdr) (d : BitVec 3) (a : BitVec 6) (b : BitVec 6) (x : Bool) (y : Bool) : Statement (.cmpltI32 h d a b x y) := by
  have F := encForm14 h 0x1800001c d a b x y (by decide) 0x1800001c rfl (by decide)
  refine readsBack_of h _ rfl rfl F.1 F.2.1 ((parse6 h _ F.2.2.1).trans ?_)
  unfold decodeVint
  rw [show (fld (mkWord h _) 0 6).toNat = 28 from F.2.2.2.1, F.2.2.2.2.1, F.2.2.2.2.2.2.1, F.2.2.2.2.2.2.2.1, F.2.2.2.2.2.2.2.2.1, F.2.2.2.2.2.2.2.2.2]
  simp only [F.2.2.2.2.2.1]

theorem ReadsBack.cmpleI32 (h : Hdr) (d : BitVec 3) (a : BitVec 6) (b : BitVec 6) (x : Bool) (y : Bool) : Statement (.cmpleI32 h d a b x y) := by
  have F := encForm14 h 0x1800001d d a b x y (by decide) 0x1800001d rfl (by decide)
  refine readsBack_of h _ rfl rfl F.1 F.2.1 ((parse6 h _ F.2.2.1).trans ?_)
  unfold decodeVint
  rw [show (fld (mkWord h _) 0 6).toNat = 29 from F.2.2.2.1, F.2.2.2.2.1, F.2.2.2.2.2.2.1, F.2.2.2.2.2.2.2.1, F.2.2.2.2.2.2.2.2.1, F.2.2.2.2.2.2.2.2.2]
  simp only [F.2.2.2.2.2.1]

theorem ReadsBack.cmpltnI32 (h : Hdr) (d : BitVec 3) (a : BitVec 6) (b : BitVec 6) (x : Bool) (y : Bool) : Statement (.cmpltnI32 h d a b x y) := by
  have F := encForm14 h 0x1800001e d a b x y (by decide) 0x1800001e rfl (by decide)
  refine readsBack_of h _ rfl rfl F.1 F.2.1 ((parse6 h _ F.2.2.1).trans ?_)
  unfold decodeVint
  rw [show (fld (mkWord h _) 0 6).toNat = 30 from F.2.2.2.1, F.2.2.2.2.1, F.2.2.2.2.2.2.1, F.2.2.2.2.2.2.2.1, F.2.2.2.2.2.2.2.2.1, F.2.2.2.2.2.2.2.2.2]
  simp only [F.2.2.2.2.2.1]

theorem ReadsBack.cmplenI32 (h : Hdr) (d : BitVec 3) (a : BitVec 6) (b : BitVec 6) (x : Bool) (y : Bool) : Statement (.cmplenI32 h d a b x y) := by
  have F := encForm14 h 0x1800001f d a b x y (by decide) 0x1800001f rfl (by decide)
  refine readsBack_of h _ rfl rfl F.1 F.2.1 ((parse6 h _ F.2.2.1).trans ?_)
  unfold decodeVint
  rw [show (fld (mkWord h _) 0 6).toNat = 31 from F.2.2.2.1, F.2.2.2.2.1, F.2.2.2.2.2.2.1, F.2.2.2.2.2.2.2.1, F.2.2.2.2.2.2.2.2.1, F.2.2.2.2.2.2.2.2.2]
  simp only [F.2.2.2.2.2.1]

theorem ReadsBack.selI32 (h : Hdr) (d : BitVec 6) (a : BitVec 6) (b : BitVec 6) (x : Bool) (y : Bool) : Statement (.selI32 h d a b x y) := by
  have F := encForm12 h 0x18000020 d a b x y (by decide) 0x18000020 rfl (by decide)
  refine readsBack_of h _ rfl rfl F.1 F.2.1 ((parse6 h _ F.2.2.1).trans ?_)
  unfold decodeVint
  rw [show (fld (mkWord h _) 0 6).toNat = 32 from F.2.2.2.1, F.2.2.2.2.1, F.2.2.2.2.2.1, F.2.2.2.2.2.2.1, F.2.2.2.2.2.2.2.1, F.2.2.2.2.2.2.2.2.1, F.2.2.2.2.2.2.2.2.2]
  rfl

theorem ReadsBack.movI32 (h : Hdr) (d : BitVec 6) (a : BitVec 6) (x : Bool) : Statement (.movI32 h d a x) := by
  have F := encForm13 h 0x18000021 d a x (by decide) 0x18000021 rfl (by decide)
  refine readsBack_of h _ rfl rfl F.1 F.2.1 ((parse6 h _ F.2.2.1).trans ?_)
  unfold decodeVint
  rw [show (fld (mkWord h _) 0 6).toNat = 33 from F.2.2.2.1, F.2.2.2.2.1, F.2.2.2.2.2.1, F.2.2.2.2.2.2.1, F.2.2.2.2.2.2.2]
  rfl

theorem ReadsBack.movsI32 (h : Hdr) (d : BitVec 6) (a : BitVec 6) : Statement (.movsI32 h d a) := by
  have F := encForm2 h 0x18000022 d a (by decide) 0x18000022 rfl (by decide)
  refine readsBack_of h _ rfl rfl F.1 F.2.1 ((parse6 h _ F.2.2.1).trans ?_)
  unfold decodeVint
  rw [show (fld (mkWord h _) 0 6).toNat = 34 from F.2.2.2.1, F.2.2.2.2.1, F.2.2.2.2.2.1, F.2.2.2.2.2.2]
  rfl

theorem ReadsBack.vclmul (h : Hdr) (d : BitVec 6) (a : BitVec 6) (b : BitVec 6) (x : Bool) (y : Bool) : Statement (.vclmul h d a b x y) := by
  have F := encForm12 h 0x18000023 d a b x y (by decide) 0x18000023 rfl (by decide)
  refine readsBack_of h _ rfl rfl F.1 F.2.1 ((parse6 h _ F.2.2.1).trans ?_)
  unfold decodeVint
  rw [show (fld (mkWord h _) 0 6).toNat = 35 from F.2.2.2.1, F.2.2.2.2.1, F.2.2.2.2.2.1, F.2.2.2.2.2.2.1, F.2.2.2.2.2.2.2.1, F.2.2.2.2.2.2.2.2.1, F.2.2.2.2.2.2.2.2.2]
  rfl

theorem ReadsBack.vclmulh (h : Hdr) (d : BitVec 6) (a : BitVec 6) (b : BitVec 6) (x : Bool) (y : Bool) : Statement (.vclmulh h d a b x y) := by
  have F := encForm12 h 0x18000024 d a b x y (by decide) 0x18000024 rfl (by decide)
  refine readsBack_of h _ rfl rfl F.1 F.2.1 ((parse6 h _ F.2.2.1).trans ?_)
  unfold decodeVint
  rw [show (fld (mkWord h _) 0 6).toNat = 36 from F.2.2.2.1, F.2.2.2.2.1, F.2.2.2.2.2.1, F.2.2.2.2.2.2.1, F.2.2.2.2.2.2.2.1, F.2.2.2.2.2.2.2.2.1, F.2.2.2.2.2.2.2.2.2]
  rfl

theorem ReadsBack.madI32 (h : Hdr) (d : BitVec 6) (a : BitVec 6) (b : BitVec 6) (x : Bool) (y : Bool) : Statement (.madI32 h d a b x y) := by
  have F := encForm12 h 0x18000025 d a b x y (by decide) 0x18000025 rfl (by decide)
  refine readsBack_of h _ rfl rfl F.1 F.2.1 ((parse6 h _ F.2.2.1).trans ?_)
  unfold decodeVint
  rw [show (fld (mkWord h _) 0 6).toNat = 37 from F.2.2.2.1, F.2.2.2.2.1, F.2.2.2.2.2.1, F.2.2.2.2.2.2.1, F.2.2.2.2.2.2.2.1, F.2.2.2.2.2.2.2.2.1, F.2.2.2.2.2.2.2.2.2]
  rfl

theorem ReadsBack.addiI32 (h : Hdr) (d : BitVec 6) (a : BitVec 6) (i : BitVec 11) : Statement (.addiI32 h d a i) := by
  have F := encForm6 h 0x1c000000 d a i (by decide) 0x1c000000 rfl (by decide)
  refine readsBack_of h _ rfl rfl F.1 F.2.1 ((parse7 h _ F.2.2.1).trans ?_)
  unfold decodeVimm
  rw [show (fld (mkWord h _) 11 3).toNat = 0 from F.2.2.2.1, F.2.2.2.2.1, F.2.2.2.2.2.1, F.2.2.2.2.2.2.1, F.2.2.2.2.2.2.2]
  rfl

theorem ReadsBack.andiI32 (h : Hdr) (d : BitVec 6) (a : BitVec 6) (i : BitVec 11) : Statement (.andiI32 h d a i) := by
  have F := encForm6 h 0x1c000800 d a i (by decide) 0x1c000800 rfl (by decide)
  refine readsBack_of h _ rfl rfl F.1 F.2.1 ((parse7 h _ F.2.2.1).trans ?_)
  unfold decodeVimm
  rw [show (fld (mkWord h _) 11 3).toNat = 1 from F.2.2.2.1, F.2.2.2.2.1, F.2.2.2.2.2.1, F.2.2.2.2.2.2.1, F.2.2.2.2.2.2.2]
  rfl

theorem ReadsBack.oriI32 (h : Hdr) (d : BitVec 6) (a : BitVec 6) (i : BitVec 11) : Statement (.oriI32 h d a i) := by
  have F := encForm6 h 0x1c001000 d a i (by decide) 0x1c001000 rfl (by decide)
  refine readsBack_of h _ rfl rfl F.1 F.2.1 ((parse7 h _ F.2.2.1).trans ?_)
  unfold decodeVimm
  rw [show (fld (mkWord h _) 11 3).toNat = 2 from F.2.2.2.1, F.2.2.2.2.1, F.2.2.2.2.2.1, F.2.2.2.2.2.2.1, F.2.2.2.2.2.2.2]
  rfl

theorem ReadsBack.xoriI32 (h : Hdr) (d : BitVec 6) (a : BitVec 6) (i : BitVec 11) : Statement (.xoriI32 h d a i) := by
  have F := encForm6 h 0x1c001800 d a i (by decide) 0x1c001800 rfl (by decide)
  refine readsBack_of h _ rfl rfl F.1 F.2.1 ((parse7 h _ F.2.2.1).trans ?_)
  unfold decodeVimm
  rw [show (fld (mkWord h _) 11 3).toNat = 3 from F.2.2.2.1, F.2.2.2.2.1, F.2.2.2.2.2.1, F.2.2.2.2.2.2.1, F.2.2.2.2.2.2.2]
  rfl

theorem ReadsBack.shliI32 (h : Hdr) (d : BitVec 6) (a : BitVec 6) (i : BitVec 11) : Statement (.shliI32 h d a i) := by
  have F := encForm6 h 0x1c002000 d a i (by decide) 0x1c002000 rfl (by decide)
  refine readsBack_of h _ rfl rfl F.1 F.2.1 ((parse7 h _ F.2.2.1).trans ?_)
  unfold decodeVimm
  rw [show (fld (mkWord h _) 11 3).toNat = 4 from F.2.2.2.1, F.2.2.2.2.1, F.2.2.2.2.2.1, F.2.2.2.2.2.2.1, F.2.2.2.2.2.2.2]
  rfl

theorem ReadsBack.shriI32 (h : Hdr) (d : BitVec 6) (a : BitVec 6) (i : BitVec 11) : Statement (.shriI32 h d a i) := by
  have F := encForm6 h 0x1c002800 d a i (by decide) 0x1c002800 rfl (by decide)
  refine readsBack_of h _ rfl rfl F.1 F.2.1 ((parse7 h _ F.2.2.1).trans ?_)
  unfold decodeVimm
  rw [show (fld (mkWord h _) 11 3).toNat = 5 from F.2.2.2.1, F.2.2.2.2.1, F.2.2.2.2.2.1, F.2.2.2.2.2.2.1, F.2.2.2.2.2.2.2]
  rfl

theorem ReadsBack.sraiI32 (h : Hdr) (d : BitVec 6) (a : BitVec 6) (i : BitVec 11) : Statement (.sraiI32 h d a i) := by
  have F := encForm6 h 0x1c003000 d a i (by decide) 0x1c003000 rfl (by decide)
  refine readsBack_of h _ rfl rfl F.1 F.2.1 ((parse7 h _ F.2.2.1).trans ?_)
  unfold decodeVimm
  rw [show (fld (mkWord h _) 11 3).toNat = 6 from F.2.2.2.1, F.2.2.2.2.1, F.2.2.2.2.2.1, F.2.2.2.2.2.2.1, F.2.2.2.2.2.2.2]
  rfl

theorem ReadsBack.liiI32 (h : Hdr) (d : BitVec 6) (i : BitVec 11) : Statement (.liiI32 h d i) := by
  have F := encForm15 h 0x1c003800 d i (by decide) 0x1c003800 rfl (by decide)
  refine readsBack_of h _ rfl rfl F.1 F.2.1 ((parse7 h _ F.2.2.1).trans ?_)
  unfold decodeVimm
  rw [show (fld (mkWord h _) 11 3).toNat = 7 from F.2.2.2.1, F.2.2.2.2.1, F.2.2.2.2.2.1, F.2.2.2.2.2.2]
  rfl

theorem ReadsBack.addF32 (h : Hdr) (d : BitVec 6) (a : BitVec 6) (b : BitVec 6) (x : Bool) (y : Bool) : Statement (.addF32 h d a b x y) := by
  have F := encForm12 h 0x20000000 d a b x y (by decide) 0x20000000 rfl (by decide)
  refine readsBack_of h _ rfl rfl F.1 F.2.1 ((parse8 h _ F.2.2.1).trans ?_)
  unfold decodeVflt
  rw [show (fld (mkWord h _) 0 6).toNat = 0 from F.2.2.2.1, F.2.2.2.2.1, F.2.2.2.2.2.1, F.2.2.2.2.2.2.1, F.2.2.2.2.2.2.2.1, F.2.2.2.2.2.2.2.2.1, F.2.2.2.2.2.2.2.2.2]
  rfl

theorem ReadsBack.subF32 (h : Hdr) (d : BitVec 6) (a : BitVec 6) (b : BitVec 6) (x : Bool) (y : Bool) : Statement (.subF32 h d a b x y) := by
  have F := encForm12 h 0x20000001 d a b x y (by decide) 0x20000001 rfl (by decide)
  refine readsBack_of h _ rfl rfl F.1 F.2.1 ((parse8 h _ F.2.2.1).trans ?_)
  unfold decodeVflt
  rw [show (fld (mkWord h _) 0 6).toNat = 1 from F.2.2.2.1, F.2.2.2.2.1, F.2.2.2.2.2.1, F.2.2.2.2.2.2.1, F.2.2.2.2.2.2.2.1, F.2.2.2.2.2.2.2.2.1, F.2.2.2.2.2.2.2.2.2]
  rfl

theorem ReadsBack.mulF32 (h : Hdr) (d : BitVec 6) (a : BitVec 6) (b : BitVec 6) (x : Bool) (y : Bool) : Statement (.mulF32 h d a b x y) := by
  have F := encForm12 h 0x20000002 d a b x y (by decide) 0x20000002 rfl (by decide)
  refine readsBack_of h _ rfl rfl F.1 F.2.1 ((parse8 h _ F.2.2.1).trans ?_)
  unfold decodeVflt
  rw [show (fld (mkWord h _) 0 6).toNat = 2 from F.2.2.2.1, F.2.2.2.2.1, F.2.2.2.2.2.1, F.2.2.2.2.2.2.1, F.2.2.2.2.2.2.2.1, F.2.2.2.2.2.2.2.2.1, F.2.2.2.2.2.2.2.2.2]
  rfl

theorem ReadsBack.fmaF32 (h : Hdr) (d : BitVec 6) (a : BitVec 6) (b : BitVec 6) (x : Bool) (y : Bool) : Statement (.fmaF32 h d a b x y) := by
  have F := encForm12 h 0x20000003 d a b x y (by decide) 0x20000003 rfl (by decide)
  refine readsBack_of h _ rfl rfl F.1 F.2.1 ((parse8 h _ F.2.2.1).trans ?_)
  unfold decodeVflt
  rw [show (fld (mkWord h _) 0 6).toNat = 3 from F.2.2.2.1, F.2.2.2.2.1, F.2.2.2.2.2.1, F.2.2.2.2.2.2.1, F.2.2.2.2.2.2.2.1, F.2.2.2.2.2.2.2.2.1, F.2.2.2.2.2.2.2.2.2]
  rfl

theorem ReadsBack.fmsF32 (h : Hdr) (d : BitVec 6) (a : BitVec 6) (b : BitVec 6) (x : Bool) (y : Bool) : Statement (.fmsF32 h d a b x y) := by
  have F := encForm12 h 0x20000004 d a b x y (by decide) 0x20000004 rfl (by decide)
  refine readsBack_of h _ rfl rfl F.1 F.2.1 ((parse8 h _ F.2.2.1).trans ?_)
  unfold decodeVflt
  rw [show (fld (mkWord h _) 0 6).toNat = 4 from F.2.2.2.1, F.2.2.2.2.1, F.2.2.2.2.2.1, F.2.2.2.2.2.2.1, F.2.2.2.2.2.2.2.1, F.2.2.2.2.2.2.2.2.1, F.2.2.2.2.2.2.2.2.2]
  rfl

theorem ReadsBack.minF32 (h : Hdr) (d : BitVec 6) (a : BitVec 6) (b : BitVec 6) (x : Bool) (y : Bool) : Statement (.minF32 h d a b x y) := by
  have F := encForm12 h 0x20000005 d a b x y (by decide) 0x20000005 rfl (by decide)
  refine readsBack_of h _ rfl rfl F.1 F.2.1 ((parse8 h _ F.2.2.1).trans ?_)
  unfold decodeVflt
  rw [show (fld (mkWord h _) 0 6).toNat = 5 from F.2.2.2.1, F.2.2.2.2.1, F.2.2.2.2.2.1, F.2.2.2.2.2.2.1, F.2.2.2.2.2.2.2.1, F.2.2.2.2.2.2.2.2.1, F.2.2.2.2.2.2.2.2.2]
  rfl

theorem ReadsBack.maxF32 (h : Hdr) (d : BitVec 6) (a : BitVec 6) (b : BitVec 6) (x : Bool) (y : Bool) : Statement (.maxF32 h d a b x y) := by
  have F := encForm12 h 0x20000006 d a b x y (by decide) 0x20000006 rfl (by decide)
  refine readsBack_of h _ rfl rfl F.1 F.2.1 ((parse8 h _ F.2.2.1).trans ?_)
  unfold decodeVflt
  rw [show (fld (mkWord h _) 0 6).toNat = 6 from F.2.2.2.1, F.2.2.2.2.1, F.2.2.2.2.2.1, F.2.2.2.2.2.2.1, F.2.2.2.2.2.2.2.1, F.2.2.2.2.2.2.2.2.1, F.2.2.2.2.2.2.2.2.2]
  rfl

theorem ReadsBack.absF32 (h : Hdr) (d : BitVec 6) (a : BitVec 6) (x : Bool) : Statement (.absF32 h d a x) := by
  have F := encForm13 h 0x20000007 d a x (by decide) 0x20000007 rfl (by decide)
  refine readsBack_of h _ rfl rfl F.1 F.2.1 ((parse8 h _ F.2.2.1).trans ?_)
  unfold decodeVflt
  rw [show (fld (mkWord h _) 0 6).toNat = 7 from F.2.2.2.1, F.2.2.2.2.1, F.2.2.2.2.2.1, F.2.2.2.2.2.2.1, F.2.2.2.2.2.2.2]
  rfl

theorem ReadsBack.negF32 (h : Hdr) (d : BitVec 6) (a : BitVec 6) (x : Bool) : Statement (.negF32 h d a x) := by
  have F := encForm13 h 0x20000008 d a x (by decide) 0x20000008 rfl (by decide)
  refine readsBack_of h _ rfl rfl F.1 F.2.1 ((parse8 h _ F.2.2.1).trans ?_)
  unfold decodeVflt
  rw [show (fld (mkWord h _) 0 6).toNat = 8 from F.2.2.2.1, F.2.2.2.2.1, F.2.2.2.2.2.1, F.2.2.2.2.2.2.1, F.2.2.2.2.2.2.2]
  rfl

theorem ReadsBack.cmpeqF32 (h : Hdr) (d : BitVec 3) (a : BitVec 6) (b : BitVec 6) (x : Bool) (y : Bool) : Statement (.cmpeqF32 h d a b x y) := by
  have F := encForm14 h 0x20000009 d a b x y (by decide) 0x20000009 rfl (by decide)
  refine readsBack_of h _ rfl rfl F.1 F.2.1 ((parse8 h _ F.2.2.1).trans ?_)
  unfold decodeVflt
  rw [show (fld (mkWord h _) 0 6).toNat = 9 from F.2.2.2.1, F.2.2.2.2.1, F.2.2.2.2.2.2.1, F.2.2.2.2.2.2.2.1, F.2.2.2.2.2.2.2.2.1, F.2.2.2.2.2.2.2.2.2]
  simp only [F.2.2.2.2.2.1]

theorem ReadsBack.cmpltF32 (h : Hdr) (d : BitVec 3) (a : BitVec 6) (b : BitVec 6) (x : Bool) (y : Bool) : Statement (.cmpltF32 h d a b x y) := by
  have F := encForm14 h 0x2000000a d a b x y (by decide) 0x2000000a rfl (by decide)
  refine readsBack_of h _ rfl rfl F.1 F.2.1 ((parse8 h _ F.2.2.1).trans ?_)
  unfold decodeVflt
  rw [show (fld (mkWord h _) 0 6).toNat = 10 from F.2.2.2.1, F.2.2.2.2.1, F.2.2.2.2.2.2.1, F.2.2.2.2.2.2.2.1, F.2.2.2.2.2.2.2.2.1, F.2.2.2.2.2.2.2.2.2]
  simp only [F.2.2.2.2.2.1]

theorem ReadsBack.cmpleF32 (h : Hdr) (d : BitVec 3) (a : BitVec 6) (b : BitVec 6) (x : Bool) (y : Bool) : Statement (.cmpleF32 h d a b x y) := by
  have F := encForm14 h 0x2000000b d a b x y (by decide) 0x2000000b rfl (by decide)
  refine readsBack_of h _ rfl rfl F.1 F.2.1 ((parse8 h _ F.2.2.1).trans ?_)
  unfold decodeVflt
  rw [show (fld (mkWord h _) 0 6).toNat = 11 from F.2.2.2.1, F.2.2.2.2.1, F.2.2.2.2.2.2.1, F.2.2.2.2.2.2.2.1, F.2.2.2.2.2.2.2.2.1, F.2.2.2.2.2.2.2.2.2]
  simp only [F.2.2.2.2.2.1]

theorem ReadsBack.cmpunF32 (h : Hdr) (d : BitVec 3) (a : BitVec 6) (b : BitVec 6) (x : Bool) (y : Bool) : Statement (.cmpunF32 h d a b x y) := by
  have F := encForm14 h 0x2000000c d a b x y (by decide) 0x2000000c rfl (by decide)
  refine readsBack_of h _ rfl rfl F.1 F.2.1 ((parse8 h _ F.2.2.1).trans ?_)
  unfold decodeVflt
  rw [show (fld (mkWord h _) 0 6).toNat = 12 from F.2.2.2.1, F.2.2.2.2.1, F.2.2.2.2.2.2.1, F.2.2.2.2.2.2.2.1, F.2.2.2.2.2.2.2.2.1, F.2.2.2.2.2.2.2.2.2]
  simp only [F.2.2.2.2.2.1]

theorem ReadsBack.copysignF32 (h : Hdr) (d : BitVec 6) (a : BitVec 6) (b : BitVec 6) (x : Bool) (y : Bool) : Statement (.copysignF32 h d a b x y) := by
  have F := encForm12 h 0x2000000d d a b x y (by decide) 0x2000000d rfl (by decide)
  refine readsBack_of h _ rfl rfl F.1 F.2.1 ((parse8 h _ F.2.2.1).trans ?_)
  unfold decodeVflt
  rw [show (fld (mkWord h _) 0 6).toNat = 13 from F.2.2.2.1, F.2.2.2.2.1, F.2.2.2.2.2.1, F.2.2.2.2.2.2.1, F.2.2.2.2.2.2.2.1, F.2.2.2.2.2.2.2.2.1, F.2.2.2.2.2.2.2.2.2]
  rfl

theorem ReadsBack.addH2 (h : Hdr) (d : BitVec 6) (a : BitVec 6) (b : BitVec 6) (x : Bool) (y : Bool) : Statement (.addH2 h d a b x y) := by
  have F := encForm12 h 0x20000010 d a b x y (by decide) 0x20000010 rfl (by decide)
  refine readsBack_of h _ rfl rfl F.1 F.2.1 ((parse8 h _ F.2.2.1).trans ?_)
  unfold decodeVflt
  rw [show (fld (mkWord h _) 0 6).toNat = 16 from F.2.2.2.1, F.2.2.2.2.1, F.2.2.2.2.2.1, F.2.2.2.2.2.2.1, F.2.2.2.2.2.2.2.1, F.2.2.2.2.2.2.2.2.1, F.2.2.2.2.2.2.2.2.2]
  rfl

theorem ReadsBack.subH2 (h : Hdr) (d : BitVec 6) (a : BitVec 6) (b : BitVec 6) (x : Bool) (y : Bool) : Statement (.subH2 h d a b x y) := by
  have F := encForm12 h 0x20000011 d a b x y (by decide) 0x20000011 rfl (by decide)
  refine readsBack_of h _ rfl rfl F.1 F.2.1 ((parse8 h _ F.2.2.1).trans ?_)
  unfold decodeVflt
  rw [show (fld (mkWord h _) 0 6).toNat = 17 from F.2.2.2.1, F.2.2.2.2.1, F.2.2.2.2.2.1, F.2.2.2.2.2.2.1, F.2.2.2.2.2.2.2.1, F.2.2.2.2.2.2.2.2.1, F.2.2.2.2.2.2.2.2.2]
  rfl

theorem ReadsBack.mulH2 (h : Hdr) (d : BitVec 6) (a : BitVec 6) (b : BitVec 6) (x : Bool) (y : Bool) : Statement (.mulH2 h d a b x y) := by
  have F := encForm12 h 0x20000012 d a b x y (by decide) 0x20000012 rfl (by decide)
  refine readsBack_of h _ rfl rfl F.1 F.2.1 ((parse8 h _ F.2.2.1).trans ?_)
  unfold decodeVflt
  rw [show (fld (mkWord h _) 0 6).toNat = 18 from F.2.2.2.1, F.2.2.2.2.1, F.2.2.2.2.2.1, F.2.2.2.2.2.2.1, F.2.2.2.2.2.2.2.1, F.2.2.2.2.2.2.2.2.1, F.2.2.2.2.2.2.2.2.2]
  rfl

theorem ReadsBack.fmaH2 (h : Hdr) (d : BitVec 6) (a : BitVec 6) (b : BitVec 6) (x : Bool) (y : Bool) : Statement (.fmaH2 h d a b x y) := by
  have F := encForm12 h 0x20000013 d a b x y (by decide) 0x20000013 rfl (by decide)
  refine readsBack_of h _ rfl rfl F.1 F.2.1 ((parse8 h _ F.2.2.1).trans ?_)
  unfold decodeVflt
  rw [show (fld (mkWord h _) 0 6).toNat = 19 from F.2.2.2.1, F.2.2.2.2.1, F.2.2.2.2.2.1, F.2.2.2.2.2.2.1, F.2.2.2.2.2.2.2.1, F.2.2.2.2.2.2.2.2.1, F.2.2.2.2.2.2.2.2.2]
  rfl

theorem ReadsBack.minH2 (h : Hdr) (d : BitVec 6) (a : BitVec 6) (b : BitVec 6) (x : Bool) (y : Bool) : Statement (.minH2 h d a b x y) := by
  have F := encForm12 h 0x20000014 d a b x y (by decide) 0x20000014 rfl (by decide)
  refine readsBack_of h _ rfl rfl F.1 F.2.1 ((parse8 h _ F.2.2.1).trans ?_)
  unfold decodeVflt
  rw [show (fld (mkWord h _) 0 6).toNat = 20 from F.2.2.2.1, F.2.2.2.2.1, F.2.2.2.2.2.1, F.2.2.2.2.2.2.1, F.2.2.2.2.2.2.2.1, F.2.2.2.2.2.2.2.2.1, F.2.2.2.2.2.2.2.2.2]
  rfl

theorem ReadsBack.maxH2 (h : Hdr) (d : BitVec 6) (a : BitVec 6) (b : BitVec 6) (x : Bool) (y : Bool) : Statement (.maxH2 h d a b x y) := by
  have F := encForm12 h 0x20000015 d a b x y (by decide) 0x20000015 rfl (by decide)
  refine readsBack_of h _ rfl rfl F.1 F.2.1 ((parse8 h _ F.2.2.1).trans ?_)
  unfold decodeVflt
  rw [show (fld (mkWord h _) 0 6).toNat = 21 from F.2.2.2.1, F.2.2.2.2.1, F.2.2.2.2.2.1, F.2.2.2.2.2.2.1, F.2.2.2.2.2.2.2.1, F.2.2.2.2.2.2.2.2.1, F.2.2.2.2.2.2.2.2.2]
  rfl

theorem ReadsBack.absH2 (h : Hdr) (d : BitVec 6) (a : BitVec 6) (x : Bool) : Statement (.absH2 h d a x) := by
  have F := encForm13 h 0x20000016 d a x (by decide) 0x20000016 rfl (by decide)
  refine readsBack_of h _ rfl rfl F.1 F.2.1 ((parse8 h _ F.2.2.1).trans ?_)
  unfold decodeVflt
  rw [show (fld (mkWord h _) 0 6).toNat = 22 from F.2.2.2.1, F.2.2.2.2.1, F.2.2.2.2.2.1, F.2.2.2.2.2.2.1, F.2.2.2.2.2.2.2]
  rfl

theorem ReadsBack.addBf2 (h : Hdr) (d : BitVec 6) (a : BitVec 6) (b : BitVec 6) (x : Bool) (y : Bool) : Statement (.addBf2 h d a b x y) := by
  have F := encForm12 h 0x20000020 d a b x y (by decide) 0x20000020 rfl (by decide)
  refine readsBack_of h _ rfl rfl F.1 F.2.1 ((parse8 h _ F.2.2.1).trans ?_)
  unfold decodeVflt
  rw [show (fld (mkWord h _) 0 6).toNat = 32 from F.2.2.2.1, F.2.2.2.2.1, F.2.2.2.2.2.1, F.2.2.2.2.2.2.1, F.2.2.2.2.2.2.2.1, F.2.2.2.2.2.2.2.2.1, F.2.2.2.2.2.2.2.2.2]
  rfl

theorem ReadsBack.subBf2 (h : Hdr) (d : BitVec 6) (a : BitVec 6) (b : BitVec 6) (x : Bool) (y : Bool) : Statement (.subBf2 h d a b x y) := by
  have F := encForm12 h 0x20000021 d a b x y (by decide) 0x20000021 rfl (by decide)
  refine readsBack_of h _ rfl rfl F.1 F.2.1 ((parse8 h _ F.2.2.1).trans ?_)
  unfold decodeVflt
  rw [show (fld (mkWord h _) 0 6).toNat = 33 from F.2.2.2.1, F.2.2.2.2.1, F.2.2.2.2.2.1, F.2.2.2.2.2.2.1, F.2.2.2.2.2.2.2.1, F.2.2.2.2.2.2.2.2.1, F.2.2.2.2.2.2.2.2.2]
  rfl

theorem ReadsBack.mulBf2 (h : Hdr) (d : BitVec 6) (a : BitVec 6) (b : BitVec 6) (x : Bool) (y : Bool) : Statement (.mulBf2 h d a b x y) := by
  have F := encForm12 h 0x20000022 d a b x y (by decide) 0x20000022 rfl (by decide)
  refine readsBack_of h _ rfl rfl F.1 F.2.1 ((parse8 h _ F.2.2.1).trans ?_)
  unfold decodeVflt
  rw [show (fld (mkWord h _) 0 6).toNat = 34 from F.2.2.2.1, F.2.2.2.2.1, F.2.2.2.2.2.1, F.2.2.2.2.2.2.1, F.2.2.2.2.2.2.2.1, F.2.2.2.2.2.2.2.2.1, F.2.2.2.2.2.2.2.2.2]
  rfl

theorem ReadsBack.fmaBf2 (h : Hdr) (d : BitVec 6) (a : BitVec 6) (b : BitVec 6) (x : Bool) (y : Bool) : Statement (.fmaBf2 h d a b x y) := by
  have F := encForm12 h 0x20000023 d a b x y (by decide) 0x20000023 rfl (by decide)
  refine readsBack_of h _ rfl rfl F.1 F.2.1 ((parse8 h _ F.2.2.1).trans ?_)
  unfold decodeVflt
  rw [show (fld (mkWord h _) 0 6).toNat = 35 from F.2.2.2.1, F.2.2.2.2.1, F.2.2.2.2.2.1, F.2.2.2.2.2.2.1, F.2.2.2.2.2.2.2.1, F.2.2.2.2.2.2.2.2.1, F.2.2.2.2.2.2.2.2.2]
  rfl

theorem ReadsBack.minBf2 (h : Hdr) (d : BitVec 6) (a : BitVec 6) (b : BitVec 6) (x : Bool) (y : Bool) : Statement (.minBf2 h d a b x y) := by
  have F := encForm12 h 0x20000024 d a b x y (by decide) 0x20000024 rfl (by decide)
  refine readsBack_of h _ rfl rfl F.1 F.2.1 ((parse8 h _ F.2.2.1).trans ?_)
  unfold decodeVflt
  rw [show (fld (mkWord h _) 0 6).toNat = 36 from F.2.2.2.1, F.2.2.2.2.1, F.2.2.2.2.2.1, F.2.2.2.2.2.2.1, F.2.2.2.2.2.2.2.1, F.2.2.2.2.2.2.2.2.1, F.2.2.2.2.2.2.2.2.2]
  rfl

theorem ReadsBack.maxBf2 (h : Hdr) (d : BitVec 6) (a : BitVec 6) (b : BitVec 6) (x : Bool) (y : Bool) : Statement (.maxBf2 h d a b x y) := by
  have F := encForm12 h 0x20000025 d a b x y (by decide) 0x20000025 rfl (by decide)
  refine readsBack_of h _ rfl rfl F.1 F.2.1 ((parse8 h _ F.2.2.1).trans ?_)
  unfold decodeVflt
  rw [show (fld (mkWord h _) 0 6).toNat = 37 from F.2.2.2.1, F.2.2.2.2.1, F.2.2.2.2.2.1, F.2.2.2.2.2.2.1, F.2.2.2.2.2.2.2.1, F.2.2.2.2.2.2.2.2.1, F.2.2.2.2.2.2.2.2.2]
  rfl

theorem ReadsBack.absBf2 (h : Hdr) (d : BitVec 6) (a : BitVec 6) (x : Bool) : Statement (.absBf2 h d a x) := by
  have F := encForm13 h 0x20000026 d a x (by decide) 0x20000026 rfl (by decide)
  refine readsBack_of h _ rfl rfl F.1 F.2.1 ((parse8 h _ F.2.2.1).trans ?_)
  unfold decodeVflt
  rw [show (fld (mkWord h _) 0 6).toNat = 38 from F.2.2.2.1, F.2.2.2.2.1, F.2.2.2.2.2.1, F.2.2.2.2.2.2.1, F.2.2.2.2.2.2.2]
  rfl

theorem ReadsBack.cvtF32I32 (h : Hdr) (d : BitVec 6) (a : BitVec 6) (x : Bool) : Statement (.cvtF32I32 h d a x) := by
  have F := encForm13 h 0x24000000 d a x (by decide) 0x24000000 rfl (by decide)
  refine readsBack_of h _ rfl rfl F.1 F.2.1 ((parse9 h _ F.2.2.1).trans ?_)
  unfold decodeVcvt
  rw [show (fld (mkWord h _) 0 6).toNat = 0 from F.2.2.2.1, F.2.2.2.2.1, F.2.2.2.2.2.1, F.2.2.2.2.2.2.1, F.2.2.2.2.2.2.2]
  rfl

theorem ReadsBack.cvtI32F32 (h : Hdr) (d : BitVec 6) (a : BitVec 6) (x : Bool) : Statement (.cvtI32F32 h d a x) := by
  have F := encForm13 h 0x24000001 d a x (by decide) 0x24000001 rfl (by decide)
  refine readsBack_of h _ rfl rfl F.1 F.2.1 ((parse9 h _ F.2.2.1).trans ?_)
  unfold decodeVcvt
  rw [show (fld (mkWord h _) 0 6).toNat = 1 from F.2.2.2.1, F.2.2.2.2.1, F.2.2.2.2.2.1, F.2.2.2.2.2.2.1, F.2.2.2.2.2.2.2]
  rfl

theorem ReadsBack.cvtF32N32 (h : Hdr) (d : BitVec 6) (a : BitVec 6) (x : Bool) : Statement (.cvtF32N32 h d a x) := by
  have F := encForm13 h 0x24000002 d a x (by decide) 0x24000002 rfl (by decide)
  refine readsBack_of h _ rfl rfl F.1 F.2.1 ((parse9 h _ F.2.2.1).trans ?_)
  unfold decodeVcvt
  rw [show (fld (mkWord h _) 0 6).toNat = 2 from F.2.2.2.1, F.2.2.2.2.1, F.2.2.2.2.2.1, F.2.2.2.2.2.2.1, F.2.2.2.2.2.2.2]
  rfl

theorem ReadsBack.cvtN32F32 (h : Hdr) (d : BitVec 6) (a : BitVec 6) (x : Bool) : Statement (.cvtN32F32 h d a x) := by
  have F := encForm13 h 0x24000003 d a x (by decide) 0x24000003 rfl (by decide)
  refine readsBack_of h _ rfl rfl F.1 F.2.1 ((parse9 h _ F.2.2.1).trans ?_)
  unfold decodeVcvt
  rw [show (fld (mkWord h _) 0 6).toNat = 3 from F.2.2.2.1, F.2.2.2.2.1, F.2.2.2.2.2.1, F.2.2.2.2.2.2.1, F.2.2.2.2.2.2.2]
  rfl

theorem ReadsBack.cvtBf2F32 (h : Hdr) (d : BitVec 6) (a : BitVec 6) (x : Bool) : Statement (.cvtBf2F32 h d a x) := by
  have F := encForm13 h 0x24000004 d a x (by decide) 0x24000004 rfl (by decide)
  refine readsBack_of h _ rfl rfl F.1 F.2.1 ((parse9 h _ F.2.2.1).trans ?_)
  unfold decodeVcvt
  rw [show (fld (mkWord h _) 0 6).toNat = 4 from F.2.2.2.1, F.2.2.2.2.1, F.2.2.2.2.2.1, F.2.2.2.2.2.2.1, F.2.2.2.2.2.2.2]
  rfl

theorem ReadsBack.cvtF32Bf (h : Hdr) (d : BitVec 6) (a : BitVec 6) (x : Bool) : Statement (.cvtF32Bf h d a x) := by
  have F := encForm13 h 0x24000005 d a x (by decide) 0x24000005 rfl (by decide)
  refine readsBack_of h _ rfl rfl F.1 F.2.1 ((parse9 h _ F.2.2.1).trans ?_)
  unfold decodeVcvt
  rw [show (fld (mkWord h _) 0 6).toNat = 5 from F.2.2.2.1, F.2.2.2.2.1, F.2.2.2.2.2.1, F.2.2.2.2.2.2.1, F.2.2.2.2.2.2.2]
  rfl

theorem ReadsBack.cvtH2F32 (h : Hdr) (d : BitVec 6) (a : BitVec 6) (x : Bool) : Statement (.cvtH2F32 h d a x) := by
  have F := encForm13 h 0x24000006 d a x (by decide) 0x24000006 rfl (by decide)
  refine readsBack_of h _ rfl rfl F.1 F.2.1 ((parse9 h _ F.2.2.1).trans ?_)
  unfold decodeVcvt
  rw [show (fld (mkWord h _) 0 6).toNat = 6 from F.2.2.2.1, F.2.2.2.2.1, F.2.2.2.2.2.1, F.2.2.2.2.2.2.1, F.2.2.2.2.2.2.2]
  rfl

theorem ReadsBack.cvtF32H (h : Hdr) (d : BitVec 6) (a : BitVec 6) (x : Bool) : Statement (.cvtF32H h d a x) := by
  have F := encForm13 h 0x24000007 d a x (by decide) 0x24000007 rfl (by decide)
  refine readsBack_of h _ rfl rfl F.1 F.2.1 ((parse9 h _ F.2.2.1).trans ?_)
  unfold decodeVcvt
  rw [show (fld (mkWord h _) 0 6).toNat = 7 from F.2.2.2.1, F.2.2.2.2.1, F.2.2.2.2.2.1, F.2.2.2.2.2.2.1, F.2.2.2.2.2.2.2]
  rfl

theorem ReadsBack.cvtE4x4F32 (h : Hdr) (d : BitVec 6) (a : BitVec 6) (x : Bool) : Statement (.cvtE4x4F32 h d a x) := by
  have F := encForm13 h 0x24000008 d a x (by decide) 0x24000008 rfl (by decide)
  refine readsBack_of h _ rfl rfl F.1 F.2.1 ((parse9 h _ F.2.2.1).trans ?_)
  unfold decodeVcvt
  rw [show (fld (mkWord h _) 0 6).toNat = 8 from F.2.2.2.1, F.2.2.2.2.1, F.2.2.2.2.2.1, F.2.2.2.2.2.2.1, F.2.2.2.2.2.2.2]
  rfl

theorem ReadsBack.cvtF32E4 (h : Hdr) (d : BitVec 6) (a : BitVec 6) (x : Bool) : Statement (.cvtF32E4 h d a x) := by
  have F := encForm13 h 0x24000009 d a x (by decide) 0x24000009 rfl (by decide)
  refine readsBack_of h _ rfl rfl F.1 F.2.1 ((parse9 h _ F.2.2.1).trans ?_)
  unfold decodeVcvt
  rw [show (fld (mkWord h _) 0 6).toNat = 9 from F.2.2.2.1, F.2.2.2.2.1, F.2.2.2.2.2.1, F.2.2.2.2.2.2.1, F.2.2.2.2.2.2.2]
  rfl

theorem ReadsBack.cvtE5x4F32 (h : Hdr) (d : BitVec 6) (a : BitVec 6) (x : Bool) : Statement (.cvtE5x4F32 h d a x) := by
  have F := encForm13 h 0x2400000a d a x (by decide) 0x2400000a rfl (by decide)
  refine readsBack_of h _ rfl rfl F.1 F.2.1 ((parse9 h _ F.2.2.1).trans ?_)
  unfold decodeVcvt
  rw [show (fld (mkWord h _) 0 6).toNat = 10 from F.2.2.2.1, F.2.2.2.2.1, F.2.2.2.2.2.1, F.2.2.2.2.2.2.1, F.2.2.2.2.2.2.2]
  rfl

theorem ReadsBack.cvtF32E5 (h : Hdr) (d : BitVec 6) (a : BitVec 6) (x : Bool) : Statement (.cvtF32E5 h d a x) := by
  have F := encForm13 h 0x2400000b d a x (by decide) 0x2400000b rfl (by decide)
  refine readsBack_of h _ rfl rfl F.1 F.2.1 ((parse9 h _ F.2.2.1).trans ?_)
  unfold decodeVcvt
  rw [show (fld (mkWord h _) 0 6).toNat = 11 from F.2.2.2.1, F.2.2.2.2.1, F.2.2.2.2.2.1, F.2.2.2.2.2.2.1, F.2.2.2.2.2.2.2]
  rfl

theorem ReadsBack.cvtQ4F32 (h : Hdr) (d : BitVec 6) (a : BitVec 6) (b : BitVec 6) (x : Bool) (y : Bool) : Statement (.cvtQ4F32 h d a b x y) := by
  have F := encForm12 h 0x2400000c d a b x y (by decide) 0x2400000c rfl (by decide)
  refine readsBack_of h _ rfl rfl F.1 F.2.1 ((parse9 h _ F.2.2.1).trans ?_)
  unfold decodeVcvt
  rw [show (fld (mkWord h _) 0 6).toNat = 12 from F.2.2.2.1, F.2.2.2.2.1, F.2.2.2.2.2.1, F.2.2.2.2.2.2.1, F.2.2.2.2.2.2.2.1, F.2.2.2.2.2.2.2.2.1, F.2.2.2.2.2.2.2.2.2]
  rfl

theorem ReadsBack.cvtF32Q4 (h : Hdr) (d : BitVec 6) (a : BitVec 6) (b : BitVec 6) (x : Bool) (y : Bool) : Statement (.cvtF32Q4 h d a b x y) := by
  have F := encForm12 h 0x2400000d d a b x y (by decide) 0x2400000d rfl (by decide)
  refine readsBack_of h _ rfl rfl F.1 F.2.1 ((parse9 h _ F.2.2.1).trans ?_)
  unfold decodeVcvt
  rw [show (fld (mkWord h _) 0 6).toNat = 13 from F.2.2.2.1, F.2.2.2.2.1, F.2.2.2.2.2.1, F.2.2.2.2.2.2.1, F.2.2.2.2.2.2.2.1, F.2.2.2.2.2.2.2.2.1, F.2.2.2.2.2.2.2.2.2]
  rfl

theorem ReadsBack.rintF32 (h : Hdr) (d : BitVec 6) (a : BitVec 6) (x : Bool) : Statement (.rintF32 h d a x) := by
  have F := encForm13 h 0x2400000e d a x (by decide) 0x2400000e rfl (by decide)
  refine readsBack_of h _ rfl rfl F.1 F.2.1 ((parse9 h _ F.2.2.1).trans ?_)
  unfold decodeVcvt
  rw [show (fld (mkWord h _) 0 6).toNat = 14 from F.2.2.2.1, F.2.2.2.2.1, F.2.2.2.2.2.1, F.2.2.2.2.2.2.1, F.2.2.2.2.2.2.2]
  rfl

theorem ReadsBack.rcp (h : Hdr) (d : BitVec 6) (a : BitVec 6) (x : Bool) : Statement (.rcp h d a x) := by
  have F := encForm13 h 0x28000000 d a x (by decide) 0x28000000 rfl (by decide)
  refine readsBack_of h _ rfl rfl F.1 F.2.1 ((parse10 h _ F.2.2.1).trans ?_)
  unfold decodeVsfu
  rw [show (fld (mkWord h _) 0 6).toNat = 0 from F.2.2.2.1, F.2.2.2.2.1, F.2.2.2.2.2.1, F.2.2.2.2.2.2.1, F.2.2.2.2.2.2.2]
  rfl

theorem ReadsBack.sqrt (h : Hdr) (d : BitVec 6) (a : BitVec 6) (x : Bool) : Statement (.sqrt h d a x) := by
  have F := encForm13 h 0x28000001 d a x (by decide) 0x28000001 rfl (by decide)
  refine readsBack_of h _ rfl rfl F.1 F.2.1 ((parse10 h _ F.2.2.1).trans ?_)
  unfold decodeVsfu
  rw [show (fld (mkWord h _) 0 6).toNat = 1 from F.2.2.2.1, F.2.2.2.2.1, F.2.2.2.2.2.1, F.2.2.2.2.2.2.1, F.2.2.2.2.2.2.2]
  rfl

theorem ReadsBack.rsqrt (h : Hdr) (d : BitVec 6) (a : BitVec 6) (x : Bool) : Statement (.rsqrt h d a x) := by
  have F := encForm13 h 0x28000002 d a x (by decide) 0x28000002 rfl (by decide)
  refine readsBack_of h _ rfl rfl F.1 F.2.1 ((parse10 h _ F.2.2.1).trans ?_)
  unfold decodeVsfu
  rw [show (fld (mkWord h _) 0 6).toNat = 2 from F.2.2.2.1, F.2.2.2.2.1, F.2.2.2.2.2.1, F.2.2.2.2.2.2.1, F.2.2.2.2.2.2.2]
  rfl

theorem ReadsBack.exp2 (h : Hdr) (d : BitVec 6) (a : BitVec 6) (x : Bool) : Statement (.exp2 h d a x) := by
  have F := encForm13 h 0x28000003 d a x (by decide) 0x28000003 rfl (by decide)
  refine readsBack_of h _ rfl rfl F.1 F.2.1 ((parse10 h _ F.2.2.1).trans ?_)
  unfold decodeVsfu
  rw [show (fld (mkWord h _) 0 6).toNat = 3 from F.2.2.2.1, F.2.2.2.2.1, F.2.2.2.2.2.1, F.2.2.2.2.2.2.1, F.2.2.2.2.2.2.2]
  rfl

theorem ReadsBack.log2 (h : Hdr) (d : BitVec 6) (a : BitVec 6) (x : Bool) : Statement (.log2 h d a x) := by
  have F := encForm13 h 0x28000004 d a x (by decide) 0x28000004 rfl (by decide)
  refine readsBack_of h _ rfl rfl F.1 F.2.1 ((parse10 h _ F.2.2.1).trans ?_)
  unfold decodeVsfu
  rw [show (fld (mkWord h _) 0 6).toNat = 4 from F.2.2.2.1, F.2.2.2.2.1, F.2.2.2.2.2.1, F.2.2.2.2.2.2.1, F.2.2.2.2.2.2.2]
  rfl

theorem ReadsBack.sinpi (h : Hdr) (d : BitVec 6) (a : BitVec 6) (x : Bool) : Statement (.sinpi h d a x) := by
  have F := encForm13 h 0x28000005 d a x (by decide) 0x28000005 rfl (by decide)
  refine readsBack_of h _ rfl rfl F.1 F.2.1 ((parse10 h _ F.2.2.1).trans ?_)
  unfold decodeVsfu
  rw [show (fld (mkWord h _) 0 6).toNat = 5 from F.2.2.2.1, F.2.2.2.2.1, F.2.2.2.2.2.1, F.2.2.2.2.2.2.1, F.2.2.2.2.2.2.2]
  rfl

theorem ReadsBack.cospi (h : Hdr) (d : BitVec 6) (a : BitVec 6) (x : Bool) : Statement (.cospi h d a x) := by
  have F := encForm13 h 0x28000006 d a x (by decide) 0x28000006 rfl (by decide)
  refine readsBack_of h _ rfl rfl F.1 F.2.1 ((parse10 h _ F.2.2.1).trans ?_)
  unfold decodeVsfu
  rw [show (fld (mkWord h _) 0 6).toNat = 6 from F.2.2.2.1, F.2.2.2.2.1, F.2.2.2.2.2.1, F.2.2.2.2.2.2.1, F.2.2.2.2.2.2.2]
  rfl

theorem ReadsBack.shfl (h : Hdr) (d : BitVec 6) (a : BitVec 6) (b : BitVec 6) (x : Bool) (y : Bool) : Statement (.shfl h d a b x y) := by
  have F := encForm12 h 0x2c000000 d a b x y (by decide) 0x2c000000 rfl (by decide)
  refine readsBack_of h _ rfl rfl F.1 F.2.1 ((parse11 h _ F.2.2.1).trans ?_)
  unfold decodeXlane
  rw [show (fld (mkWord h _) 0 6).toNat = 0 from F.2.2.2.1, F.2.2.2.2.1, F.2.2.2.2.2.1, F.2.2.2.2.2.2.1, F.2.2.2.2.2.2.2.1, F.2.2.2.2.2.2.2.2.1, F.2.2.2.2.2.2.2.2.2]
  rfl

theorem ReadsBack.shfli (h : Hdr) (d : BitVec 6) (a : BitVec 6) (n : BitVec 6) (x : Bool) : Statement (.shfli h d a n x) := by
  have F := encForm4 h 0x2c000001 d a n x (by decide) 0x2c000001 rfl (by decide)
  refine readsBack_of h _ rfl rfl F.1 F.2.1 ((parse11 h _ F.2.2.1).trans ?_)
  unfold decodeXlane
  rw [show (fld (mkWord h _) 0 6).toNat = 1 from F.2.2.2.1, F.2.2.2.2.1, F.2.2.2.2.2.1, F.2.2.2.2.2.2.1, F.2.2.2.2.2.2.2.1, F.2.2.2.2.2.2.2.2]
  rfl

theorem ReadsBack.bfly (h : Hdr) (d : BitVec 6) (a : BitVec 6) (n : BitVec 6) (x : Bool) : Statement (.bfly h d a n x) := by
  have F := encForm4 h 0x2c000002 d a n x (by decide) 0x2c000002 rfl (by decide)
  refine readsBack_of h _ rfl rfl F.1 F.2.1 ((parse11 h _ F.2.2.1).trans ?_)
  unfold decodeXlane
  rw [show (fld (mkWord h _) 0 6).toNat = 2 from F.2.2.2.1, F.2.2.2.2.1, F.2.2.2.2.2.1, F.2.2.2.2.2.2.1, F.2.2.2.2.2.2.2.1, F.2.2.2.2.2.2.2.2]
  rfl

theorem ReadsBack.bcast (h : Hdr) (d : BitVec 6) (a : BitVec 6) (b : BitVec 6) (x : Bool) : Statement (.bcast h d a b x) := by
  have F := encForm4 h 0x2c000003 d a b x (by decide) 0x2c000003 rfl (by decide)
  refine readsBack_of h _ rfl rfl F.1 F.2.1 ((parse11 h _ F.2.2.1).trans ?_)
  unfold decodeXlane
  rw [show (fld (mkWord h _) 0 6).toNat = 3 from F.2.2.2.1, F.2.2.2.2.1, F.2.2.2.2.2.1, F.2.2.2.2.2.2.1, F.2.2.2.2.2.2.2.1, F.2.2.2.2.2.2.2.2]
  rfl

theorem ReadsBack.xredAdd (h : Hdr) (d : BitVec 6) (a : BitVec 6) (x : Bool) : Statement (.xredAdd h d a x) := by
  have F := encForm13 h 0x2c000004 d a x (by decide) 0x2c000004 rfl (by decide)
  refine readsBack_of h _ rfl rfl F.1 F.2.1 ((parse11 h _ F.2.2.1).trans ?_)
  unfold decodeXlane
  rw [show (fld (mkWord h _) 0 6).toNat = 4 from F.2.2.2.1, F.2.2.2.2.1, F.2.2.2.2.2.1, F.2.2.2.2.2.2.1, F.2.2.2.2.2.2.2]
  rfl

theorem ReadsBack.xredAddf (h : Hdr) (d : BitVec 6) (a : BitVec 6) (x : Bool) : Statement (.xredAddf h d a x) := by
  have F := encForm13 h 0x2c000005 d a x (by decide) 0x2c000005 rfl (by decide)
  refine readsBack_of h _ rfl rfl F.1 F.2.1 ((parse11 h _ F.2.2.1).trans ?_)
  unfold decodeXlane
  rw [show (fld (mkWord h _) 0 6).toNat = 5 from F.2.2.2.1, F.2.2.2.2.1, F.2.2.2.2.2.1, F.2.2.2.2.2.2.1, F.2.2.2.2.2.2.2]
  rfl

theorem ReadsBack.xredMin (h : Hdr) (d : BitVec 6) (a : BitVec 6) (x : Bool) : Statement (.xredMin h d a x) := by
  have F := encForm13 h 0x2c000006 d a x (by decide) 0x2c000006 rfl (by decide)
  refine readsBack_of h _ rfl rfl F.1 F.2.1 ((parse11 h _ F.2.2.1).trans ?_)
  unfold decodeXlane
  rw [show (fld (mkWord h _) 0 6).toNat = 6 from F.2.2.2.1, F.2.2.2.2.1, F.2.2.2.2.2.1, F.2.2.2.2.2.2.1, F.2.2.2.2.2.2.2]
  rfl

theorem ReadsBack.xredMax (h : Hdr) (d : BitVec 6) (a : BitVec 6) (x : Bool) : Statement (.xredMax h d a x) := by
  have F := encForm13 h 0x2c000007 d a x (by decide) 0x2c000007 rfl (by decide)
  refine readsBack_of h _ rfl rfl F.1 F.2.1 ((parse11 h _ F.2.2.1).trans ?_)
  unfold decodeXlane
  rw [show (fld (mkWord h _) 0 6).toNat = 7 from F.2.2.2.1, F.2.2.2.2.1, F.2.2.2.2.2.1, F.2.2.2.2.2.2.1, F.2.2.2.2.2.2.2]
  rfl

theorem ReadsBack.xredMinf (h : Hdr) (d : BitVec 6) (a : BitVec 6) (x : Bool) : Statement (.xredMinf h d a x) := by
  have F := encForm13 h 0x2c000008 d a x (by decide) 0x2c000008 rfl (by decide)
  refine readsBack_of h _ rfl rfl F.1 F.2.1 ((parse11 h _ F.2.2.1).trans ?_)
  unfold decodeXlane
  rw [show (fld (mkWord h _) 0 6).toNat = 8 from F.2.2.2.1, F.2.2.2.2.1, F.2.2.2.2.2.1, F.2.2.2.2.2.2.1, F.2.2.2.2.2.2.2]
  rfl

theorem ReadsBack.xredMaxf (h : Hdr) (d : BitVec 6) (a : BitVec 6) (x : Bool) : Statement (.xredMaxf h d a x) := by
  have F := encForm13 h 0x2c000009 d a x (by decide) 0x2c000009 rfl (by decide)
  refine readsBack_of h _ rfl rfl F.1 F.2.1 ((parse11 h _ F.2.2.1).trans ?_)
  unfold decodeXlane
  rw [show (fld (mkWord h _) 0 6).toNat = 9 from F.2.2.2.1, F.2.2.2.2.1, F.2.2.2.2.2.1, F.2.2.2.2.2.2.1, F.2.2.2.2.2.2.2]
  rfl

theorem ReadsBack.xredAnd (h : Hdr) (d : BitVec 6) (a : BitVec 6) (x : Bool) : Statement (.xredAnd h d a x) := by
  have F := encForm13 h 0x2c00000a d a x (by decide) 0x2c00000a rfl (by decide)
  refine readsBack_of h _ rfl rfl F.1 F.2.1 ((parse11 h _ F.2.2.1).trans ?_)
  unfold decodeXlane
  rw [show (fld (mkWord h _) 0 6).toNat = 10 from F.2.2.2.1, F.2.2.2.2.1, F.2.2.2.2.2.1, F.2.2.2.2.2.2.1, F.2.2.2.2.2.2.2]
  rfl

theorem ReadsBack.xredOr (h : Hdr) (d : BitVec 6) (a : BitVec 6) (x : Bool) : Statement (.xredOr h d a x) := by
  have F := encForm13 h 0x2c00000b d a x (by decide) 0x2c00000b rfl (by decide)
  refine readsBack_of h _ rfl rfl F.1 F.2.1 ((parse11 h _ F.2.2.1).trans ?_)
  unfold decodeXlane
  rw [show (fld (mkWord h _) 0 6).toNat = 11 from F.2.2.2.1, F.2.2.2.2.1, F.2.2.2.2.2.1, F.2.2.2.2.2.2.1, F.2.2.2.2.2.2.2]
  rfl

theorem ReadsBack.xredXor (h : Hdr) (d : BitVec 6) (a : BitVec 6) (x : Bool) : Statement (.xredXor h d a x) := by
  have F := encForm13 h 0x2c00000c d a x (by decide) 0x2c00000c rfl (by decide)
  refine readsBack_of h _ rfl rfl F.1 F.2.1 ((parse11 h _ F.2.2.1).trans ?_)
  unfold decodeXlane
  rw [show (fld (mkWord h _) 0 6).toNat = 12 from F.2.2.2.1, F.2.2.2.2.1, F.2.2.2.2.2.1, F.2.2.2.2.2.2.1, F.2.2.2.2.2.2.2]
  rfl

theorem ReadsBack.scanAdd (h : Hdr) (d : BitVec 6) (a : BitVec 6) (x : Bool) : Statement (.scanAdd h d a x) := by
  have F := encForm13 h 0x2c00000d d a x (by decide) 0x2c00000d rfl (by decide)
  refine readsBack_of h _ rfl rfl F.1 F.2.1 ((parse11 h _ F.2.2.1).trans ?_)
  unfold decodeXlane
  rw [show (fld (mkWord h _) 0 6).toNat = 13 from F.2.2.2.1, F.2.2.2.2.1, F.2.2.2.2.2.1, F.2.2.2.2.2.2.1, F.2.2.2.2.2.2.2]
  rfl

theorem ReadsBack.scanAddf (h : Hdr) (d : BitVec 6) (a : BitVec 6) (x : Bool) : Statement (.scanAddf h d a x) := by
  have F := encForm13 h 0x2c00000e d a x (by decide) 0x2c00000e rfl (by decide)
  refine readsBack_of h _ rfl rfl F.1 F.2.1 ((parse11 h _ F.2.2.1).trans ?_)
  unfold decodeXlane
  rw [show (fld (mkWord h _) 0 6).toNat = 14 from F.2.2.2.1, F.2.2.2.2.1, F.2.2.2.2.2.1, F.2.2.2.2.2.2.1, F.2.2.2.2.2.2.2]
  rfl

theorem ReadsBack.scanXor (h : Hdr) (d : BitVec 6) (a : BitVec 6) (x : Bool) : Statement (.scanXor h d a x) := by
  have F := encForm13 h 0x2c00000f d a x (by decide) 0x2c00000f rfl (by decide)
  refine readsBack_of h _ rfl rfl F.1 F.2.1 ((parse11 h _ F.2.2.1).trans ?_)
  unfold decodeXlane
  rw [show (fld (mkWord h _) 0 6).toNat = 15 from F.2.2.2.1, F.2.2.2.2.1, F.2.2.2.2.2.1, F.2.2.2.2.2.2.1, F.2.2.2.2.2.2.2]
  rfl

theorem ReadsBack.scanMax (h : Hdr) (d : BitVec 6) (a : BitVec 6) (x : Bool) : Statement (.scanMax h d a x) := by
  have F := encForm13 h 0x2c000010 d a x (by decide) 0x2c000010 rfl (by decide)
  refine readsBack_of h _ rfl rfl F.1 F.2.1 ((parse11 h _ F.2.2.1).trans ?_)
  unfold decodeXlane
  rw [show (fld (mkWord h _) 0 6).toNat = 16 from F.2.2.2.1, F.2.2.2.2.1, F.2.2.2.2.2.1, F.2.2.2.2.2.2.1, F.2.2.2.2.2.2.2]
  rfl

theorem ReadsBack.matchB (h : Hdr) (d : BitVec 6) (a : BitVec 6) (x : Bool) : Statement (.matchB h d a x) := by
  have F := encForm13 h 0x2c000011 d a x (by decide) 0x2c000011 rfl (by decide)
  refine readsBack_of h _ rfl rfl F.1 F.2.1 ((parse11 h _ F.2.2.1).trans ?_)
  unfold decodeXlane
  rw [show (fld (mkWord h _) 0 6).toNat = 17 from F.2.2.2.1, F.2.2.2.2.1, F.2.2.2.2.2.1, F.2.2.2.2.2.2.1, F.2.2.2.2.2.2.2]
  rfl

theorem ReadsBack.matchf (h : Hdr) (d : BitVec 6) (a : BitVec 6) (x : Bool) : Statement (.matchf h d a x) := by
  have F := encForm13 h 0x2c000012 d a x (by decide) 0x2c000012 rfl (by decide)
  refine readsBack_of h _ rfl rfl F.1 F.2.1 ((parse11 h _ F.2.2.1).trans ?_)
  unfold decodeXlane
  rw [show (fld (mkWord h _) 0 6).toNat = 18 from F.2.2.2.1, F.2.2.2.2.1, F.2.2.2.2.2.1, F.2.2.2.2.2.2.1, F.2.2.2.2.2.2.2]
  rfl

theorem ReadsBack.ballot (h : Hdr) (d : BitVec 3) (a : BitVec 3) : Statement (.ballot h d a) := by
  have F := encForm16 h 0x2c000013 d a (by decide) 0x2c000013 rfl (by decide)
  refine readsBack_of h _ rfl rfl F.1 F.2.1 ((parse11 h _ F.2.2.1).trans ?_)
  unfold decodeXlane
  rw [show (fld (mkWord h _) 0 6).toNat = 19 from F.2.2.2.1, F.2.2.2.2.1]
  simp only [F.2.2.2.2.2.1, F.2.2.2.2.2.2]

theorem ReadsBack.voteAny (h : Hdr) (d : BitVec 3) (a : BitVec 3) : Statement (.voteAny h d a) := by
  have F := encForm16 h 0x2c000014 d a (by decide) 0x2c000014 rfl (by decide)
  refine readsBack_of h _ rfl rfl F.1 F.2.1 ((parse11 h _ F.2.2.1).trans ?_)
  unfold decodeXlane
  rw [show (fld (mkWord h _) 0 6).toNat = 20 from F.2.2.2.1, F.2.2.2.2.1]
  simp only [F.2.2.2.2.2.1, F.2.2.2.2.2.2]

theorem ReadsBack.voteAll (h : Hdr) (d : BitVec 3) (a : BitVec 3) : Statement (.voteAll h d a) := by
  have F := encForm16 h 0x2c000015 d a (by decide) 0x2c000015 rfl (by decide)
  refine readsBack_of h _ rfl rfl F.1 F.2.1 ((parse11 h _ F.2.2.1).trans ?_)
  unfold decodeXlane
  rw [show (fld (mkWord h _) 0 6).toNat = 21 from F.2.2.2.1, F.2.2.2.2.1]
  simp only [F.2.2.2.2.2.1, F.2.2.2.2.2.2]

theorem ReadsBack.kand (h : Hdr) (d : BitVec 3) (a : BitVec 3) (b : BitVec 3) : Statement (.kand h d a b) := by
  have F := encForm17 h 0x30000000 d a b (by decide) 0x30000000 rfl (by decide)
  refine readsBack_of h _ rfl rfl F.1 F.2.1 ((parse12 h _ F.2.2.1).trans ?_)
  unfold decodeKops
  rw [show (fld (mkWord h _) 0 6).toNat = 0 from F.2.2.2.1, F.2.2.2.2.1]
  simp only [F.2.2.2.2.2.1, F.2.2.2.2.2.2.1, F.2.2.2.2.2.2.2]

theorem ReadsBack.kor (h : Hdr) (d : BitVec 3) (a : BitVec 3) (b : BitVec 3) : Statement (.kor h d a b) := by
  have F := encForm17 h 0x30000001 d a b (by decide) 0x30000001 rfl (by decide)
  refine readsBack_of h _ rfl rfl F.1 F.2.1 ((parse12 h _ F.2.2.1).trans ?_)
  unfold decodeKops
  rw [show (fld (mkWord h _) 0 6).toNat = 1 from F.2.2.2.1, F.2.2.2.2.1]
  simp only [F.2.2.2.2.2.1, F.2.2.2.2.2.2.1, F.2.2.2.2.2.2.2]

theorem ReadsBack.kxor (h : Hdr) (d : BitVec 3) (a : BitVec 3) (b : BitVec 3) : Statement (.kxor h d a b) := by
  have F := encForm17 h 0x30000002 d a b (by decide) 0x30000002 rfl (by decide)
  refine readsBack_of h _ rfl rfl F.1 F.2.1 ((parse12 h _ F.2.2.1).trans ?_)
  unfold decodeKops
  rw [show (fld (mkWord h _) 0 6).toNat = 2 from F.2.2.2.1, F.2.2.2.2.1]
  simp only [F.2.2.2.2.2.1, F.2.2.2.2.2.2.1, F.2.2.2.2.2.2.2]

theorem ReadsBack.knot (h : Hdr) (d : BitVec 3) (a : BitVec 3) : Statement (.knot h d a) := by
  have F := encForm16 h 0x30000003 d a (by decide) 0x30000003 rfl (by decide)
  refine readsBack_of h _ rfl rfl F.1 F.2.1 ((parse12 h _ F.2.2.1).trans ?_)
  unfold decodeKops
  rw [show (fld (mkWord h _) 0 6).toNat = 3 from F.2.2.2.1, F.2.2.2.2.1]
  simp only [F.2.2.2.2.2.1, F.2.2.2.2.2.2]

theorem ReadsBack.kmov (h : Hdr) (d : BitVec 3) (a : BitVec 3) : Statement (.kmov h d a) := by
  have F := encForm16 h 0x30000004 d a (by decide) 0x30000004 rfl (by decide)
  refine readsBack_of h _ rfl rfl F.1 F.2.1 ((parse12 h _ F.2.2.1).trans ?_)
  unfold decodeKops
  rw [show (fld (mkWord h _) 0 6).toNat = 4 from F.2.2.2.1, F.2.2.2.2.1]
  simp only [F.2.2.2.2.2.1, F.2.2.2.2.2.2]

theorem ReadsBack.kfromp (h : Hdr) (d : BitVec 3) (a : BitVec 3) : Statement (.kfromp h d a) := by
  have F := encForm16 h 0x30000005 d a (by decide) 0x30000005 rfl (by decide)
  refine readsBack_of h _ rfl rfl F.1 F.2.1 ((parse12 h _ F.2.2.1).trans ?_)
  unfold decodeKops
  rw [show (fld (mkWord h _) 0 6).toNat = 5 from F.2.2.2.1, F.2.2.2.2.1]
  simp only [F.2.2.2.2.2.1, F.2.2.2.2.2.2]

theorem ReadsBack.ktop (h : Hdr) (d : BitVec 3) (a : BitVec 3) : Statement (.ktop h d a) := by
  have F := encForm16 h 0x30000006 d a (by decide) 0x30000006 rfl (by decide)
  refine readsBack_of h _ rfl rfl F.1 F.2.1 ((parse12 h _ F.2.2.1).trans ?_)
  unfold decodeKops
  rw [show (fld (mkWord h _) 0 6).toNat = 6 from F.2.2.2.1, F.2.2.2.2.1]
  simp only [F.2.2.2.2.2.1, F.2.2.2.2.2.2]

theorem ReadsBack.kpop (h : Hdr) (d : BitVec 6) (a : BitVec 3) : Statement (.kpop h d a) := by
  have F := encForm18 h 0x30000007 d a (by decide) 0x30000007 rfl (by decide)
  refine readsBack_of h _ rfl rfl F.1 F.2.1 ((parse12 h _ F.2.2.1).trans ?_)
  unfold decodeKops
  rw [show (fld (mkWord h _) 0 6).toNat = 7 from F.2.2.2.1, F.2.2.2.2.1, F.2.2.2.2.2.1]
  simp only [F.2.2.2.2.2.2]

theorem ReadsBack.kfirst (h : Hdr) (d : BitVec 6) (a : BitVec 3) : Statement (.kfirst h d a) := by
  have F := encForm18 h 0x30000008 d a (by decide) 0x30000008 rfl (by decide)
  refine readsBack_of h _ rfl rfl F.1 F.2.1 ((parse12 h _ F.2.2.1).trans ?_)
  unfold decodeKops
  rw [show (fld (mkWord h _) 0 6).toNat = 8 from F.2.2.2.1, F.2.2.2.2.1, F.2.2.2.2.2.1]
  simp only [F.2.2.2.2.2.2]

theorem ReadsBack.kfs (h : Hdr) (d : BitVec 3) (a : BitVec 3) : Statement (.kfs h d a) := by
  have F := encForm16 h 0x30000009 d a (by decide) 0x30000009 rfl (by decide)
  refine readsBack_of h _ rfl rfl F.1 F.2.1 ((parse12 h _ F.2.2.1).trans ?_)
  unfold decodeKops
  rw [show (fld (mkWord h _) 0 6).toNat = 9 from F.2.2.2.1, F.2.2.2.2.1]
  simp only [F.2.2.2.2.2.1, F.2.2.2.2.2.2]

theorem ReadsBack.ksk (h : Hdr) (d : BitVec 3) (a : BitVec 6) : Statement (.ksk h d a) := by
  have F := encForm19 h 0x3000000a d a (by decide) 0x3000000a rfl (by decide)
  refine readsBack_of h _ rfl rfl F.1 F.2.1 ((parse12 h _ F.2.2.1).trans ?_)
  unfold decodeKops
  rw [show (fld (mkWord h _) 0 6).toNat = 10 from F.2.2.2.1, F.2.2.2.2.1, F.2.2.2.2.2.2]
  simp only [F.2.2.2.2.2.1]

theorem ReadsBack.draw (h : Hdr) (d : BitVec 6) (b : BitVec 6) : Statement (.draw h d b) := by
  have F := encForm20 h 0x34000000 d b (by decide) 0x34000000 rfl (by decide)
  refine readsBack_of h _ rfl rfl F.1 F.2.1 ((parse13 h _ F.2.2.1).trans ?_)
  unfold decodeRng
  rw [show (fld (mkWord h _) 0 6).toNat = 0 from F.2.2.2.1, F.2.2.2.2.1, F.2.2.2.2.2.1, F.2.2.2.2.2.2]
  rfl

theorem ReadsBack.rhash (h : Hdr) (d : BitVec 6) (a : BitVec 6) (b : BitVec 6) (x : Bool) (y : Bool) : Statement (.rhash h d a b x y) := by
  have F := encForm12 h 0x34000001 d a b x y (by decide) 0x34000001 rfl (by decide)
  refine readsBack_of h _ rfl rfl F.1 F.2.1 ((parse13 h _ F.2.2.1).trans ?_)
  unfold decodeRng
  rw [show (fld (mkWord h _) 0 6).toNat = 1 from F.2.2.2.1, F.2.2.2.2.1, F.2.2.2.2.2.1, F.2.2.2.2.2.2.1, F.2.2.2.2.2.2.2.1, F.2.2.2.2.2.2.2.2.1, F.2.2.2.2.2.2.2.2.2]
  rfl

theorem ReadsBack.sdiset (h : Hdr) (a : BitVec 6) (x : Bool) : Statement (.sdiset h a x) := by
  have F := encForm11 h 0x34000002 a x (by decide) 0x34000002 rfl (by decide)
  refine readsBack_of h _ rfl rfl F.1 F.2.1 ((parse13 h _ F.2.2.1).trans ?_)
  unfold decodeRng
  rw [show (fld (mkWord h _) 0 6).toNat = 2 from F.2.2.2.1, F.2.2.2.2.1, F.2.2.2.2.2.1, F.2.2.2.2.2.2]
  rfl

theorem ReadsBack.sdiget (h : Hdr) (d : BitVec 6) : Statement (.sdiget h d) := by
  have F := encForm21 h 0x34000003 d (by decide) 0x34000003 rfl (by decide)
  refine readsBack_of h _ rfl rfl F.1 F.2.1 ((parse13 h _ F.2.2.1).trans ?_)
  unfold decodeRng
  rw [show (fld (mkWord h _) 0 6).toNat = 3 from F.2.2.2.1, F.2.2.2.2.1, F.2.2.2.2.2]
  rfl

theorem ReadsBack.ldB (h : Hdr) (d : BitVec 6) (s : BitVec 6) (n : BitVec 6) (r : BitVec 2) (g : BitVec 3) : Statement (.ldB h d s n r g) := by
  have F := encForm22 h 0x38000000 d s n r g (by decide) 0x38000000 rfl (by decide)
  refine readsBack_of h _ rfl rfl F.1 F.2.1 ((parse14 h _ F.2.2.1).trans ?_)
  unfold decodeLd
  rw [show (fld (mkWord h _) 5 3).toNat = 0 from F.2.2.2.1, F.2.2.2.2.1, F.2.2.2.2.2.1, F.2.2.2.2.2.2.1, F.2.2.2.2.2.2.2.1, F.2.2.2.2.2.2.2.2.1, F.2.2.2.2.2.2.2.2.2]
  rfl

theorem ReadsBack.ldBn (h : Hdr) (d : BitVec 6) (s : BitVec 6) (n : BitVec 6) (r : BitVec 2) (g : BitVec 3) : Statement (.ldBn h d s n r g) := by
  have F := encForm22 h 0x38000020 d s n r g (by decide) 0x38000020 rfl (by decide)
  refine readsBack_of h _ rfl rfl F.1 F.2.1 ((parse14 h _ F.2.2.1).trans ?_)
  unfold decodeLd
  rw [show (fld (mkWord h _) 5 3).toNat = 1 from F.2.2.2.1, F.2.2.2.2.1, F.2.2.2.2.2.1, F.2.2.2.2.2.2.1, F.2.2.2.2.2.2.2.1, F.2.2.2.2.2.2.2.2.1, F.2.2.2.2.2.2.2.2.2]
  rfl

theorem ReadsBack.ldH (h : Hdr) (d : BitVec 6) (s : BitVec 6) (n : BitVec 6) (r : BitVec 2) (g : BitVec 3) : Statement (.ldH h d s n r g) := by
  have F := encForm22 h 0x38000040 d s n r g (by decide) 0x38000040 rfl (by decide)
  refine readsBack_of h _ rfl rfl F.1 F.2.1 ((parse14 h _ F.2.2.1).trans ?_)
  unfold decodeLd
  rw [show (fld (mkWord h _) 5 3).toNat = 2 from F.2.2.2.1, F.2.2.2.2.1, F.2.2.2.2.2.1, F.2.2.2.2.2.2.1, F.2.2.2.2.2.2.2.1, F.2.2.2.2.2.2.2.2.1, F.2.2.2.2.2.2.2.2.2]
  rfl

theorem ReadsBack.ldHn (h : Hdr) (d : BitVec 6) (s : BitVec 6) (n : BitVec 6) (r : BitVec 2) (g : BitVec 3) : Statement (.ldHn h d s n r g) := by
  have F := encForm22 h 0x38000060 d s n r g (by decide) 0x38000060 rfl (by decide)
  refine readsBack_of h _ rfl rfl F.1 F.2.1 ((parse14 h _ F.2.2.1).trans ?_)
  unfold decodeLd
  rw [show (fld (mkWord h _) 5 3).toNat = 3 from F.2.2.2.1, F.2.2.2.2.1, F.2.2.2.2.2.1, F.2.2.2.2.2.2.1, F.2.2.2.2.2.2.2.1, F.2.2.2.2.2.2.2.2.1, F.2.2.2.2.2.2.2.2.2]
  rfl

theorem ReadsBack.ldW (h : Hdr) (d : BitVec 6) (s : BitVec 6) (n : BitVec 6) (r : BitVec 2) (g : BitVec 3) : Statement (.ldW h d s n r g) := by
  have F := encForm22 h 0x38000080 d s n r g (by decide) 0x38000080 rfl (by decide)
  refine readsBack_of h _ rfl rfl F.1 F.2.1 ((parse14 h _ F.2.2.1).trans ?_)
  unfold decodeLd
  rw [show (fld (mkWord h _) 5 3).toNat = 4 from F.2.2.2.1, F.2.2.2.2.1, F.2.2.2.2.2.1, F.2.2.2.2.2.2.1, F.2.2.2.2.2.2.2.1, F.2.2.2.2.2.2.2.2.1, F.2.2.2.2.2.2.2.2.2]
  rfl

theorem ReadsBack.ldD (h : Hdr) (d : BitVec 6) (s : BitVec 6) (n : BitVec 6) (r : BitVec 2) (g : BitVec 3) : Statement (.ldD h d s n r g) := by
  have F := encForm22 h 0x380000a0 d s n r g (by decide) 0x380000a0 rfl (by decide)
  refine readsBack_of h _ rfl rfl F.1 F.2.1 ((parse14 h _ F.2.2.1).trans ?_)
  unfold decodeLd
  rw [show (fld (mkWord h _) 5 3).toNat = 5 from F.2.2.2.1, F.2.2.2.2.1, F.2.2.2.2.2.1, F.2.2.2.2.2.2.1, F.2.2.2.2.2.2.2.1, F.2.2.2.2.2.2.2.2.1, F.2.2.2.2.2.2.2.2.2]
  rfl

theorem ReadsBack.ldDec (h : Hdr) (d : BitVec 6) (s : BitVec 6) (n : BitVec 6) (r : BitVec 2) (g : BitVec 3) : Statement (.ldDec h d s n r g) := by
  have F := encForm22 h 0x380000c0 d s n r g (by decide) 0x380000c0 rfl (by decide)
  refine readsBack_of h _ rfl rfl F.1 F.2.1 ((parse14 h _ F.2.2.1).trans ?_)
  unfold decodeLd
  rw [show (fld (mkWord h _) 5 3).toNat = 6 from F.2.2.2.1, F.2.2.2.2.1, F.2.2.2.2.2.1, F.2.2.2.2.2.2.1, F.2.2.2.2.2.2.2.1, F.2.2.2.2.2.2.2.2.1, F.2.2.2.2.2.2.2.2.2]
  rfl

theorem ReadsBack.ldRaw (h : Hdr) (d : BitVec 6) (s : BitVec 6) (n : BitVec 6) (r : BitVec 2) (g : BitVec 3) : Statement (.ldRaw h d s n r g) := by
  have F := encForm22 h 0x380000e0 d s n r g (by decide) 0x380000e0 rfl (by decide)
  refine readsBack_of h _ rfl rfl F.1 F.2.1 ((parse14 h _ F.2.2.1).trans ?_)
  unfold decodeLd
  rw [show (fld (mkWord h _) 5 3).toNat = 7 from F.2.2.2.1, F.2.2.2.2.1, F.2.2.2.2.2.1, F.2.2.2.2.2.2.1, F.2.2.2.2.2.2.2.1, F.2.2.2.2.2.2.2.2.1, F.2.2.2.2.2.2.2.2.2]
  rfl

theorem ReadsBack.stB (h : Hdr) (d : BitVec 6) (s : BitVec 6) (n : BitVec 6) (r : BitVec 2) (g : BitVec 3) : Statement (.stB h d s n r g) := by
  have F := encForm22 h 0x3c000000 d s n r g (by decide) 0x3c000000 rfl (by decide)
  refine readsBack_of h _ rfl rfl F.1 F.2.1 ((parse15 h _ F.2.2.1).trans ?_)
  unfold decodeSt
  rw [show (fld (mkWord h _) 5 3).toNat = 0 from F.2.2.2.1, F.2.2.2.2.1, F.2.2.2.2.2.1, F.2.2.2.2.2.2.1, F.2.2.2.2.2.2.2.1, F.2.2.2.2.2.2.2.2.1, F.2.2.2.2.2.2.2.2.2]
  rfl

theorem ReadsBack.stH (h : Hdr) (d : BitVec 6) (s : BitVec 6) (n : BitVec 6) (r : BitVec 2) (g : BitVec 3) : Statement (.stH h d s n r g) := by
  have F := encForm22 h 0x3c000020 d s n r g (by decide) 0x3c000020 rfl (by decide)
  refine readsBack_of h _ rfl rfl F.1 F.2.1 ((parse15 h _ F.2.2.1).trans ?_)
  unfold decodeSt
  rw [show (fld (mkWord h _) 5 3).toNat = 1 from F.2.2.2.1, F.2.2.2.2.1, F.2.2.2.2.2.1, F.2.2.2.2.2.2.1, F.2.2.2.2.2.2.2.1, F.2.2.2.2.2.2.2.2.1, F.2.2.2.2.2.2.2.2.2]
  rfl

theorem ReadsBack.stW (h : Hdr) (d : BitVec 6) (s : BitVec 6) (n : BitVec 6) (r : BitVec 2) (g : BitVec 3) : Statement (.stW h d s n r g) := by
  have F := encForm22 h 0x3c000040 d s n r g (by decide) 0x3c000040 rfl (by decide)
  refine readsBack_of h _ rfl rfl F.1 F.2.1 ((parse15 h _ F.2.2.1).trans ?_)
  unfold decodeSt
  rw [show (fld (mkWord h _) 5 3).toNat = 2 from F.2.2.2.1, F.2.2.2.2.1, F.2.2.2.2.2.1, F.2.2.2.2.2.2.1, F.2.2.2.2.2.2.2.1, F.2.2.2.2.2.2.2.2.1, F.2.2.2.2.2.2.2.2.2]
  rfl

theorem ReadsBack.stD (h : Hdr) (d : BitVec 6) (s : BitVec 6) (n : BitVec 6) (r : BitVec 2) (g : BitVec 3) : Statement (.stD h d s n r g) := by
  have F := encForm22 h 0x3c000060 d s n r g (by decide) 0x3c000060 rfl (by decide)
  refine readsBack_of h _ rfl rfl F.1 F.2.1 ((parse15 h _ F.2.2.1).trans ?_)
  unfold decodeSt
  rw [show (fld (mkWord h _) 5 3).toNat = 3 from F.2.2.2.1, F.2.2.2.2.1, F.2.2.2.2.2.1, F.2.2.2.2.2.2.1, F.2.2.2.2.2.2.2.1, F.2.2.2.2.2.2.2.2.1, F.2.2.2.2.2.2.2.2.2]
  rfl

theorem ReadsBack.stRaw (h : Hdr) (d : BitVec 6) (s : BitVec 6) (n : BitVec 6) (r : BitVec 2) (g : BitVec 3) : Statement (.stRaw h d s n r g) := by
  have F := encForm22 h 0x3c000080 d s n r g (by decide) 0x3c000080 rfl (by decide)
  refine readsBack_of h _ rfl rfl F.1 F.2.1 ((parse15 h _ F.2.2.1).trans ?_)
  unfold decodeSt
  rw [show (fld (mkWord h _) 5 3).toNat = 4 from F.2.2.2.1, F.2.2.2.2.1, F.2.2.2.2.2.1, F.2.2.2.2.2.2.1, F.2.2.2.2.2.2.2.1, F.2.2.2.2.2.2.2.2.1, F.2.2.2.2.2.2.2.2.2]
  rfl

theorem ReadsBack.sldW (h : Hdr) (d : BitVec 6) (a : BitVec 6) (b : BitVec 6) (x : Bool) : Statement (.sldW h d a b x) := by
  have F := encForm4 h 0x40000000 d a b x (by decide) 0x40000000 rfl (by decide)
  refine readsBack_of h _ rfl rfl F.1 F.2.1 ((parse16 h _ F.2.2.1).trans ?_)
  unfold decodeSpm
  rw [show (fld (mkWord h _) 0 6).toNat = 0 from F.2.2.2.1, F.2.2.2.2.1, F.2.2.2.2.2.1, F.2.2.2.2.2.2.1, F.2.2.2.2.2.2.2.1, F.2.2.2.2.2.2.2.2]
  rfl

theorem ReadsBack.sldH (h : Hdr) (d : BitVec 6) (a : BitVec 6) (b : BitVec 6) (x : Bool) : Statement (.sldH h d a b x) := by
  have F := encForm4 h 0x40000001 d a b x (by decide) 0x40000001 rfl (by decide)
  refine readsBack_of h _ rfl rfl F.1 F.2.1 ((parse16 h _ F.2.2.1).trans ?_)
  unfold decodeSpm
  rw [show (fld (mkWord h _) 0 6).toNat = 1 from F.2.2.2.1, F.2.2.2.2.1, F.2.2.2.2.2.1, F.2.2.2.2.2.2.1, F.2.2.2.2.2.2.2.1, F.2.2.2.2.2.2.2.2]
  rfl

theorem ReadsBack.sldB (h : Hdr) (d : BitVec 6) (a : BitVec 6) (b : BitVec 6) (x : Bool) : Statement (.sldB h d a b x) := by
  have F := encForm4 h 0x40000002 d a b x (by decide) 0x40000002 rfl (by decide)
  refine readsBack_of h _ rfl rfl F.1 F.2.1 ((parse16 h _ F.2.2.1).trans ?_)
  unfold decodeSpm
  rw [show (fld (mkWord h _) 0 6).toNat = 2 from F.2.2.2.1, F.2.2.2.2.1, F.2.2.2.2.2.1, F.2.2.2.2.2.2.1, F.2.2.2.2.2.2.2.1, F.2.2.2.2.2.2.2.2]
  rfl

theorem ReadsBack.sstW (h : Hdr) (d : BitVec 6) (a : BitVec 6) (b : BitVec 6) (x : Bool) : Statement (.sstW h d a b x) := by
  have F := encForm4 h 0x40000003 d a b x (by decide) 0x40000003 rfl (by decide)
  refine readsBack_of h _ rfl rfl F.1 F.2.1 ((parse16 h _ F.2.2.1).trans ?_)
  unfold decodeSpm
  rw [show (fld (mkWord h _) 0 6).toNat = 3 from F.2.2.2.1, F.2.2.2.2.1, F.2.2.2.2.2.1, F.2.2.2.2.2.2.1, F.2.2.2.2.2.2.2.1, F.2.2.2.2.2.2.2.2]
  rfl

theorem ReadsBack.sstH (h : Hdr) (d : BitVec 6) (a : BitVec 6) (b : BitVec 6) (x : Bool) : Statement (.sstH h d a b x) := by
  have F := encForm4 h 0x40000004 d a b x (by decide) 0x40000004 rfl (by decide)
  refine readsBack_of h _ rfl rfl F.1 F.2.1 ((parse16 h _ F.2.2.1).trans ?_)
  unfold decodeSpm
  rw [show (fld (mkWord h _) 0 6).toNat = 4 from F.2.2.2.1, F.2.2.2.2.1, F.2.2.2.2.2.1, F.2.2.2.2.2.2.1, F.2.2.2.2.2.2.2.1, F.2.2.2.2.2.2.2.2]
  rfl

theorem ReadsBack.sstB (h : Hdr) (d : BitVec 6) (a : BitVec 6) (b : BitVec 6) (x : Bool) : Statement (.sstB h d a b x) := by
  have F := encForm4 h 0x40000005 d a b x (by decide) 0x40000005 rfl (by decide)
  refine readsBack_of h _ rfl rfl F.1 F.2.1 ((parse16 h _ F.2.2.1).trans ?_)
  unfold decodeSpm
  rw [show (fld (mkWord h _) 0 6).toNat = 5 from F.2.2.2.1, F.2.2.2.2.1, F.2.2.2.2.2.1, F.2.2.2.2.2.2.1, F.2.2.2.2.2.2.2.1, F.2.2.2.2.2.2.2.2]
  rfl

theorem ReadsBack.bdecl (h : Hdr) (a : BitVec 6) (b : BitVec 6) : Statement (.bdecl h a b) := by
  have F := encForm23 h 0x40000006 a b (by decide) 0x40000006 rfl (by decide)
  refine readsBack_of h _ rfl rfl F.1 F.2.1 ((parse16 h _ F.2.2.1).trans ?_)
  unfold decodeSpm
  rw [show (fld (mkWord h _) 0 6).toNat = 6 from F.2.2.2.1, F.2.2.2.2.1, F.2.2.2.2.2.1, F.2.2.2.2.2.2]
  rfl

theorem ReadsBack.bsetEmpty (h : Hdr) (a : BitVec 6) : Statement (.bsetEmpty h a) := by
  have F := encForm24 h 0x40000007 a (by decide) 0x40000007 rfl (by decide)
  refine readsBack_of h _ rfl rfl F.1 F.2.1 ((parse16 h _ F.2.2.1).trans ?_)
  unfold decodeSpm
  rw [show (fld (mkWord h _) 0 6).toNat = 7 from F.2.2.2.1, show (fld (mkWord h _) 8 6).toNat = 0 from F.2.2.2.2.1, F.2.2.2.2.2.1, F.2.2.2.2.2.2]
  rfl

theorem ReadsBack.bsetFull (h : Hdr) (a : BitVec 6) : Statement (.bsetFull h a) := by
  have F := encForm24 h 0x40000107 a (by decide) 0x40000107 rfl (by decide)
  refine readsBack_of h _ rfl rfl F.1 F.2.1 ((parse16 h _ F.2.2.1).trans ?_)
  unfold decodeSpm
  rw [show (fld (mkWord h _) 0 6).toNat = 7 from F.2.2.2.1, show (fld (mkWord h _) 8 6).toNat = 1 from F.2.2.2.2.1, F.2.2.2.2.2.1, F.2.2.2.2.2.2]
  rfl

theorem ReadsBack.bstat (h : Hdr) (d : BitVec 6) (a : BitVec 6) : Statement (.bstat h d a) := by
  have F := encForm2 h 0x40000008 d a (by decide) 0x40000008 rfl (by decide)
  refine readsBack_of h _ rfl rfl F.1 F.2.1 ((parse16 h _ F.2.2.1).trans ?_)
  unfold decodeSpm
  rw [show (fld (mkWord h _) 0 6).toNat = 8 from F.2.2.2.1, F.2.2.2.2.1, F.2.2.2.2.2.1, F.2.2.2.2.2.2]
  rfl

theorem ReadsBack.sldDec (h : Hdr) (d : BitVec 6) (a : BitVec 6) (b : BitVec 6) (x : Bool) : Statement (.sldDec h d a b x) := by
  have F := encForm4 h 0x40000009 d a b x (by decide) 0x40000009 rfl (by decide)
  refine readsBack_of h _ rfl rfl F.1 F.2.1 ((parse16 h _ F.2.2.1).trans ?_)
  unfold decodeSpm
  rw [show (fld (mkWord h _) 0 6).toNat = 9 from F.2.2.2.1, F.2.2.2.2.1, F.2.2.2.2.2.1, F.2.2.2.2.2.2.1, F.2.2.2.2.2.2.2.1, F.2.2.2.2.2.2.2.2]
  rfl

theorem ReadsBack.atomAdd (h : Hdr) (d : BitVec 6) (s : BitVec 6) (n : BitVec 6) (g : BitVec 3) : Statement (.atomAdd h d s n g) := by
  have F := encForm25 h 0x44000000 d s n g (by decide) 0x44000000 rfl (by decide)
  refine readsBack_of h _ rfl rfl F.1 F.2.1 ((parse17 h _ F.2.2.1).trans ?_)
  unfold decodeAtom
  rw [show (fld (mkWord h _) 4 4).toNat = 0 from F.2.2.2.1, F.2.2.2.2.1, F.2.2.2.2.2.1, F.2.2.2.2.2.2.1, F.2.2.2.2.2.2.2.1, F.2.2.2.2.2.2.2.2]
  rfl

theorem ReadsBack.atomAddD (h : Hdr) (d : BitVec 6) (s : BitVec 6) (n : BitVec 6) (g : BitVec 3) : Statement (.atomAddD h d s n g) := by
  have F := encForm25 h 0x44000010 d s n g (by decide) 0x44000010 rfl (by decide)
  refine readsBack_of h _ rfl rfl F.1 F.2.1 ((parse17 h _ F.2.2.1).trans ?_)
  unfold decodeAtom
  rw [show (fld (mkWord h _) 4 4).toNat = 1 from F.2.2.2.1, F.2.2.2.2.1, F.2.2.2.2.2.1, F.2.2.2.2.2.2.1, F.2.2.2.2.2.2.2.1, F.2.2.2.2.2.2.2.2]
  rfl

theorem ReadsBack.atomMin (h : Hdr) (d : BitVec 6) (s : BitVec 6) (n : BitVec 6) (g : BitVec 3) : Statement (.atomMin h d s n g) := by
  have F := encForm25 h 0x44000020 d s n g (by decide) 0x44000020 rfl (by decide)
  refine readsBack_of h _ rfl rfl F.1 F.2.1 ((parse17 h _ F.2.2.1).trans ?_)
  unfold decodeAtom
  rw [show (fld (mkWord h _) 4 4).toNat = 2 from F.2.2.2.1, F.2.2.2.2.1, F.2.2.2.2.2.1, F.2.2.2.2.2.2.1, F.2.2.2.2.2.2.2.1, F.2.2.2.2.2.2.2.2]
  rfl

theorem ReadsBack.atomMax (h : Hdr) (d : BitVec 6) (s : BitVec 6) (n : BitVec 6) (g : BitVec 3) : Statement (.atomMax h d s n g) := by
  have F := encForm25 h 0x44000030 d s n g (by decide) 0x44000030 rfl (by decide)
  refine readsBack_of h _ rfl rfl F.1 F.2.1 ((parse17 h _ F.2.2.1).trans ?_)
  unfold decodeAtom
  rw [show (fld (mkWord h _) 4 4).toNat = 3 from F.2.2.2.1, F.2.2.2.2.1, F.2.2.2.2.2.1, F.2.2.2.2.2.2.1, F.2.2.2.2.2.2.2.1, F.2.2.2.2.2.2.2.2]
  rfl

theorem ReadsBack.atomMinn (h : Hdr) (d : BitVec 6) (s : BitVec 6) (n : BitVec 6) (g : BitVec 3) : Statement (.atomMinn h d s n g) := by
  have F := encForm25 h 0x44000040 d s n g (by decide) 0x44000040 rfl (by decide)
  refine readsBack_of h _ rfl rfl F.1 F.2.1 ((parse17 h _ F.2.2.1).trans ?_)
  unfold decodeAtom
  rw [show (fld (mkWord h _) 4 4).toNat = 4 from F.2.2.2.1, F.2.2.2.2.1, F.2.2.2.2.2.1, F.2.2.2.2.2.2.1, F.2.2.2.2.2.2.2.1, F.2.2.2.2.2.2.2.2]
  rfl

theorem ReadsBack.atomMaxn (h : Hdr) (d : BitVec 6) (s : BitVec 6) (n : BitVec 6) (g : BitVec 3) : Statement (.atomMaxn h d s n g) := by
  have F := encForm25 h 0x44000050 d s n g (by decide) 0x44000050 rfl (by decide)
  refine readsBack_of h _ rfl rfl F.1 F.2.1 ((parse17 h _ F.2.2.1).trans ?_)
  unfold decodeAtom
  rw [show (fld (mkWord h _) 4 4).toNat = 5 from F.2.2.2.1, F.2.2.2.2.1, F.2.2.2.2.2.1, F.2.2.2.2.2.2.1, F.2.2.2.2.2.2.2.1, F.2.2.2.2.2.2.2.2]
  rfl

theorem ReadsBack.atomAnd (h : Hdr) (d : BitVec 6) (s : BitVec 6) (n : BitVec 6) (g : BitVec 3) : Statement (.atomAnd h d s n g) := by
  have F := encForm25 h 0x44000060 d s n g (by decide) 0x44000060 rfl (by decide)
  refine readsBack_of h _ rfl rfl F.1 F.2.1 ((parse17 h _ F.2.2.1).trans ?_)
  unfold decodeAtom
  rw [show (fld (mkWord h _) 4 4).toNat = 6 from F.2.2.2.1, F.2.2.2.2.1, F.2.2.2.2.2.1, F.2.2.2.2.2.2.1, F.2.2.2.2.2.2.2.1, F.2.2.2.2.2.2.2.2]
  rfl

theorem ReadsBack.atomOr (h : Hdr) (d : BitVec 6) (s : BitVec 6) (n : BitVec 6) (g : BitVec 3) : Statement (.atomOr h d s n g) := by
  have F := encForm25 h 0x44000070 d s n g (by decide) 0x44000070 rfl (by decide)
  refine readsBack_of h _ rfl rfl F.1 F.2.1 ((parse17 h _ F.2.2.1).trans ?_)
  unfold decodeAtom
  rw [show (fld (mkWord h _) 4 4).toNat = 7 from F.2.2.2.1, F.2.2.2.2.1, F.2.2.2.2.2.1, F.2.2.2.2.2.2.1, F.2.2.2.2.2.2.2.1, F.2.2.2.2.2.2.2.2]
  rfl

theorem ReadsBack.atomXor (h : Hdr) (d : BitVec 6) (s : BitVec 6) (n : BitVec 6) (g : BitVec 3) : Statement (.atomXor h d s n g) := by
  have F := encForm25 h 0x44000080 d s n g (by decide) 0x44000080 rfl (by decide)
  refine readsBack_of h _ rfl rfl F.1 F.2.1 ((parse17 h _ F.2.2.1).trans ?_)
  unfold decodeAtom
  rw [show (fld (mkWord h _) 4 4).toNat = 8 from F.2.2.2.1, F.2.2.2.2.1, F.2.2.2.2.2.1, F.2.2.2.2.2.2.1, F.2.2.2.2.2.2.2.1, F.2.2.2.2.2.2.2.2]
  rfl

theorem ReadsBack.atomXchg (h : Hdr) (d : BitVec 6) (s : BitVec 6) (n : BitVec 6) (g : BitVec 3) : Statement (.atomXchg h d s n g) := by
  have F := encForm25 h 0x44000090 d s n g (by decide) 0x44000090 rfl (by decide)
  refine readsBack_of h _ rfl rfl F.1 F.2.1 ((parse17 h _ F.2.2.1).trans ?_)
  unfold decodeAtom
  rw [show (fld (mkWord h _) 4 4).toNat = 9 from F.2.2.2.1, F.2.2.2.2.1, F.2.2.2.2.2.1, F.2.2.2.2.2.2.1, F.2.2.2.2.2.2.2.1, F.2.2.2.2.2.2.2.2]
  rfl

theorem ReadsBack.atomCas (h : Hdr) (d : BitVec 6) (s : BitVec 6) (n : BitVec 6) (g : BitVec 3) : Statement (.atomCas h d s n g) := by
  have F := encForm25 h 0x440000a0 d s n g (by decide) 0x440000a0 rfl (by decide)
  refine readsBack_of h _ rfl rfl F.1 F.2.1 ((parse17 h _ F.2.2.1).trans ?_)
  unfold decodeAtom
  rw [show (fld (mkWord h _) 4 4).toNat = 10 from F.2.2.2.1, F.2.2.2.2.1, F.2.2.2.2.2.1, F.2.2.2.2.2.2.1, F.2.2.2.2.2.2.2.1, F.2.2.2.2.2.2.2.2]
  rfl

theorem ReadsBack.atomCasD (h : Hdr) (d : BitVec 6) (s : BitVec 6) (n : BitVec 6) (g : BitVec 3) : Statement (.atomCasD h d s n g) := by
  have F := encForm25 h 0x440000b0 d s n g (by decide) 0x440000b0 rfl (by decide)
  refine readsBack_of h _ rfl rfl F.1 F.2.1 ((parse17 h _ F.2.2.1).trans ?_)
  unfold decodeAtom
  rw [show (fld (mkWord h _) 4 4).toNat = 11 from F.2.2.2.1, F.2.2.2.2.1, F.2.2.2.2.2.1, F.2.2.2.2.2.2.1, F.2.2.2.2.2.2.2.1, F.2.2.2.2.2.2.2.2]
  rfl

theorem ReadsBack.atomFadd (h : Hdr) (d : BitVec 6) (s : BitVec 6) (n : BitVec 6) (g : BitVec 3) : Statement (.atomFadd h d s n g) := by
  have F := encForm25 h 0x440000c0 d s n g (by decide) 0x440000c0 rfl (by decide)
  refine readsBack_of h _ rfl rfl F.1 F.2.1 ((parse17 h _ F.2.2.1).trans ?_)
  unfold decodeAtom
  rw [show (fld (mkWord h _) 4 4).toNat = 12 from F.2.2.2.1, F.2.2.2.2.1, F.2.2.2.2.2.1, F.2.2.2.2.2.2.1, F.2.2.2.2.2.2.2.1, F.2.2.2.2.2.2.2.2]
  rfl

theorem ReadsBack.atomFaddBf2 (h : Hdr) (d : BitVec 6) (s : BitVec 6) (n : BitVec 6) (g : BitVec 3) : Statement (.atomFaddBf2 h d s n g) := by
  have F := encForm25 h 0x440000d0 d s n g (by decide) 0x440000d0 rfl (by decide)
  refine readsBack_of h _ rfl rfl F.1 F.2.1 ((parse17 h _ F.2.2.1).trans ?_)
  unfold decodeAtom
  rw [show (fld (mkWord h _) 4 4).toNat = 13 from F.2.2.2.1, F.2.2.2.2.1, F.2.2.2.2.2.1, F.2.2.2.2.2.2.1, F.2.2.2.2.2.2.2.1, F.2.2.2.2.2.2.2.2]
  rfl

theorem ReadsBack.atomFmin (h : Hdr) (d : BitVec 6) (s : BitVec 6) (n : BitVec 6) (g : BitVec 3) : Statement (.atomFmin h d s n g) := by
  have F := encForm25 h 0x440000e0 d s n g (by decide) 0x440000e0 rfl (by decide)
  refine readsBack_of h _ rfl rfl F.1 F.2.1 ((parse17 h _ F.2.2.1).trans ?_)
  unfold decodeAtom
  rw [show (fld (mkWord h _) 4 4).toNat = 14 from F.2.2.2.1, F.2.2.2.2.1, F.2.2.2.2.2.1, F.2.2.2.2.2.2.1, F.2.2.2.2.2.2.2.1, F.2.2.2.2.2.2.2.2]
  rfl

theorem ReadsBack.atomFmax (h : Hdr) (d : BitVec 6) (s : BitVec 6) (n : BitVec 6) (g : BitVec 3) : Statement (.atomFmax h d s n g) := by
  have F := encForm25 h 0x440000f0 d s n g (by decide) 0x440000f0 rfl (by decide)
  refine readsBack_of h _ rfl rfl F.1 F.2.1 ((parse17 h _ F.2.2.1).trans ?_)
  unfold decodeAtom
  rw [show (fld (mkWord h _) 4 4).toNat = 15 from F.2.2.2.1, F.2.2.2.2.1, F.2.2.2.2.2.1, F.2.2.2.2.2.2.1, F.2.2.2.2.2.2.2.1, F.2.2.2.2.2.2.2.2]
  rfl

theorem ReadsBack.redAdd (h : Hdr) (d : BitVec 6) (s : BitVec 6) (n : BitVec 6) (g : BitVec 3) : Statement (.redAdd h d s n g) := by
  have F := encForm25 h 0x48000000 d s n g (by decide) 0x48000000 rfl (by decide)
  refine readsBack_of h _ rfl rfl F.1 F.2.1 ((parse18 h _ F.2.2.1).trans ?_)
  unfold decodeRed
  rw [show (fld (mkWord h _) 4 4).toNat = 0 from F.2.2.2.1, F.2.2.2.2.1, F.2.2.2.2.2.1, F.2.2.2.2.2.2.1, F.2.2.2.2.2.2.2.1, F.2.2.2.2.2.2.2.2]
  rfl

theorem ReadsBack.redAddD (h : Hdr) (d : BitVec 6) (s : BitVec 6) (n : BitVec 6) (g : BitVec 3) : Statement (.redAddD h d s n g) := by
  have F := encForm25 h 0x48000010 d s n g (by decide) 0x48000010 rfl (by decide)
  refine readsBack_of h _ rfl rfl F.1 F.2.1 ((parse18 h _ F.2.2.1).trans ?_)
  unfold decodeRed
  rw [show (fld (mkWord h _) 4 4).toNat = 1 from F.2.2.2.1, F.2.2.2.2.1, F.2.2.2.2.2.1, F.2.2.2.2.2.2.1, F.2.2.2.2.2.2.2.1, F.2.2.2.2.2.2.2.2]
  rfl

theorem ReadsBack.redMin (h : Hdr) (d : BitVec 6) (s : BitVec 6) (n : BitVec 6) (g : BitVec 3) : Statement (.redMin h d s n g) := by
  have F := encForm25 h 0x48000020 d s n g (by decide) 0x48000020 rfl (by decide)
  refine readsBack_of h _ rfl rfl F.1 F.2.1 ((parse18 h _ F.2.2.1).trans ?_)
  unfold decodeRed
  rw [show (fld (mkWord h _) 4 4).toNat = 2 from F.2.2.2.1, F.2.2.2.2.1, F.2.2.2.2.2.1, F.2.2.2.2.2.2.1, F.2.2.2.2.2.2.2.1, F.2.2.2.2.2.2.2.2]
  rfl

theorem ReadsBack.redMax (h : Hdr) (d : BitVec 6) (s : BitVec 6) (n : BitVec 6) (g : BitVec 3) : Statement (.redMax h d s n g) := by
  have F := encForm25 h 0x48000030 d s n g (by decide) 0x48000030 rfl (by decide)
  refine readsBack_of h _ rfl rfl F.1 F.2.1 ((parse18 h _ F.2.2.1).trans ?_)
  unfold decodeRed
  rw [show (fld (mkWord h _) 4 4).toNat = 3 from F.2.2.2.1, F.2.2.2.2.1, F.2.2.2.2.2.1, F.2.2.2.2.2.2.1, F.2.2.2.2.2.2.2.1, F.2.2.2.2.2.2.2.2]
  rfl

theorem ReadsBack.redMinn (h : Hdr) (d : BitVec 6) (s : BitVec 6) (n : BitVec 6) (g : BitVec 3) : Statement (.redMinn h d s n g) := by
  have F := encForm25 h 0x48000040 d s n g (by decide) 0x48000040 rfl (by decide)
  refine readsBack_of h _ rfl rfl F.1 F.2.1 ((parse18 h _ F.2.2.1).trans ?_)
  unfold decodeRed
  rw [show (fld (mkWord h _) 4 4).toNat = 4 from F.2.2.2.1, F.2.2.2.2.1, F.2.2.2.2.2.1, F.2.2.2.2.2.2.1, F.2.2.2.2.2.2.2.1, F.2.2.2.2.2.2.2.2]
  rfl

theorem ReadsBack.redMaxn (h : Hdr) (d : BitVec 6) (s : BitVec 6) (n : BitVec 6) (g : BitVec 3) : Statement (.redMaxn h d s n g) := by
  have F := encForm25 h 0x48000050 d s n g (by decide) 0x48000050 rfl (by decide)
  refine readsBack_of h _ rfl rfl F.1 F.2.1 ((parse18 h _ F.2.2.1).trans ?_)
  unfold decodeRed
  rw [show (fld (mkWord h _) 4 4).toNat = 5 from F.2.2.2.1, F.2.2.2.2.1, F.2.2.2.2.2.1, F.2.2.2.2.2.2.1, F.2.2.2.2.2.2.2.1, F.2.2.2.2.2.2.2.2]
  rfl

theorem ReadsBack.redAnd (h : Hdr) (d : BitVec 6) (s : BitVec 6) (n : BitVec 6) (g : BitVec 3) : Statement (.redAnd h d s n g) := by
  have F := encForm25 h 0x48000060 d s n g (by decide) 0x48000060 rfl (by decide)
  refine readsBack_of h _ rfl rfl F.1 F.2.1 ((parse18 h _ F.2.2.1).trans ?_)
  unfold decodeRed
  rw [show (fld (mkWord h _) 4 4).toNat = 6 from F.2.2.2.1, F.2.2.2.2.1, F.2.2.2.2.2.1, F.2.2.2.2.2.2.1, F.2.2.2.2.2.2.2.1, F.2.2.2.2.2.2.2.2]
  rfl

theorem ReadsBack.redOr (h : Hdr) (d : BitVec 6) (s : BitVec 6) (n : BitVec 6) (g : BitVec 3) : Statement (.redOr h d s n g) := by
  have F := encForm25 h 0x48000070 d s n g (by decide) 0x48000070 rfl (by decide)
  refine readsBack_of h _ rfl rfl F.1 F.2.1 ((parse18 h _ F.2.2.1).trans ?_)
  unfold decodeRed
  rw [show (fld (mkWord h _) 4 4).toNat = 7 from F.2.2.2.1, F.2.2.2.2.1, F.2.2.2.2.2.1, F.2.2.2.2.2.2.1, F.2.2.2.2.2.2.2.1, F.2.2.2.2.2.2.2.2]
  rfl

theorem ReadsBack.redXor (h : Hdr) (d : BitVec 6) (s : BitVec 6) (n : BitVec 6) (g : BitVec 3) : Statement (.redXor h d s n g) := by
  have F := encForm25 h 0x48000080 d s n g (by decide) 0x48000080 rfl (by decide)
  refine readsBack_of h _ rfl rfl F.1 F.2.1 ((parse18 h _ F.2.2.1).trans ?_)
  unfold decodeRed
  rw [show (fld (mkWord h _) 4 4).toNat = 8 from F.2.2.2.1, F.2.2.2.2.1, F.2.2.2.2.2.1, F.2.2.2.2.2.2.1, F.2.2.2.2.2.2.2.1, F.2.2.2.2.2.2.2.2]
  rfl

theorem ReadsBack.redFadd (h : Hdr) (d : BitVec 6) (s : BitVec 6) (n : BitVec 6) (g : BitVec 3) : Statement (.redFadd h d s n g) := by
  have F := encForm25 h 0x48000090 d s n g (by decide) 0x48000090 rfl (by decide)
  refine readsBack_of h _ rfl rfl F.1 F.2.1 ((parse18 h _ F.2.2.1).trans ?_)
  unfold decodeRed
  rw [show (fld (mkWord h _) 4 4).toNat = 9 from F.2.2.2.1, F.2.2.2.2.1, F.2.2.2.2.2.1, F.2.2.2.2.2.2.1, F.2.2.2.2.2.2.2.1, F.2.2.2.2.2.2.2.2]
  rfl

theorem ReadsBack.redFaddBf2 (h : Hdr) (d : BitVec 6) (s : BitVec 6) (n : BitVec 6) (g : BitVec 3) : Statement (.redFaddBf2 h d s n g) := by
  have F := encForm25 h 0x480000a0 d s n g (by decide) 0x480000a0 rfl (by decide)
  refine readsBack_of h _ rfl rfl F.1 F.2.1 ((parse18 h _ F.2.2.1).trans ?_)
  unfold decodeRed
  rw [show (fld (mkWord h _) 4 4).toNat = 10 from F.2.2.2.1, F.2.2.2.2.1, F.2.2.2.2.2.1, F.2.2.2.2.2.2.1, F.2.2.2.2.2.2.2.1, F.2.2.2.2.2.2.2.2]
  rfl

theorem ReadsBack.fenceAcq (h : Hdr) (g : BitVec 3) : Statement (.fenceAcq h g) := by
  have F := encForm26 h 0x4c000000 g (by decide) 0x4c000000 rfl (by decide)
  refine readsBack_of h _ rfl rfl F.1 F.2.1 ((parse19 h _ F.2.2.1).trans ?_)
  unfold decodeSync
  rw [show (fld (mkWord h _) 0 6).toNat = 0 from F.2.2.2.1, show (fld (mkWord h _) 8 2).toNat = 0 from F.2.2.2.2.1, F.2.2.2.2.2.1, F.2.2.2.2.2.2]
  rfl

theorem ReadsBack.fenceRel (h : Hdr) (g : BitVec 3) : Statement (.fenceRel h g) := by
  have F := encForm26 h 0x4c000100 g (by decide) 0x4c000100 rfl (by decide)
  refine readsBack_of h _ rfl rfl F.1 F.2.1 ((parse19 h _ F.2.2.1).trans ?_)
  unfold decodeSync
  rw [show (fld (mkWord h _) 0 6).toNat = 0 from F.2.2.2.1, show (fld (mkWord h _) 8 2).toNat = 1 from F.2.2.2.2.1, F.2.2.2.2.2.1, F.2.2.2.2.2.2]
  rfl

theorem ReadsBack.fenceFull (h : Hdr) (g : BitVec 3) : Statement (.fenceFull h g) := by
  have F := encForm26 h 0x4c000200 g (by decide) 0x4c000200 rfl (by decide)
  refine readsBack_of h _ rfl rfl F.1 F.2.1 ((parse19 h _ F.2.2.1).trans ?_)
  unfold decodeSync
  rw [show (fld (mkWord h _) 0 6).toNat = 0 from F.2.2.2.1, show (fld (mkWord h _) 8 2).toNat = 2 from F.2.2.2.2.1, F.2.2.2.2.2.1, F.2.2.2.2.2.2]
  rfl

theorem ReadsBack.ifb (h : Hdr) : Statement (.ifb h) := by
  have F := encForm27 h 0x4c000300 (by decide) 0x4c000300 rfl (by decide)
  refine readsBack_of h _ rfl rfl F.1 F.2.1 ((parse19 h _ F.2.2.1).trans ?_)
  unfold decodeSync
  rw [show (fld (mkWord h _) 0 6).toNat = 0 from F.2.2.2.1, show (fld (mkWord h _) 8 2).toNat = 3 from F.2.2.2.2.1, F.2.2.2.2.2]
  rfl

theorem ReadsBack.bar (h : Hdr) (a : BitVec 6) : Statement (.bar h a) := by
  have F := encForm3 h 0x4c000001 a (by decide) 0x4c000001 rfl (by decide)
  refine readsBack_of h _ rfl rfl F.1 F.2.1 ((parse19 h _ F.2.2.1).trans ?_)
  unfold decodeSync
  rw [show (fld (mkWord h _) 0 6).toNat = 1 from F.2.2.2.1, F.2.2.2.2.1, F.2.2.2.2.2]
  rfl

theorem ReadsBack.barArv (h : Hdr) (a : BitVec 6) : Statement (.barArv h a) := by
  have F := encForm3 h 0x4c000002 a (by decide) 0x4c000002 rfl (by decide)
  refine readsBack_of h _ rfl rfl F.1 F.2.1 ((parse19 h _ F.2.2.1).trans ?_)
  unfold decodeSync
  rw [show (fld (mkWord h _) 0 6).toNat = 2 from F.2.2.2.1, F.2.2.2.2.1, F.2.2.2.2.2]
  rfl

theorem ReadsBack.barWt (h : Hdr) (a : BitVec 6) : Statement (.barWt h a) := by
  have F := encForm3 h 0x4c000003 a (by decide) 0x4c000003 rfl (by decide)
  refine readsBack_of h _ rfl rfl F.1 F.2.1 ((parse19 h _ F.2.2.1).trans ?_)
  unfold decodeSync
  rw [show (fld (mkWord h _) 0 6).toNat = 3 from F.2.2.2.1, F.2.2.2.2.1, F.2.2.2.2.2]
  rfl

theorem ReadsBack.semSig (h : Hdr) (a : BitVec 6) (b : BitVec 6) : Statement (.semSig h a b) := by
  have F := encForm23 h 0x4c000004 a b (by decide) 0x4c000004 rfl (by decide)
  refine readsBack_of h _ rfl rfl F.1 F.2.1 ((parse19 h _ F.2.2.1).trans ?_)
  unfold decodeSync
  rw [show (fld (mkWord h _) 0 6).toNat = 4 from F.2.2.2.1, F.2.2.2.2.1, F.2.2.2.2.2.1, F.2.2.2.2.2.2]
  rfl

theorem ReadsBack.semWait (h : Hdr) (a : BitVec 6) (b : BitVec 6) : Statement (.semWait h a b) := by
  have F := encForm23 h 0x4c000005 a b (by decide) 0x4c000005 rfl (by decide)
  refine readsBack_of h _ rfl rfl F.1 F.2.1 ((parse19 h _ F.2.2.1).trans ?_)
  unfold decodeSync
  rw [show (fld (mkWord h _) 0 6).toNat = 5 from F.2.2.2.1, F.2.2.2.2.1, F.2.2.2.2.2.1, F.2.2.2.2.2.2]
  rfl

theorem ReadsBack.tlwait (h : Hdr) (g : BitVec 3) (a : BitVec 6) (b : BitVec 6) : Statement (.tlwait h g a b) := by
  have F := encForm28 h 0x4c000006 g a b (by decide) 0x4c000006 rfl (by decide)
  refine readsBack_of h _ rfl rfl F.1 F.2.1 ((parse19 h _ F.2.2.1).trans ?_)
  unfold decodeSync
  rw [show (fld (mkWord h _) 0 6).toNat = 6 from F.2.2.2.1, F.2.2.2.2.1, F.2.2.2.2.2.1, F.2.2.2.2.2.2.1, F.2.2.2.2.2.2.2]
  rfl

theorem ReadsBack.txb (h : Hdr) (d : BitVec 3) : Statement (.txb h d) := by
  have F := encForm29 h 0x4c000007 d (by decide) 0x4c000007 rfl (by decide)
  refine readsBack_of h _ rfl rfl F.1 F.2.1 ((parse19 h _ F.2.2.1).trans ?_)
  unfold decodeSync
  rw [show (fld (mkWord h _) 0 6).toNat = 7 from F.2.2.2.1, F.2.2.2.2.1]
  simp only [F.2.2.2.2.2]

theorem ReadsBack.txe (h : Hdr) : Statement (.txe h) := by
  have F := encForm0 h 0x4c000008 (by decide) 0x4c000008 rfl (by decide)
  refine readsBack_of h _ rfl rfl F.1 F.2.1 ((parse19 h _ F.2.2.1).trans ?_)
  unfold decodeSync
  rw [show (fld (mkWord h _) 0 6).toNat = 8 from F.2.2.2.1, F.2.2.2.2]
  rfl

theorem ReadsBack.txa (h : Hdr) (a : BitVec 6) : Statement (.txa h a) := by
  have F := encForm3 h 0x4c000009 a (by decide) 0x4c000009 rfl (by decide)
  refine readsBack_of h _ rfl rfl F.1 F.2.1 ((parse19 h _ F.2.2.1).trans ?_)
  unfold decodeSync
  rw [show (fld (mkWord h _) 0 6).toNat = 9 from F.2.2.2.1, F.2.2.2.2.1, F.2.2.2.2.2]
  rfl

theorem ReadsBack.wlput (h : Hdr) (d : BitVec 3) (a : BitVec 6) (b : BitVec 6) (x : Bool) (y : Bool) : Statement (.wlput h d a b x y) := by
  have F := encForm14 h 0x4c00000a d a b x y (by decide) 0x4c00000a rfl (by decide)
  refine readsBack_of h _ rfl rfl F.1 F.2.1 ((parse19 h _ F.2.2.1).trans ?_)
  unfold decodeSync
  rw [show (fld (mkWord h _) 0 6).toNat = 10 from F.2.2.2.1, F.2.2.2.2.1, F.2.2.2.2.2.2.1, F.2.2.2.2.2.2.2.1, F.2.2.2.2.2.2.2.2.1, F.2.2.2.2.2.2.2.2.2]
  simp only [F.2.2.2.2.2.1]

theorem ReadsBack.wlget (h : Hdr) (d : BitVec 6) : Statement (.wlget h d) := by
  have F := encForm21 h 0x4c00000b d (by decide) 0x4c00000b rfl (by decide)
  refine readsBack_of h _ rfl rfl F.1 F.2.1 ((parse19 h _ F.2.2.1).trans ?_)
  unfold decodeSync
  rw [show (fld (mkWord h _) 0 6).toNat = 11 from F.2.2.2.1, F.2.2.2.2.1, F.2.2.2.2.2]
  rfl

theorem ReadsBack.amrecv (h : Hdr) (d : BitVec 6) (a : BitVec 6) : Statement (.amrecv h d a) := by
  have F := encForm2 h 0x4c00000c d a (by decide) 0x4c00000c rfl (by decide)
  refine readsBack_of h _ rfl rfl F.1 F.2.1 ((parse19 h _ F.2.2.1).trans ?_)
  unfold decodeSync
  rw [show (fld (mkWord h _) 0 6).toNat = 12 from F.2.2.2.1, F.2.2.2.2.1, F.2.2.2.2.2.1, F.2.2.2.2.2.2]
  rfl

theorem ReadsBack.bwaitDrained (h : Hdr) (a : BitVec 6) : Statement (.bwaitDrained h a) := by
  have F := encForm24 h 0x4c00000d a (by decide) 0x4c00000d rfl (by decide)
  refine readsBack_of h _ rfl rfl F.1 F.2.1 ((parse19 h _ F.2.2.1).trans ?_)
  unfold decodeSync
  rw [show (fld (mkWord h _) 0 6).toNat = 13 from F.2.2.2.1, show (fld (mkWord h _) 8 6).toNat = 0 from F.2.2.2.2.1, F.2.2.2.2.2.1, F.2.2.2.2.2.2]
  rfl

theorem ReadsBack.bwaitFull (h : Hdr) (a : BitVec 6) : Statement (.bwaitFull h a) := by
  have F := encForm24 h 0x4c00010d a (by decide) 0x4c00010d rfl (by decide)
  refine readsBack_of h _ rfl rfl F.1 F.2.1 ((parse19 h _ F.2.2.1).trans ?_)
  unfold decodeSync
  rw [show (fld (mkWord h _) 0 6).toNat = 13 from F.2.2.2.1, show (fld (mkWord h _) 8 6).toNat = 1 from F.2.2.2.2.1, F.2.2.2.2.2.1, F.2.2.2.2.2.2]
  rfl

theorem ReadsBack.mmaBf (h : Hdr) (d : BitVec 3) (a : BitVec 6) (b : BitVec 6) (x : Bool) (y : Bool) : Statement (.mmaBf h d a b x y) := by
  have F := encForm14 h 0x50000000 d a b x y (by decide) 0x50000000 rfl (by decide)
  refine readsBack_of h _ rfl rfl F.1 F.2.1 ((parse20 h _ F.2.2.1).trans ?_)
  unfold decodeMma
  rw [show (fld (mkWord h _) 0 6).toNat = 0 from F.2.2.2.1, F.2.2.2.2.1, F.2.2.2.2.2.2.1, F.2.2.2.2.2.2.2.1, F.2.2.2.2.2.2.2.2.1, F.2.2.2.2.2.2.2.2.2]
  simp only [F.2.2.2.2.2.1]

theorem ReadsBack.mmaH (h : Hdr) (d : BitVec 3) (a : BitVec 6) (b : BitVec 6) (x : Bool) (y : Bool) : Statement (.mmaH h d a b x y) := by
  have F := encForm14 h 0x50000001 d a b x y (by decide) 0x50000001 rfl (by decide)
  refine readsBack_of h _ rfl rfl F.1 F.2.1 ((parse20 h _ F.2.2.1).trans ?_)
  unfold decodeMma
  rw [show (fld (mkWord h _) 0 6).toNat = 1 from F.2.2.2.1, F.2.2.2.2.1, F.2.2.2.2.2.2.1, F.2.2.2.2.2.2.2.1, F.2.2.2.2.2.2.2.2.1, F.2.2.2.2.2.2.2.2.2]
  simp only [F.2.2.2.2.2.1]

theorem ReadsBack.mmaE4 (h : Hdr) (d : BitVec 3) (a : BitVec 6) (b : BitVec 6) (x : Bool) (y : Bool) : Statement (.mmaE4 h d a b x y) := by
  have F := encForm14 h 0x50000002 d a b x y (by decide) 0x50000002 rfl (by decide)
  refine readsBack_of h _ rfl rfl F.1 F.2.1 ((parse20 h _ F.2.2.1).trans ?_)
  unfold decodeMma
  rw [show (fld (mkWord h _) 0 6).toNat = 2 from F.2.2.2.1, F.2.2.2.2.1, F.2.2.2.2.2.2.1, F.2.2.2.2.2.2.2.1, F.2.2.2.2.2.2.2.2.1, F.2.2.2.2.2.2.2.2.2]
  simp only [F.2.2.2.2.2.1]

theorem ReadsBack.mmaE5 (h : Hdr) (d : BitVec 3) (a : BitVec 6) (b : BitVec 6) (x : Bool) (y : Bool) : Statement (.mmaE5 h d a b x y) := by
  have F := encForm14 h 0x50000003 d a b x y (by decide) 0x50000003 rfl (by decide)
  refine readsBack_of h _ rfl rfl F.1 F.2.1 ((parse20 h _ F.2.2.1).trans ?_)
  unfold decodeMma
  rw [show (fld (mkWord h _) 0 6).toNat = 3 from F.2.2.2.1, F.2.2.2.2.1, F.2.2.2.2.2.2.1, F.2.2.2.2.2.2.2.1, F.2.2.2.2.2.2.2.2.1, F.2.2.2.2.2.2.2.2.2]
  simp only [F.2.2.2.2.2.1]

theorem ReadsBack.mmaE4e5 (h : Hdr) (d : BitVec 3) (a : BitVec 6) (b : BitVec 6) (x : Bool) (y : Bool) : Statement (.mmaE4e5 h d a b x y) := by
  have F := encForm14 h 0x50000004 d a b x y (by decide) 0x50000004 rfl (by decide)
  refine readsBack_of h _ rfl rfl F.1 F.2.1 ((parse20 h _ F.2.2.1).trans ?_)
  unfold decodeMma
  rw [show (fld (mkWord h _) 0 6).toNat = 4 from F.2.2.2.1, F.2.2.2.2.1, F.2.2.2.2.2.2.1, F.2.2.2.2.2.2.2.1, F.2.2.2.2.2.2.2.2.1, F.2.2.2.2.2.2.2.2.2]
  simp only [F.2.2.2.2.2.1]

theorem ReadsBack.mmaQ4 (h : Hdr) (d : BitVec 3) (a : BitVec 6) (b : BitVec 6) (x : Bool) (y : Bool) : Statement (.mmaQ4 h d a b x y) := by
  have F := encForm14 h 0x50000005 d a b x y (by decide) 0x50000005 rfl (by decide)
  refine readsBack_of h _ rfl rfl F.1 F.2.1 ((parse20 h _ F.2.2.1).trans ?_)
  unfold decodeMma
  rw [show (fld (mkWord h _) 0 6).toNat = 5 from F.2.2.2.1, F.2.2.2.2.1, F.2.2.2.2.2.2.1, F.2.2.2.2.2.2.2.1, F.2.2.2.2.2.2.2.2.1, F.2.2.2.2.2.2.2.2.2]
  simp only [F.2.2.2.2.2.1]

theorem ReadsBack.mmaI8 (h : Hdr) (d : BitVec 3) (a : BitVec 6) (b : BitVec 6) (x : Bool) (y : Bool) : Statement (.mmaI8 h d a b x y) := by
  have F := encForm14 h 0x50000006 d a b x y (by decide) 0x50000006 rfl (by decide)
  refine readsBack_of h _ rfl rfl F.1 F.2.1 ((parse20 h _ F.2.2.1).trans ?_)
  unfold decodeMma
  rw [show (fld (mkWord h _) 0 6).toNat = 6 from F.2.2.2.1, F.2.2.2.2.1, F.2.2.2.2.2.2.1, F.2.2.2.2.2.2.2.1, F.2.2.2.2.2.2.2.2.1, F.2.2.2.2.2.2.2.2.2]
  simp only [F.2.2.2.2.2.1]

theorem ReadsBack.mzero (h : Hdr) (d : BitVec 3) : Statement (.mzero h d) := by
  have F := encForm29 h 0x50000007 d (by decide) 0x50000007 rfl (by decide)
  refine readsBack_of h _ rfl rfl F.1 F.2.1 ((parse20 h _ F.2.2.1).trans ?_)
  unfold decodeMma
  rw [show (fld (mkWord h _) 0 6).toNat = 7 from F.2.2.2.1, F.2.2.2.2.1]
  simp only [F.2.2.2.2.2]

theorem ReadsBack.mld (h : Hdr) (d : BitVec 3) (a : BitVec 6) (b : BitVec 6) : Statement (.mld h d a b) := by
  have F := encForm30 h 0x50000008 d a b (by decide) 0x50000008 rfl (by decide)
  refine readsBack_of h _ rfl rfl F.1 F.2.1 ((parse20 h _ F.2.2.1).trans ?_)
  unfold decodeMma
  rw [show (fld (mkWord h _) 0 6).toNat = 8 from F.2.2.2.1, F.2.2.2.2.1, F.2.2.2.2.2.2.1, F.2.2.2.2.2.2.2]
  simp only [F.2.2.2.2.2.1]

theorem ReadsBack.mwait (h : Hdr) (a : BitVec 3) : Statement (.mwait h a) := by
  have F := encForm31 h 0x5000000a a (by decide) 0x5000000a rfl (by decide)
  refine readsBack_of h _ rfl rfl F.1 F.2.1 ((parse20 h _ F.2.2.1).trans ?_)
  unfold decodeMma
  rw [show (fld (mkWord h _) 0 6).toNat = 10 from F.2.2.2.1, F.2.2.2.2.1]
  simp only [F.2.2.2.2.2]

theorem ReadsBack.mloop (h : Hdr) (d : BitVec 3) (a : BitVec 6) (b : BitVec 6) : Statement (.mloop h d a b) := by
  have F := encForm30 h 0x54000000 d a b (by decide) 0x54000000 rfl (by decide)
  refine readsBack_of h _ rfl rfl F.1 F.2.1 ((parse21 h _ F.2.2.1).trans ?_)
  unfold decodeMseq
  rw [show (fld (mkWord h _) 0 6).toNat = 0 from F.2.2.2.1, F.2.2.2.2.1, F.2.2.2.2.2.2.1, F.2.2.2.2.2.2.2]
  simp only [F.2.2.2.2.2.1]

theorem ReadsBack.mconv (h : Hdr) (d : BitVec 3) (a : BitVec 6) (b : BitVec 6) : Statement (.mconv h d a b) := by
  have F := encForm30 h 0x54000001 d a b (by decide) 0x54000001 rfl (by decide)
  refine readsBack_of h _ rfl rfl F.1 F.2.1 ((parse21 h _ F.2.2.1).trans ?_)
  unfold decodeMseq
  rw [show (fld (mkWord h _) 0 6).toNat = 1 from F.2.2.2.1, F.2.2.2.2.1, F.2.2.2.2.2.2.1, F.2.2.2.2.2.2.2]
  simp only [F.2.2.2.2.2.1]

theorem ReadsBack.kick (h : Hdr) (d : BitVec 6) (a : BitVec 6) (b : BitVec 6) : Statement (.kick h d a b) := by
  have F := encForm5 h 0x58000000 d a b (by decide) 0x58000000 rfl (by decide)
  refine readsBack_of h _ rfl rfl F.1 F.2.1 ((parse22 h _ F.2.2.1).trans ?_)
  unfold decodeEng
  rw [show (fld (mkWord h _) 0 6).toNat = 0 from F.2.2.2.1, F.2.2.2.2.1, F.2.2.2.2.2.1, F.2.2.2.2.2.2.1, F.2.2.2.2.2.2.2]
  rfl

theorem ReadsBack.vchain (h : Hdr) (d : BitVec 6) (a : BitVec 6) (b : BitVec 6) : Statement (.vchain h d a b) := by
  have F := encForm5 h 0x58000001 d a b (by decide) 0x58000001 rfl (by decide)
  refine readsBack_of h _ rfl rfl F.1 F.2.1 ((parse22 h _ F.2.2.1).trans ?_)
  unfold decodeEng
  rw [show (fld (mkWord h _) 0 6).toNat = 1 from F.2.2.2.1, F.2.2.2.2.1, F.2.2.2.2.2.1, F.2.2.2.2.2.2.1, F.2.2.2.2.2.2.2]
  rfl

theorem ReadsBack.pair (h : Hdr) (d : BitVec 6) (a : BitVec 6) (b : BitVec 6) : Statement (.pair h d a b) := by
  have F := encForm5 h 0x58000002 d a b (by decide) 0x58000002 rfl (by decide)
  refine readsBack_of h _ rfl rfl F.1 F.2.1 ((parse22 h _ F.2.2.1).trans ?_)
  unfold decodeEng
  rw [show (fld (mkWord h _) 0 6).toNat = 2 from F.2.2.2.1, F.2.2.2.2.1, F.2.2.2.2.2.1, F.2.2.2.2.2.2.1, F.2.2.2.2.2.2.2]
  rfl

theorem ReadsBack.pairResume (h : Hdr) (d : BitVec 6) (a : BitVec 6) (b : BitVec 6) : Statement (.pairResume h d a b) := by
  have F := encForm5 h 0x58000003 d a b (by decide) 0x58000003 rfl (by decide)
  refine readsBack_of h _ rfl rfl F.1 F.2.1 ((parse22 h _ F.2.2.1).trans ?_)
  unfold decodeEng
  rw [show (fld (mkWord h _) 0 6).toNat = 3 from F.2.2.2.1, F.2.2.2.2.1, F.2.2.2.2.2.1, F.2.2.2.2.2.2.1, F.2.2.2.2.2.2.2]
  rfl

theorem ReadsBack.lnch (h : Hdr) (d : BitVec 6) (a : BitVec 6) (b : BitVec 6) : Statement (.lnch h d a b) := by
  have F := encForm5 h 0x58000004 d a b (by decide) 0x58000004 rfl (by decide)
  refine readsBack_of h _ rfl rfl F.1 F.2.1 ((parse22 h _ F.2.2.1).trans ?_)
  unfold decodeEng
  rw [show (fld (mkWord h _) 0 6).toNat = 4 from F.2.2.2.1, F.2.2.2.2.1, F.2.2.2.2.2.1, F.2.2.2.2.2.2.1, F.2.2.2.2.2.2.2]
  rfl

theorem ReadsBack.estat (h : Hdr) (d : BitVec 6) (a : BitVec 6) (n : BitVec 6) : Statement (.estat h d a n) := by
  have F := encForm5 h 0x58000005 d a n (by decide) 0x58000005 rfl (by decide)
  refine readsBack_of h _ rfl rfl F.1 F.2.1 ((parse22 h _ F.2.2.1).trans ?_)
  unfold decodeEng
  rw [show (fld (mkWord h _) 0 6).toNat = 5 from F.2.2.2.1, F.2.2.2.2.1, F.2.2.2.2.2.1, F.2.2.2.2.2.2.1, F.2.2.2.2.2.2.2]
  rfl

theorem ReadsBack.csend (h : Hdr) (d : BitVec 6) (a : BitVec 6) (b : BitVec 6) : Statement (.csend h d a b) := by
  have F := encForm5 h 0x5c000000 d a b (by decide) 0x5c000000 rfl (by decide)
  refine readsBack_of h _ rfl rfl F.1 F.2.1 ((parse23 h _ F.2.2.1).trans ?_)
  unfold decodeFab
  rw [show (fld (mkWord h _) 0 6).toNat = 0 from F.2.2.2.1, F.2.2.2.2.1, F.2.2.2.2.2.1, F.2.2.2.2.2.2.1, F.2.2.2.2.2.2.2]
  rfl

theorem ReadsBack.crecv (h : Hdr) (d : BitVec 6) (a : BitVec 6) (b : BitVec 6) : Statement (.crecv h d a b) := by
  have F := encForm5 h 0x5c000001 d a b (by decide) 0x5c000001 rfl (by decide)
  refine readsBack_of h _ rfl rfl F.1 F.2.1 ((parse23 h _ F.2.2.1).trans ?_)
  unfold decodeFab
  rw [show (fld (mkWord h _) 0 6).toNat = 1 from F.2.2.2.1, F.2.2.2.2.1, F.2.2.2.2.2.1, F.2.2.2.2.2.2.1, F.2.2.2.2.2.2.2]
  rfl

theorem ReadsBack.cred (h : Hdr) (d : BitVec 6) (a : BitVec 6) (b : BitVec 6) : Statement (.cred h d a b) := by
  have F := encForm5 h 0x5c000002 d a b (by decide) 0x5c000002 rfl (by decide)
  refine readsBack_of h _ rfl rfl F.1 F.2.1 ((parse23 h _ F.2.2.1).trans ?_)
  unfold decodeFab
  rw [show (fld (mkWord h _) 0 6).toNat = 2 from F.2.2.2.1, F.2.2.2.2.1, F.2.2.2.2.2.1, F.2.2.2.2.2.2.1, F.2.2.2.2.2.2.2]
  rfl

theorem ReadsBack.amsend (h : Hdr) (d : BitVec 6) (a : BitVec 6) (b : BitVec 6) (x : Bool) : Statement (.amsend h d a b x) := by
  have F := encForm4 h 0x5c000003 d a b x (by decide) 0x5c000003 rfl (by decide)
  refine readsBack_of h _ rfl rfl F.1 F.2.1 ((parse23 h _ F.2.2.1).trans ?_)
  unfold decodeFab
  rw [show (fld (mkWord h _) 0 6).toNat = 3 from F.2.2.2.1, F.2.2.2.2.1, F.2.2.2.2.2.1, F.2.2.2.2.2.2.1, F.2.2.2.2.2.2.2.1, F.2.2.2.2.2.2.2.2]
  rfl

theorem ReadsBack.rfe (h : Hdr) (a : BitVec 6) : Statement (.rfe h a) := by
  have F := encForm3 h 0x78000000 a (by decide) 0x78000000 rfl (by decide)
  refine readsBack_of h _ rfl rfl F.1 F.2.1 ((parse30 h _ F.2.2.1).trans ?_)
  unfold decodePriv
  rw [show (fld (mkWord h _) 0 6).toNat = 0 from F.2.2.2.1, F.2.2.2.2.1, F.2.2.2.2.2]
  rfl

theorem ReadsBack.resume (h : Hdr) (a : BitVec 6) : Statement (.resume h a) := by
  have F := encForm3 h 0x78000001 a (by decide) 0x78000001 rfl (by decide)
  refine readsBack_of h _ rfl rfl F.1 F.2.1 ((parse30 h _ F.2.2.1).trans ?_)
  unfold decodePriv
  rw [show (fld (mkWord h _) 0 6).toNat = 1 from F.2.2.2.1, F.2.2.2.2.1, F.2.2.2.2.2]
  rfl

theorem ReadsBack.ctxrd (h : Hdr) (d : BitVec 6) (a : BitVec 6) (b : BitVec 6) : Statement (.ctxrd h d a b) := by
  have F := encForm5 h 0x78000002 d a b (by decide) 0x78000002 rfl (by decide)
  refine readsBack_of h _ rfl rfl F.1 F.2.1 ((parse30 h _ F.2.2.1).trans ?_)
  unfold decodePriv
  rw [show (fld (mkWord h _) 0 6).toNat = 2 from F.2.2.2.1, F.2.2.2.2.1, F.2.2.2.2.2.1, F.2.2.2.2.2.2.1, F.2.2.2.2.2.2.2]
  rfl

theorem ReadsBack.ctxwr (h : Hdr) (d : BitVec 6) (a : BitVec 6) (b : BitVec 6) : Statement (.ctxwr h d a b) := by
  have F := encForm5 h 0x78000003 d a b (by decide) 0x78000003 rfl (by decide)
  refine readsBack_of h _ rfl rfl F.1 F.2.1 ((parse30 h _ F.2.2.1).trans ?_)
  unfold decodePriv
  rw [show (fld (mkWord h _) 0 6).toNat = 3 from F.2.2.2.1, F.2.2.2.2.1, F.2.2.2.2.2.1, F.2.2.2.2.2.2.1, F.2.2.2.2.2.2.2]
  rfl

theorem ReadsBack.tlbinv (h : Hdr) (d : BitVec 6) (a : BitVec 6) (b : BitVec 6) : Statement (.tlbinv h d a b) := by
  have F := encForm5 h 0x78000004 d a b (by decide) 0x78000004 rfl (by decide)
  refine readsBack_of h _ rfl rfl F.1 F.2.1 ((parse30 h _ F.2.2.1).trans ?_)
  unfold decodePriv
  rw [show (fld (mkWord h _) 0 6).toNat = 4 from F.2.2.2.1, F.2.2.2.2.1, F.2.2.2.2.2.1, F.2.2.2.2.2.2.1, F.2.2.2.2.2.2.2]
  rfl

theorem ReadsBack.psrd (h : Hdr) (d : BitVec 6) (a : BitVec 6) : Statement (.psrd h d a) := by
  have F := encForm2 h 0x78000005 d a (by decide) 0x78000005 rfl (by decide)
  refine readsBack_of h _ rfl rfl F.1 F.2.1 ((parse30 h _ F.2.2.1).trans ?_)
  unfold decodePriv
  rw [show (fld (mkWord h _) 0 6).toNat = 5 from F.2.2.2.1, F.2.2.2.2.1, F.2.2.2.2.2.1, F.2.2.2.2.2.2]
  rfl

theorem ReadsBack.pswr (h : Hdr) (a : BitVec 6) (b : BitVec 6) : Statement (.pswr h a b) := by
  have F := encForm23 h 0x78000006 a b (by decide) 0x78000006 rfl (by decide)
  refine readsBack_of h _ rfl rfl F.1 F.2.1 ((parse30 h _ F.2.2.1).trans ?_)
  unfold decodePriv
  rw [show (fld (mkWord h _) 0 6).toNat = 6 from F.2.2.2.1, F.2.2.2.2.1, F.2.2.2.2.2.1, F.2.2.2.2.2.2]
  rfl

theorem ReadsBack.idle (h : Hdr) (a : BitVec 6) : Statement (.idle h a) := by
  have F := encForm3 h 0x78000007 a (by decide) 0x78000007 rfl (by decide)
  refine readsBack_of h _ rfl rfl F.1 F.2.1 ((parse30 h _ F.2.2.1).trans ?_)
  unfold decodePriv
  rw [show (fld (mkWord h _) 0 6).toNat = 7 from F.2.2.2.1, F.2.2.2.2.1, F.2.2.2.2.2]
  rfl

theorem ReadsBack.rtwr (h : Hdr) (d : BitVec 6) (a : BitVec 6) : Statement (.rtwr h d a) := by
  have F := encForm2 h 0x78000008 d a (by decide) 0x78000008 rfl (by decide)
  refine readsBack_of h _ rfl rfl F.1 F.2.1 ((parse30 h _ F.2.2.1).trans ?_)
  unfold decodePriv
  rw [show (fld (mkWord h _) 0 6).toNat = 8 from F.2.2.2.1, F.2.2.2.2.1, F.2.2.2.2.2.1, F.2.2.2.2.2.2]
  rfl

theorem ReadsBack.sealBlock (h : Hdr) (a : BitVec 6) : Statement (.sealBlock h a) := by
  have F := encForm3 h 0x78000009 a (by decide) 0x78000009 rfl (by decide)
  refine readsBack_of h _ rfl rfl F.1 F.2.1 ((parse30 h _ F.2.2.1).trans ?_)
  unfold decodePriv
  rw [show (fld (mkWord h _) 0 6).toNat = 9 from F.2.2.2.1, F.2.2.2.2.1, F.2.2.2.2.2]
  rfl

theorem ReadsBack.halt (h : Hdr) (a : BitVec 6) : Statement (.halt h a) := by
  have F := encForm3 h 0x7800000a a (by decide) 0x7800000a rfl (by decide)
  refine readsBack_of h _ rfl rfl F.1 F.2.1 ((parse30 h _ F.2.2.1).trans ?_)
  unfold decodePriv
  rw [show (fld (mkWord h _) 0 6).toNat = 10 from F.2.2.2.1, F.2.2.2.2.1, F.2.2.2.2.2]
  rfl

theorem ReadsBack.wake (h : Hdr) (a : BitVec 6) : Statement (.wake h a) := by
  have F := encForm3 h 0x7800000b a (by decide) 0x7800000b rfl (by decide)
  refine readsBack_of h _ rfl rfl F.1 F.2.1 ((parse30 h _ F.2.2.1).trans ?_)
  unfold decodePriv
  rw [show (fld (mkWord h _) 0 6).toNat = 11 from F.2.2.2.1, F.2.2.2.2.1, F.2.2.2.2.2]
  rfl

theorem ReadsBack.mstReg (h : Hdr) (d : BitVec 6) (a : BitVec 3) : Statement (.mstReg h d a) := by
  have hd := d.isLt
  have ha := a.isLt
  obtain ⟨N, e⟩ : ∃ N, N = 0x50000009 + d.toNat * 1048576 + a.toNat * 16384 := ⟨_, rfl⟩
  have hN : N < 2147483648 := by omega
  refine readsBack_of h N (by rw [e]; rfl) rfl hN (by omega)
    ((parse20 h _ (field_is h N hN 26 5 20 (by decide) (by omega))).trans ?_)
  unfold decodeMma
  rw [field_is h N hN 0 6 9 (by decide) (by omega), if_pos (field_reads h N hN 8 (0 : BitVec 6) (by decide) (by show _ = 0; omega)),
    show chk (mkWord h N) 0x7C003FFF 0x50000009 _ = _ from
      fixed_passes h N hN 0x7C003FFF 0x50000009 [(0, 14), (26, 5)] _ (by decide) (by decide) (by decide) (by decide) (by
        simp only [List.forall_mem_cons, List.not_mem_nil, false_imp_iff, forall_const, and_true]
        refine ⟨?_, ?_⟩ <;> omega),
    cls3_passes h N hN 14 a _ (by decide) (by omega), field_reads h N hN 20 d (by decide) (by omega)]
  rfl

theorem ReadsBack.mstBuf (h : Hdr) (d : BitVec 6) (a : BitVec 3) (b : BitVec 6) : Statement (.mstBuf h d a b) := by
  intro wf
  have hb0 : b ≠ 0 := by
    intro hb
    subst hb
    simp [Instr.wf, Instr.shape, Instr.limits] at wf
  revert wf
  show Statement (.mstBuf h d a b)
  have hb1 : b.toNat ≠ 0 := fun hz => hb0 (BitVec.eq_of_toNat_eq hz)
  have hd := d.isLt
  have ha := a.isLt
  have hb := b.isLt
  obtain ⟨N, e⟩ : ∃ N, N = 0x50000009 + d.toNat * 1048576 + a.toNat * 16384 + b.toNat * 256 := ⟨_, rfl⟩
  have hN : N < 2147483648 := by omega
  have f8 := field_reads h N hN 8 b (by decide) (by omega)
  refine readsBack_of h N (by rw [e]; rfl) rfl hN (by omega)
    ((parse20 h _ (field_is h N hN 26 5 20 (by decide) (by omega))).trans ?_)
  unfold decodeMma
  rw [field_is h N hN 0 6 9 (by decide) (by omega), f8, if_neg hb0,
    show chk (mkWord h N) 0x7C0000FF 0x50000009 _ = _ from
      fixed_passes h N hN 0x7C0000FF 0x50000009 [(0, 8), (26, 5)] _ (by decide) (by decide) (by decide) (by decide) (by
        simp only [List.forall_mem_cons, List.not_mem_nil, false_imp_iff, forall_const, and_true]
        refine ⟨?_, ?_⟩ <;> omega),
    cls3_passes h N hN 14 a _ (by decide) (by omega), field_reads h N hN 20 d (by decide) (by omega)]
  rfl

end Sys2Proof.Laws
end

