-- ==== Sys2Proof/Tests/Slice0.lean ====
section
/-! SUPPORT. Tests: words written out from the encodings of 07 to 16 and what they decode to, an ill-formed term for each check of
WellFormed, and for the hypotheses of each statement a concrete state and operands that meet them together. -/

namespace Sys2Proof.Tests

set_option Elab.async false

open Sys2Proof Sys2Proof.Machine

/-! ### Decoding: words written out field by field -/

/-- Reads one word. -/
def reads (w : W32) (i : Instr) : Prop := decodeWords [w] = .ok (i, [])

theorem test_decode_scalar : reads (0#1 ++ 1#5 ++ 2#6 ++ 3#6 ++ 5#6 ++ 0#2 ++ 1#6) (.sub {} 2 3 5) := rfl
theorem test_decode_scalar_immediate : reads (0b0#1 ++ 2#5 ++ 9#6 ++ 63#6 ++ 4#3 ++ 0x7FF#11) (.shli {} 9 63 0x7FF) → False := by
  intro h; cases h
theorem test_decode_scalar_shift : reads (0b0#1 ++ 2#5 ++ 9#6 ++ 63#6 ++ 4#3 ++ 63#11) (.shli {} 9 63 63) := rfl
theorem test_decode_li : reads (0b1#1 ++ 3#5 ++ 63#6 ++ 0xFFFFF#20) (.li { chain := true } 63 0xFFFFF) := rfl
theorem test_decode_branch : reads (0b0#1 ++ 4#5 ++ 3#2 ++ 1#1 ++ 7#3 ++ 0x80000#20) (.btn {} true 7 0x80000) := rfl
theorem test_decode_jump : reads (0b0#1 ++ 5#5 ++ 0#6 ++ 62#6 ++ 0#6 ++ 1#1 ++ 0#1 ++ 1#6) (.callr {} 62 true) := rfl
theorem test_decode_vector : reads (0b0#1 ++ 6#5 ++ 63#6 ++ 0#6 ++ 1#6 ++ 0#1 ++ 1#1 ++ 25#6) (.subsnI32 {} 63 0 1 false true) := rfl
theorem test_decode_vector_immediate : reads (0b0#1 ++ 7#5 ++ 6#6 ++ 0#6 ++ 7#3 ++ 0x7FB#11) (.liiI32 {} 6 0x7FB) := rfl
theorem test_decode_float : reads (0b0#1 ++ 8#5 ++ 1#6 ++ 2#6 ++ 3#6 ++ 1#1 ++ 0#1 ++ 3#6) (.fmaF32 {} 1 2 3 true false) := rfl
theorem test_decode_special_function : reads 0x28920002 (.rsqrt {} 9 8 false) := rfl
theorem test_decode_cross_lane : decodeWords [0x7D780000, 0x2DE74005] =
    .ok (.xredAddf { modw := some { k := 5, p := 7, pn := false, c := 0, ec := false, rnd := 0, sat := false } } 30 29 false, []) := rfl
theorem test_decode_txb : reads 0x4C100007 (.txb {} 1) := rfl
theorem test_decode_txa : reads 0x4C024009 (.txa {} 9) := rfl
theorem test_decode_mzero : reads 0x50300007 (.mzero {} 3) := rfl
theorem test_decode_mwait : reads 0x5000C00A (.mwait {} 3) := rfl
theorem test_decode_reserved_major : decodeWords [0x60000000] = .error .reservedMajor := rfl

/-! ### Well-formedness: an ill-formed term for each check -/

/-- A modifier word that names nothing. -/
def noMod : Mod := { k := 0, p := 7, pn := false, c := 0, ec := false, rnd := 0, sat := false }

theorem test_wf_modifier_not_accepted : (Instr.li { modw := some noMod } 1 1).wf = false := rfl
theorem test_wf_member_predicate : (Instr.xredAdd { modw := some { noMod with p := 1 } } 1 2 false).wf = false := rfl
theorem test_wf_wave_mask : (Instr.add { modw := some { noMod with k := 1 } } 1 2 3).wf = false := rfl
theorem test_wf_round : (Instr.addF32 { modw := some { noMod with rnd := 6 } } 1 2 3 false false).wf = false := rfl
theorem test_wf_rne_only : (Instr.rcp { modw := some { noMod with rnd := 2 } } 1 2 false).wf = false := rfl
theorem test_wf_no_round : (Instr.addI32 { modw := some { noMod with rnd := 1 } } 1 2 3 false false).wf = false := rfl
theorem test_wf_sat : (Instr.addI32 { modw := some { noMod with sat := true } } 1 2 3 false false).wf = false := rfl
theorem test_wf_no_third : (Instr.addI32 { modw := some { noMod with c := 1 } } 1 2 3 false false).wf = false := rfl
theorem test_wf_third_predicate : (Instr.selI32 { modw := some { noMod with c := 8 } } 1 2 3 false false).wf = false := rfl
theorem test_wf_immediate_word : (Instr.add { imm := some 1 } 1 2 3).wf = false := rfl
theorem test_wf_special_register : (Instr.srd {} 1 13).wf = false := rfl
theorem test_wf_special_register_write : (Instr.swr {} 8 1).wf = false := rfl
theorem test_wf_scalar_shift : (Instr.shli {} 1 2 64).wf = false := rfl
theorem test_wf_vector_shift : (Instr.shliI32 {} 1 2 32).wf = false := rfl
theorem test_wf_shfli : (Instr.shfli {} 1 2 48 false).wf = false := rfl
theorem test_wf_draw : (Instr.draw {} 1 5).wf = false ∧ (Instr.draw {} 1 0).wf = false := ⟨rfl, rfl⟩
theorem test_wf_scope : (Instr.fenceAcq {} 6).wf = false := rfl
theorem test_wf_load_order : (Instr.ldW {} 1 2 3 2 0).wf = false := rfl
theorem test_wf_store_order : (Instr.stW {} 1 2 3 1 0).wf = false := rfl
theorem test_wf_bdecl : (Instr.bdecl {} 1 63).wf = false := rfl
theorem test_wf_mst_buffer : (Instr.mstBuf {} 1 2 0).wf = false := rfl
theorem test_wf_mloop : (Instr.mloop {} 1 59 2).wf = false := rfl
theorem test_wf_estat : (Instr.estat {} 1 2 7).wf = false := rfl
theorem test_wf_cred : (Instr.cred {} 1 63 2).wf = false := rfl
theorem test_wf_agent : (Instr.moduleReset).wf = false := rfl

/-! ### A wave at issue -/

/-- A wave of 48 live threads with 48 registers; scalar register 5 holds 7. -/
def wave : Wave := { vregs := 48, accN := 8, live := fullMask, sregs := [(5, 7)] }

/-- A block of one such wave at level S on tile 0 of die 0. -/
def blk : Block := { level := .s, waves := [wave], spmb := 192 }

/-- The wave in the issue stage, all lanes issued, the group at PC 24. -/
def issue (w : Wave) (m : Lanes := fullMask) : State := { State.reset with
  wv := w, pre := w, bk := blk, cur := { on := true, lanes := m, pc := 24, wordPc := 24, next := 28 } }

/-- A header whose mask is k1. -/
def masked : Hdr := { modw := some { noMod with k := 1 } }


/-! ### Hypotheses of the statements over vector, scalar and control instructions -/

theorem test_meets_ready : (issue wave).ready {} [(issue wave).pre.op 47 1] [(issue wave).pre.op 1 1 true, (issue wave).pre.op 0 1 false,
    (issue wave).pre.op 2 1 false] [4, 7] = true := by decide
theorem test_meets_ready_masked_off : (issue { wave with masks := [(1, 4)] }).ready masked [(issue wave).pre.op 47 1]
    [(issue wave).pre.op 1 4 true] [] = true ∧
    (issue { wave with masks := [(1, 4)] }).performers masked = 4 := by decide
theorem test_meets_ready_spans : (issue wave).ready {} [(issue wave).pre.op 44 4] [(issue wave).pre.op 4 4 true, (issue wave).pre.op 8 2] []
    = true := by decide
theorem test_meets_slot : (issue wave).wv.freeSlot = some 0 := by decide
theorem test_meets_members : (issue { wave with masks := [(1, 0x800000000001)] }).membersReady masked [(issue wave).pre.op 46 2]
    [(issue wave).pre.op 1 1 true, (issue wave).pre.op 2 1] = true := by decide
theorem test_meets_converged : (issue wave).cur.lanes = (issue wave).pre.live := by decide
theorem test_meets_predicates : predsKnown wave wave.live [0, 6] = true ∧ (issue wave).guardKnown {} = true := by decide
theorem test_meets_associative : ∀ a b c : W32, a + b + c = a + (b + c) := by intro a b c; exact BitVec.add_assoc a b c
theorem test_meets_lanes : lanesOf (5 : Lanes) = [0, 2] ∧ (lanesOf (5 : Lanes)).filter (fun K => decide (K ≤ 47)) = [0, 2] := by decide
theorem test_meets_target : ((36 : Nat) : Int) = ((issue wave).cur.wordPc / 12 * 12 : Nat) + 12 * immL {} 1 ∧
    ((0 : Nat) : Int) = ((issue wave).cur.wordPc / 12 * 12 : Nat) + 12 * immL {} 0xFFFFE := by decide
theorem test_meets_unsealed : (issue wave).curLaunch.rcd.sealedFlow = false := by decide
theorem test_meets_uniform : (issue { wave with preds := [(2, fullMask)] }).pre.pred 2 &&& wave.live = wave.live ∧
    (issue wave).pre.pred 2 &&& wave.live = 0 ∧ wave.live ≠ 0 := by decide
theorem test_meets_depth : (issue wave).wv.hwDepth 47 < 8 := by decide
theorem test_meets_push_full : 8 ≤ (issue { wave with stack := [(3, [0, 0, 0, 0, 0, 0, 0, 12])] }).wv.hwDepth 3 := by decide
theorem test_meets_jump : Claims.goodTarget (issue wave) (Claims.pairTarget (issue wave) 2 0) = true := by decide
theorem test_meets_return : (issue { wave with stack := [(3, [36])] }).wv.hwDepth 3 = 1 ∧
    Claims.goodTarget (issue wave) 36 = true := by decide
theorem test_meets_no_thread : (issue { wave with masks := [] }).performers masked = 0 := by decide
theorem test_meets_first_lane : lanesOf ((issue wave).performers {}) = 0 :: (lanesOf ((issue wave).performers {})).tail := by decide
theorem test_meets_special_value : (16, BitVec.ofNat 64 0) ∈ Claims.specialValue (issue wave) ∧ (issue wave).bk.die ≠ 64 ∧
    1 ≤ (issue wave).bk.level.code := by decide
theorem test_meets_index_write : ((issue wave).pre.sreg 5).toNat < 1024 ∧ 16 ≤ (19 : BitVec 6).toNat := by decide
theorem test_meets_cstk_write : ∀ L ∈ lanesOf (issue wave).pre.live, (issue wave).pre.memDepth.get L 0 = 0 := by decide
theorem test_meets_sealed : ({ issue wave with launches := [(0, { rcd := { sealedFlow := true } })] } : State).curLaunch.rcd.sealedFlow = true := by
  decide

/-- The state that fetches `nop` next. -/
def fetching : State := State.reset.withFetchWord 32 0

/-- The state once its first quarter has its turn. -/
def fetchTurn : State := { fetching with issuedNow := 0 :: fetching.issuedNow }

/-- The issue stage as the fetch fills it. -/
def fetchStage : State := (fetchTurn.keepPacket ((fetchTurn.blocks.get 0 {}).who fetchWave) 0).load 0 0 (fetchWave.lanesAt 0) 0 4

theorem test_meets_step_clock : (fetching.agenda, fetching.sysLost, fetching.issuedNow) = ([], false, []) ∧ fetching.curFreq ≠ 0 := by decide
theorem test_meets_step_quarter : (fetching.quarterKeys.filter fun k => !fetching.issuedNow.contains k).head? = some 0 := by decide
theorem test_meets_step_turn : fetchTurn.passBusy.get 0 0 ≤ fetchTurn.clk ∧ fetchTurn.slotsAfter 0 = [(0, 0)] ∧
    fetchTurn.mayIssue 0 0 = true := by decide
theorem test_meets_step_wave : (fetchTurn.blocks.get 0 {}).waves[0]?.getD {} = fetchWave ∧ fetchWave.laneTurn.head? = some 0 ∧
    fetchWave.pcOf 0 = 0 ∧ fetchWave.skidding = false ∧ (fetchTurn.blocks.get 0 {}).die ≠ 64 ∧ fetchTurn.isSplit 0 0 = false := by decide
theorem test_meets_step_stop : fetchTurn.packetStop ((fetchTurn.blocks.get 0 {}).who fetchWave) 0 = none := by decide
theorem test_meets_step_packet : fetchTurn.packet ((fetchTurn.blocks.get 0 {}).who fetchWave) 0 = .ok [0, 0, 0] := rfl
theorem test_meets_step_group : startsGroup [0, 0, 0] 0 = true ∧ (groupAt [0, 0, 0] 0).map (·.pc) = [0] ∧
    (groupAt [0, 0, 0] 0).map (·.word) = [0] ∧ (groupAt [0, 0, 0] 0).map (·.instr) = [.ok (.nop {})] := ⟨rfl, rfl, rfl, rfl⟩
theorem test_meets_step_unbroken : let s := fetchTurn.keepPacket ((fetchTurn.blocks.get 0 {}).who fetchWave) 0
    s.bpExec 0 0 4 = none ∧ (s.launch 0).rcd.sealedFlow = false ∧ s.absent 0 0 (groupAt [0, 0, 0] 0) = [] ∧ longWord 0 = false := by decide +kernel
theorem test_meets_step_issue :
    (match exec (.nop {}) { fetchStage with cur := { fetchStage.cur with word := 0, wordPc := 0 } } with
      | .next t => t.progressed &&
        laneIn (if t.cur.acted || t.wv.stopped then fetchWave.lanesAt 0 else fetchWave.lanesAt 0 &&& ~~~ t.cur.held) 0
      | _ => false) = true := by decide +kernel

/-! ### Hypotheses of the statements over memory, buffers and synchronisation -/

/-- One live thread in the issue stage, in block `b`, whose wave has the scalar registers `rs`; its page is mapped and the first stack enabled. -/
def lone (rs : Tab W64 := []) (b : Block := blk) (leaf : W64 := 0x73) : State :=
  let w : Wave := { wave with live := 1, sregs := rs }
  { State.reset.setReg (hbmReg 0 8) 0x802 with
    wv := w
    pre := w
    bk := { b with waves := [w] }
    cur := { on := true, lanes := 1, pc := 24, wordPc := 24, next := 28 }
    tlb := [{ fetchTlb with leaf := leaf }] }

/-- The same in a DET launch whose token it holds. -/
def loneDet : State := { lone with launches := [(0, { rcd := { det := true, waves := 1, grid := 1 }, token := some 0 })] }

/-- A block with one buffer of 192 bytes. -/
def blkBuf (st : BufSt) (fmt : Nat := 0) (geo : Nat := 0) : Block :=
  { blk with bufs := [(0, { decl := true, size := 192, fmt := fmt, geo := geo, state := st })], present := [(0, true)] }

/-- The lone thread's access of `n` bytes at VA `va` finds a place. -/
def finds (s : State) (k : AccKind) (va n : Nat) : Bool :=
  (match s.access s.who k va n with
    | .ok x => !x.maint && x.pa == va
    | _ => false) && (s.bpData 0 k.needsR k.needsW va n).isNone

theorem test_meets_access : finds lone .load 0 4 = true ∧ finds lone .rawLoad 131068 4 = true ∧ finds lone .store 131064 8 = true ∧
    finds lone .rawStore 0 4 = true ∧ finds lone .atomic 131064 8 = true := by decide
theorem test_meets_load : lone.ready {} [lone.pre.op 8 2] [lone.pre.op 9 1] [] = true ∧ lone.wv.freeSlot.isSome = true ∧
    lanesOf (lone.performers {}) = [0] ∧ lone.ea {} 0 9 0 = 0 ∧ lone.wv.txOf 0 = none ∧ lone.wv.atomicPending 0 = false ∧
    lone.unanswered = false ∧ lone.ucopies = [] ∧ lone.writes = [] := by decide
theorem test_meets_load_value : (lone.readByte (lone.view 0) 0 3).bad = false := by decide
theorem test_meets_decoded_load : finds (lone [] blk 0x1073) .dec 0 1 = true ∧ leafFmt 0x1073 = 1 ∧ finds (lone [] blk 0x6073) .dec 0 1 = true ∧
    leafFmt 0x6073 = 6 := by decide
theorem test_meets_reserved_load : finds (lone [] blk 0x6073) .rawLoad 131068 4 = true ∧ q4Reserved (leafGeo 0x6073) 131068 = true ∧
    q4Reserved (leafGeo 0x6073) 0 = false := by decide
theorem test_meets_store : lone.ready {} [] [lone.pre.op 9 1, lone.pre.op 8 2] [] = true ∧ lone.ordWait 0 { pa := 0 } 8 = none := by decide
theorem test_meets_atomic : lone.ready {} [lone.pre.op 8 4] [lone.pre.op 9 1, lone.pre.op 8 4] [] = true ∧ lone.curLaunch.rcd.det = false := by
  decide
theorem test_meets_atomic_det : loneDet.curLaunch.rcd.det = true ∧ loneDet.homeWait 0 3 0 8 = none ∧ loneDet.badRange 0 8 = false ∧
    loneDet.tokenCheck = none ∧ finds loneDet .atomic 0 8 = true ∧ loneDet.unanswered = false := by decide
theorem test_meets_reduction : lone.lockOf 0 = none ∧ lone.depsOf (lone.view 0).key = [] ∧ isHbm 0 = true ∧ lone.inFlight (lone.view 0) 0 8 = false ∧ lone.rmwInFlight 0 8 = false := by
  decide
theorem test_meets_reduction_partial : ({ lone with ucopies := [⟨0, 0, 0, 4, 0, 5⟩] } : State).ucopies = [] ++ ⟨0, 0, 0, 4, 0, 5⟩ :: [] ∧
    lone.bk.die = 0 ∧ lone.bk.tile = 0 := by decide
theorem test_meets_reduction_det : loneDet.writes.any (fun w => w.hits 0 8) = false ∧ loneDet.ucopies = [] := by decide

/-! Buffers: scalar register 0 names offset 0 of buffer 0, register 6 its last word. -/

theorem test_meets_spm_load : let s := lone [(6, 188)] (blkBuf .full)
    s.ready {} [s.pre.op 8 1] [s.pre.op 9 1 false] [] = true ∧ s.bk.readable 0 (Claims.spmOff s 9 6 0) 4 = true ∧
    Claims.spmId s 6 = 0 ∧ s.parkFault 0 0 188 = none ∧ (s.bk.buf 0).fmt = 0 ∧ s.cur.held = 0 := by decide
theorem test_meets_spm_decoded : let s := lone [] (blkBuf .full 1)
    (s.bk.buf 0).fmt ≠ 0 ∧ (s.bk.buf 0).fmt ≠ 6 ∧ s.bk.readable 0 0 (elemSize 1) = true ∧ s.ready {} [s.pre.op 8 2] [s.pre.op 9 1 false] [] = true := by
  decide
theorem test_meets_spm_q4 : let s := lone [] { blkBuf .full 6 with bufs := [(0, { decl := true, size := 131072, fmt := 6, state := .full })] }
    (s.bk.buf 0).fmt = 6 ∧ s.bk.readable 0 1 1 = true ∧ (q4BufScales (s.bk.buf 0).geo (s.bk.buf 0).size 1).isSome = true := by decide
theorem test_meets_spm_store : let s := lone [(6, 188)] (blkBuf .empty)
    s.ready {} [] [s.pre.op 9 1 false, s.pre.op 8 1] [] = true ∧ s.bk.writable 0 (Claims.spmOff s 9 6 0) 4 = true := by decide
theorem test_meets_bdecl : let s := lone [(6, 0xC000000000)]
    let n : Buf := { size := 192 }
    n = { offset := field (s.pre.sreg 6) 31 0, size := field (s.pre.sreg 6) 63 32, fmt := field (s.pre.sreg 7) 7 0
          geo := field (s.pre.sreg 7) 15 8, flags := field (s.pre.sreg 7) 31 16, key := field (s.pre.sreg 7) 47 32 } ∧
    n.entryOk s.bk.spmb (s.feature 3) = true ∧ (s.bk.buf 0).decl = false ∧ s.cur.lanes = s.pre.live ∧
    (List.range 64).all (fun i => !(s.bk.buf i).decl) = true := by decide
theorem test_meets_bset : let s := lone [] (blkBuf .empty)
    (s.bk.buf 0).decl = true ∧ (s.bk.buf 0).heldN = 0 ∧ (s.bk.buf 0).state = .empty ∧ field (s.pre.sreg 0) 5 0 = 0 := by decide
theorem test_meets_bset_full : ((lone [] (blkBuf .full)).bk.buf 0).state = .full := by decide
theorem test_meets_bwait : let s := lone [] (blkBuf .full)
    s.guardKnown {} = true ∧ s.cur.held &&& s.cur.lanes = s.cur.held ∧ s.parkFault 0 0 0 = none := by decide

/-! Order and synchronisation -/

theorem test_meets_fence : lone.guardKnown {} = true ∧ lone.unanswered = false ∧ (lone.writes.map (·.id)).Nodup ∧
    lone.releasedLane 0 5 = true ∧ covers 5 0 = true := by decide
theorem test_meets_fence_tx : let s := { lone with wv := { lone.wv with tx := [(0, some ⟨28, 7, 0, [], [], [], [], false, []⟩)] } }
    (s.wv.txOf 0).isSome = true := by decide
theorem test_meets_barrier_first : let s := { lone with bk := { lone.bk with waves := [lone.wv, lone.wv] } }
    s.mayArrive 0 = true ∧ s.wv.arv.get 0 0 = 0 ∧ s.wv.waiting = .none ∧ s.bk.barArrived.length + 1 <
      ((List.range s.bk.waves.length).filter (fun i => !(s.wave s.cur.uid i).ended)).length ∧ s.pre.sreg 0 = 0 := by decide
theorem test_meets_barrier_last : lone.mayArrive 0 = true ∧
    ((List.range lone.bk.waves.length).filter (fun i => !(lone.wave lone.cur.uid i).ended)).length ≤ lone.bk.barArrived.length + 1 ∧
    lone.cur.wid < lone.bk.waves.length ∧ lone.curLaunch.rcd.det = false := by decide
theorem test_meets_barrier_wait : let w : Wave := { lone.wv with arv := [(0, 1)] }
    w.arv.get 0 0 = 0 + 1 ∧ w.waiting ≠ .released 0 ∧ ({ lone.bk with barPhase := 1 } : Block).barPhase ≠ 0 := by decide
theorem test_meets_barrier_released : ({ lone.wv with waiting := .released 0 } : Wave).arv.get 0 0 = 0 := by decide

/-- The lone thread with a semaphore, an engine context of a type, and its die named. -/
def named (t : Nat) (rs : Tab W64 := []) (b : Block := blk) : State :=
  { (lone rs b).setReg (partCtl 0 8) 0x80 with ctxWords := [(stAddr 2 0 0, 0xB000000000000000), (stAddr 3 0 0, BitVec.ofNat 64 (2 ^ 63 + t * 2 ^ 60))] }

theorem test_meets_semaphore : (named 0).semNamed 0 61 = some (0, false) ∧ (named 0).semNamed 0 60 = some (0, false) ∧
    ((named 0).pre.sreg 0).toNat < 2 ^ 32 ∧ (named 0).releasedLane 0 3 = true ∧ ((named 0).sem 0).waits = [] ∧
    (named 0).cur.lanes = (named 0).pre.live := by decide
theorem test_meets_semaphore_grant : let w : Wave := { wave with waiting := .semaphore 0 1 false false }
    let s : State := { named 0 [(6, 1)] with sems := [(0, { waits := [(3, 0, 1)] })], blocks := [(3, { blk with waves := [w] })] }
    (s.sem 0).waits = [(3, 0, 1)] ∧ 1 ≤ (s.sem 0).value + (s.pre.sreg 6).toNat ∧ (s.wave 3 0).waiting = .semaphore 0 1 false false ∧
    0 < (s.block 3).waves.length ∧ 3 ≠ s.cur.uid := by decide
theorem test_meets_semaphore_wait : let s := named 0 [(6, 0xFFFFFFFF)]
    s.wv.waiting = .none ∧ (s.pre.sreg 6).toNat ≠ 0 ∧ (s.pre.sreg 6).toNat < 2 ^ 32 ∧ s.cur.on = true := by decide
theorem test_meets_timeline : ((named 0).engEntry 0 0).isSome = true ∧ 0 ≤ ((named 0).engAt 0 0).timeline ∧ (named 0).guardKnown {} = true := by
  decide
theorem test_meets_tx_begin : predsKnown lone.pre (lone.performers {}) [2] = true ∧ tsDepth (lone.wv.tstatOf 0) < 255 ∧
    tsDepth (lone.wv.tstatOf 0) ≠ 1 := by decide
theorem test_meets_tx_validate : let w : Wave := { lone.wv with tstat := [(0, 0x101)], tx := [(0, some ⟨28, 7, 0, [], [], [], [], false, []⟩)] }
    let s := { lone with wv := w }
    s.performers {} = BitVec.ofNat 48 (2 ^ 0) ∧ s.cur.lanes = s.performers {} ∧ (s.wv.txOf 0).isSome = true ∧ s.tokenCheck = none ∧
    s.unanswered = false ∧ s.wv.stopped = false ∧ s.wv.skidding = false ∧ tsDepth (s.wv.tstatOf 0) = 1 := by decide

/-! Work lists, inboxes and the matrix unit -/

/-- The lone thread in a block of a queue whose work-list area has 2^4 places, on a core that its partition holds. -/
def listed : State :=
  { lone with
    bk := { lone.bk with kind := .queue }
    maint := (lone.setReg (tileReg 0 0) 0x0100000000000000).maint.set (queueReg 0 0 0 0x30) 4 0
    pslots := [(0, 1)] }

theorem test_meets_work_list : listed.wv.freeSlot = some 0 ∧ listed.performers {} ≠ 0 ∧ listed.unanswered = false ∧ listed.areaCheck = none ∧
    listed.tokenCheck = none ∧ listed.ready {} [] [listed.pre.op 8 2, listed.pre.op 10 1] [2] = true ∧
    listed.ready {} [listed.pre.op 8 3] [] [] = true ∧ (listed.pre.src 10 0).toNat = 0 := by decide
theorem test_meets_work_list_core : 0 < (listed.tilesOf 0 0).length :=
  List.length_pos_of_mem (List.mem_filter.mpr ⟨(by decide : 0 ∈ List.range 144), by decide⟩)
theorem test_meets_work_list_empty : listed.curLaunch.lists.get (listed.vcidAt 0 0 0) [] = [] := by decide
theorem test_meets_inbox : let s := { listed with ctxWords := [(stAddr 4 0 0, 3)] }
    s.capHere 0 = 3 ∧ s.inbox (s.inboxHere 0) = [] ∧ s.amWaits = [] := by decide
theorem test_meets_inbox_message : let s := { listed with ctxWords := [(stAddr 4 0 0, 3)], inboxes := [(0, [⟨1, 2, 3, 0, []⟩])] }
    s.inbox (s.inboxHere 0) = [⟨1, 2, 3, 0, []⟩] ∧ s.performers {} = BitVec.ofNat 48 (2 ^ 0) := by decide

/-- Forty-eight live threads in a block of one plain buffer of 192 bytes. -/
def full48 (st : BufSt) (rs : Tab W64 := []) : State :=
  let w : Wave := { wave with sregs := rs }
  { issue w with bk := { blkBuf st with waves := [w] } }

theorem test_meets_matrix : (full48 .full).cur.lanes = (full48 .full).pre.live ∧ (full48 .full).mqRoom = true ∧ (7 : BitVec 3).toNat < (full48 .full).pre.accN ∧
    inBounds (full48 .full).pre [(full48 .full).pre.op 8 5, (full48 .full).pre.op 43 5 true] = true ∧
    (∀ L < 48, ((full48 .full).pre.op 8 5).full (full48 .full).pre L = true ∧ ((full48 .full).pre.op 43 5 true).full (full48 .full).pre L = true) := by
  decide
theorem test_meets_mld : Claims.engReadable (full48 .full).bk 0 0 (47 * 0 + 192) 4 ∧ ((full48 .full).bk.buf 0).fmt = 0 ∧
    ((full48 .full).pre.sreg 0).toNat % 4 = 0 := by unfold Claims.engReadable; decide
theorem test_meets_mst_reg : inBounds (full48 .full).pre [(full48 .full).pre.op 0 48] = true ∧ (full48 .full).wv.freeSlot = some 0 ∧
    (∀ L ∈ lanesOf (full48 .full).pre.live, ((full48 .full).pre.op 0 48).free (full48 .full).pre L = true) := by decide
theorem test_meets_mst_buf : let s := full48 .empty [(6, 0x400000000)]
    field (s.pre.sreg 6) 63 37 = 0 ∧ field (s.pre.sreg 6) 35 32 = 4 ∧ field (s.pre.sreg 6) 31 0 % elemSize 4 = 0 ∧
    (s.bk.buf 0).decl = true ∧ 0 + (47 * 0 + 48 * elemSize 4) ≤ (s.bk.buf 0).size ∧ (s.bk.buf 0).state = .empty ∧ (s.bk.buf 0).fmt = 0 := by decide
theorem test_meets_mwait : (full48 .full).mq (full48 .full).myQueue = [] ∧ (full48 .full).wv.slots = [] := by decide

/-- Both operands of a stream from buffer 0, format 5, their strides 0: one step. -/
def streaming : State := full48 .full [(20, 0x65500)]

/-- What `mloop` does there. -/
def loopForm : StreamForm := mloopForm (fun i => streaming.pre.sreg (BitVec.ofNat 6 i)) (streaming.pre.sreg 20)

theorem test_meets_mloop : streaming.cur.lanes = streaming.pre.live ∧ (7 : BitVec 3).toNat < streaming.pre.accN ∧
    field (streaming.pre.sreg 20) 63 19 = 0 ∧ streaming.starts = [] ∧ streaming.baseCheck loopForm.a = none ∧ streaming.baseCheck loopForm.b = none := by
  decide
theorem test_meets_mloop_checks : (loopForm.checks streaming (streaming.withFmt loopForm.a loopForm.fa) (streaming.withFmt loopForm.b loopForm.fb)).all
    Option.isNone = true := by decide +kernel

/-- A 1 x 1 convolution of 16 channels, format 5, input and weights in the buffer of the record. -/
def shape : Shape192 :=
  ⟨[1, 0, 0, 0, 16, 0, 0, 0, 1, 0, 0, 0, 1, 0, 0, 0] ++ [1, 1, 1, 1, 1, 1, 0, 0, 0, 0, 0, 0, 5, 5, 3, 0] ++ [0, 0, 0, 0, 1] ++ List.replicate 155 0⟩

/-- The record in the buffer of a wave whose scalar registers are zero. -/
def shaping : State := { full48 .full with bk := { (full48 .full).bk with spm := shape.bytes.zipIdx.map fun (e : Byte × Nat) => (e.2, e.1) } }

theorem test_meets_mconv : shaping.bk.bufBytes 0 0 192 = shape.bytes ∧ shape.badFields = [] ∧ 1 ≤ shape.out true ∧ 1 ≤ shape.out false ∧
    field (shaping.pre.sreg 20) 63 49 = 0 ∧ (shaping.bk.buf 0).state = .full ∧ 0 + 192 ≤ (shaping.bk.buf 0).size := by decide +kernel
theorem test_meets_mconv_checks : let f := shape.form 0 (bufBad 0)
    shaping.baseCheck f.a = none ∧ shaping.baseCheck f.b = none ∧
    (f.checks shaping (shaping.withFmt f.a f.fa) (shaping.withFmt f.b f.fb)).all Option.isNone = true := by decide +kernel

/-- A start phase of the wave at issue that has ended. -/
def phased : StartPhase :=
  { uid := 0, wid := 0, pc := 24, ops := some ({ isBuf := true, id := 0, base := 0, fmt := 5 }, { isBuf := true, id := 0, base := 0, fmt := 5 })
    checked := true, done := true }

theorem test_meets_stream_start : (full48 .full).ucopies = [] ∧ (full48 .full).ownStores = false ∧ (full48 .full).mqRoom = true ∧
    ([phased] : List StartPhase).find? (fun p => (p.uid == 0 && p.wid == 0) && p.pc == 24) = some phased := by decide

/-! ### Hypotheses of the statements over engine jobs and the fabric -/

/-- The lone thread with engine context 0 of type `t`, its context enabled, its core named; buffer 0, FULL, begins with `bs`, buffer 1 is idle; scalar
register 6 names its second 192 bytes. -/
def queueing (t : Nat) (bs : List Byte) (rs : Tab W64 := []) : State :=
  let b := { blk with
    spm := bs.zipIdx.map fun (e : Byte × Nat) => (e.2, e.1)
    bufs := [(0, { decl := true, size := 384, state := .full }), (1, { decl := true, offset := 384, size := 192, state := .full })] }
  let s := (lone ((6, 192) :: (7, 0x100000000) :: rs) b)
  { ((s.setReg (partCtl 0 8) 0x80).setReg (tileReg 0 0) 0x0100000000000000) with
    ctxWords := [(stAddr 0 0 0, 0x20000), (stAddr 3 0 0, BitVec.ofNat 64 (2 ^ 63 + t * 2 ^ 60))] }

/-- A descriptor: 8 bytes from memory at VA 0 to buffer 0, offset 256. -/
def copyBytes : List Byte := [0, 8, 8, 2, 255, 255, 8, 0] ++ List.replicate 8 0 ++ [0, 1, 0, 0, 0, 0, 0, 0, 1, 0, 1, 0, 1, 0] ++ List.replicate 18 0

theorem test_meets_kick : let s := queueing 0 copyBytes [(20, 0x100000000)]
    s.kickCheck 0 20 = none ∧ (s.bk.applyDescs [CopyDesc.ofBytes copyBytes]).isOk = true ∧ s.retries 0 0 = false ∧ s.unanswered = false ∧
    s.cur.lanes = s.pre.live := by decide +kernel
theorem test_meets_retry : ({ queueing 0 [] with ctxWords := [] } : State).retries 0 0 = true := by decide

/-- A chain of one operation over 8 FP32 elements in memory. -/
def chainBytes : List Byte := [1, 8, 8, 0, 255, 255, 0, 0, 8] ++ List.replicate 23 0 ++ [0x10] ++ List.replicate 15 0

theorem test_meets_vchain : let s := queueing 1 chainBytes
    Claims.ctlGood s (s.pre.sreg 0) .chain ∧ Claims.engReadable s.bk 0 0 48 48 ∧ chainBad (s.bk.bufBytes 0 0 48) 0 = none ∧
    s.bk.chainBufs (ChainDesc.ofBytes chainBytes).copy = none := by
  unfold Claims.ctlGood Claims.engReadable; decide +kernel

/-- A pair job of one particle on each side in memory, its accumulators in buffer 1. -/
def pairBytes : List Byte := [0, 0, 7, 0, 255, 255, 0, 0, 3, 0, 3, 0, 3, 0, 0, 0, 0, 0, 0, 0, 1, 0, 0, 0] ++
  [0, 0, 0x80, 0x3F, 0, 0, 0x80, 0x3F, 0, 0, 0x80, 0x3F] ++ [1, 0, 0, 0, 1, 0, 0, 0, 0, 0, 0, 0, 1] ++ List.replicate 51 0 ++ [1] ++ List.replicate 91 0

theorem test_meets_pair : let s := queueing 2 pairBytes
    Claims.ctlGood s (s.pre.sreg 0) .pair ∧ s.boundQuad 0 0 0 = some (quadOf 0 0) ∧ Claims.engReadable s.bk 0 0 192 48 ∧
    pairBad (s.bk.bufBytes 0 0 192) 0 = none ∧ s.bk.pairBufs (PairRec.ofBytes pairBytes) = none ∧ (s.pairQueue 0).length < 16 := by
  unfold Claims.ctlGood Claims.engReadable; decide +kernel
theorem test_meets_tlbinv : let s0 := (queueing 4 []).setReg (ctxOwnReg 0) 0x8000000000000000
    let s := { s0 with bk := { s0.bk with level := .s } }
    1 ≤ s.bk.level.code ∧ s.engEntry 0 0 = some 4 ∧ s.ownCtx 0 = true ∧ (s.ctxPid 0).isSome = true ∧ (s.pre.sreg 0).toNat < 2 ^ 56 := by decide

/-- The job of that record, suspended; its resume record asks for no shift. -/
def suspended : Job :=
  { ctxn := 0, handle := 0, num := 1, work := .pair (PairRec.ofBytes pairBytes) (some ⟨0, 0, 0, 0, 0, 0⟩), phase := .suspended, scope := 3, uid := 3
    wid := 0, pid := 0, die := 0, tile := 0, level := .s, det := false }
theorem test_meets_pair_resume : let s := { queueing 2 [0, 0, 0, 0, 0, 0, 0, 0, 1] with jobs := [suspended] }
    Claims.ctlGood s (s.pre.sreg 0) .pair ∧ Claims.engReadable s.bk 0 0 48 48 ∧ s.resumeBad 0 0 (s.bk.bufBytes 0 0 48) = none ∧
    (s.suspendedJob 0 0).map (·.1) = some suspended ∧ recAt (s.bk.bufBytes 0 0 48) 8 8 = 1 ∧ recAt (s.bk.bufBytes 0 0 48) 0 1 = 0 := by
  unfold Claims.ctlGood Claims.engReadable; decide +kernel
theorem test_meets_pair_resume_end : let s := { queueing 2 [1, 0, 0, 0, 0, 0, 0, 0, 1] with jobs := [suspended] }
    s.resumeBad 0 0 (s.bk.bufBytes 0 0 48) = none ∧ recAt (s.bk.bufBytes 0 0 48) 0 1 = 1 ∧
    (queueing 2 [1] : State).suspendedJob 0 0 = none := by decide +kernel

/-- Route 0 of the partition with one member, this core, in a state. -/
def routed (st : RouteSt) : State := { queueing 3 [] [(20, 0x100000000)] with routes := [(0, { state := st, members := [(0, 0, 0)] })] }

theorem test_meets_csend : ∀ st ∈ [RouteSt.ready, .failed], let s := routed st
    s.fabCtl .csend (s.pre.sreg 20) = none ∧ s.fabCtl .cred (s.pre.sreg 20) = none ∧ s.bk.fabBufs (some 0) none 1 = none ∧
    s.bk.fabBufs (some 0) (some (2 ^ 32)) 1 = none ∧ s.retries 0 0 = false ∧
    (s.bk.applyDesc (fabDesc (some 0) none 1)).isOk = true ∧ (s.bk.applyDesc (fabDesc (some 0) (some (2 ^ 32)) 1)).isOk = true ∧
    s.job 0 0 1 = none ∧ s.writes = [] ∧ s.fab = [] := by decide +kernel
theorem test_meets_csend_members : let s := { routed .ready with routes := [(0, { state := .ready, members := [(0, 0, 0), (0, 0, 1)] })] }
    s.fabCtl .csend (s.pre.sreg 20) = none ∧ s.fabCtl .cred (s.pre.sreg 20) = none ∧ (s.route 0 0).members.length ≠ 1 := by decide +kernel
theorem test_meets_crecv : let s := routed .ready
    s.fabCtl .crecv (s.pre.sreg 20) = none ∧ s.bk.fabBufs none (some (2 ^ 32)) 1 = none ∧ (s.bk.applyDesc (fabDesc none (some (2 ^ 32)) 1)).isOk = true ∧
    inBounds s.pre [s.pre.op 8 1] = true ∧ (s.pre.op 8 1).free s.pre 0 = true ∧ s.wv.freeSlot = some 0 := by decide +kernel
theorem test_meets_amsend : let s := routed .ready
    inBounds s.pre [s.pre.op 8 3] = true ∧ (s.pre.op 8 3).full s.pre 0 = true ∧ field (s.pre.sreg 20) 63 60 = 0 ∧ field (s.pre.sreg 20) 31 19 = 0 ∧
    s.engEntry 0 0 = some 3 ∧ s.retries 0 0 = false ∧ (lanesOf s.pre.live).filter (fun L => (s.pre.vreg 10 L).getLsbD 31) = [] := by decide
theorem test_meets_amsend_message : let w : Wave := { (routed .ready).pre with v := [(10 * 48, 0x80000000)] }
    (lanesOf w.live).filter (fun L => (w.vreg 10 L).getLsbD 31) = [0] ∧ (w.vreg 10 0).toNat / 2 ^ 14 % 2 ^ 17 = 0 := by decide

/-! ### Hypotheses of the statements over launches, services and the supervisor -/

/-- The walk cache's translation of VA 0. -/
def cached : TlbE := { fetchTlb with quarter := none }

/-- The lone thread in a context with queue 0 of slot 0 enabled for `lnch`, of 2^`log` places, its area mapped. -/
def launching (log tail : Nat) : State :=
  let s := queueing 0 []
  { ((s.setReg (queueReg 0 0 0 0) (BitVec.ofNat 64 (3 + log * 2 ^ 12))).setReg (queueReg 0 0 0 0x18) (BitVec.ofNat 64 tail)) with
    pslots := [(0, 1)], tlb := [cached] }

theorem test_meets_lnch : let s := launching 1 1
    let r : QRef := ⟨0, 0, 0⟩
    s.unanswered = false ∧ s.ucopies = [] ∧ s.lnchQueue (s.pre.sreg 0) = some r ∧ Claims.engReadable s.bk 0 0 192 48 ∧ s.allReleased 0 = true ∧
    s.slotLocked r = false ∧ s.retries 0 0 = false ∧ s.qcount r = 1 ∧ s.qcount r ≠ 2 ^ s.qlog2n r ∧
    s.slotParts r = some [(0, cached), (64, cached), (128, cached)] ∧ isHbm (cached.pa (s.slotVa r (s.qtail r) + 128)) = true ∧
    [0, 64, 128].Pairwise (fun p q => cached.pa (192 + p) + 64 ≤ cached.pa (192 + q) ∨ cached.pa (192 + q) + 64 ≤ cached.pa (192 + p)) := by
  unfold Claims.engReadable; decide +kernel
theorem test_meets_lnch_full : (launching 1 2).qcount ⟨0, 0, 0⟩ = 2 ^ (launching 1 2).qlog2n ⟨0, 0, 0⟩ := by decide
theorem test_meets_lnch_unmapped : ({ launching 1 1 with tlb := [] } : State).slotParts ⟨0, 0, 0⟩ = none ∧
    ({ launching 1 1 with tlb := [] } : State).slotLocked ⟨0, 0, 0⟩ = false := by decide +kernel
theorem test_meets_estat : (queueing 2 []).cur.lanes = (queueing 2 []).pre.live ∧ ((queueing 2 []).engEntry 0 0).isSome = true := by decide

/-- The lone thread on a die with a drone, of context 1 on core 5, whose batch area has two slots at VA 0. -/
def served : State :=
  { ((lone.setReg (partReg 0 0 0x18) 0x8000000100000005).setReg (partReg 0 0 0x28) 2) with
    pslots := [(0, 1)], tlb := [{ cached with ctxn := 1 }] }

theorem test_meets_svc : served.ready {} [served.pre.op 8 2] [served.pre.op 12 4] [] = true ∧ served.performers {} ≠ 0 ∧
    served.wv.freeSlot = some 0 ∧ served.drone 0 0 = some (1, 5) ∧ served.freeBatch 0 0 = some 0 ∧
    served.dieXlat 0 1 0 (served.batchVa 0 0 0) = some { cached with ctxn := 1 } ∧ isHbm 0 = true ∧ served.ucopies = [] ∧ served.lockOf 0 = none ∧ served.amWaits = [] := by
  decide
theorem test_meets_wake : let q : Batch := ⟨0, 0, 0, 3, 0, 0, 0, 0, 1⟩
    let s := { served with
      bk := { served.bk with level := .s }, batches := [q]
      blocks := [(3, { blk with uid := 3, waves := [{ wave with slots := [(0, { kind := .svc, lanes := 1, reqs := [{ lane := 0 }] })] }] })] }
    s.cur.lanes = s.pre.live ∧ 1 ≤ s.bk.level.code ∧ s.unanswered = false ∧ s.batchAt 0 = some q ∧ s.allReleased 2 = true ∧ s.ctxGen 0 = q.gen ∧
    (s.block 3).waves.length > 0 ∧ (s.block 3).uid = 3 ∧ (s.block 3).resident = true ∧ (∀ L ∈ lanesOf q.lanes, (s.replyWords q 0 L).isSome = true) := by decide

/-- A supervisor whose context's partition holds context 0, and block 3 of it, in a state. -/
def supervising (b : Block) (rs : Tab W64 := []) : State :=
  { (named 0 rs { blk with level := .s }).setReg (ctxOwnReg 0) 0x8000000000000000 with blocks := [(3, { b with uid := 3 })] }

theorem test_meets_resume : ∀ b ∈ [{ blk with state := .halted }, { blk with state := .halted, resident := false }, { blk with state := .sealedImg }],
    let s := supervising b
    Claims.names s 0 3 ∧ 3 ≠ s.cur.uid ∧ s.allReleased 3 = true ∧ s.block 3 = { b with uid := 3 } ∧ b.waves.length ≤ 32 ∧ s.cur.wid < 32 ∧ (∀ w ∈ b.waves, w.dbgpend < 0x80) ∧ s.bk.barArrived = [] ∧
    s.cur.lanes = s.pre.live ∧ s.unanswered = false := by
  unfold Claims.names; decide
theorem test_meets_halt : let s := supervising { blk with state := .swapped }
    s.wv.waiting = .none ∧ Claims.names s 0 3 ∧ s.satHeld 3 = false := by unfold Claims.names; decide
theorem test_meets_wait_over : ({ lone.wv with waiting := .targetDone } : Wave).waiting = .targetDone := by decide
theorem test_meets_idle : let s := supervising blk [(6, 9)]
    1 ≤ s.bk.level.code ∧ s.wv.waiting = .none ∧ s.anyInbox = false ∧ s.time < (s.pre.sreg 6).toNat ∧ (s.pre.sreg 0).toNat ≤ s.time := by decide
theorem test_meets_rtwr : let s0 := queueing 0 [0, 0, 1]
    let s := { s0 with bk := { s0.bk with level := .s } }
    leNat (s.bk.bufBytes 0 2 2) = 1 ∧ Claims.engReadable s.bk 0 0 48 48 ∧ Claims.engReadable s.bk 0 0 (48 + 8 * 1) 48 ∧ s.chanterHalted = false := by
  unfold Claims.engReadable; decide
theorem test_meets_ctxrd : let s := supervising { blk with state := .halted } [(6, 0x10000000000)]
    Claims.names s (s.pre.sreg 0) 3 ∧ s.bk.level ≠ .m ∧ field (s.pre.sreg 6) 63 48 = 0 ∧ field (s.pre.sreg 6) 39 32 = 0 ∧
    field (s.pre.sreg 6) 47 40 = 1 ∧ ((s.block 3).partSize 1).any (fun k => decide (8 ≤ k)) = true ∧ ((s.block 3).partSize 0).isSome = true ∧
    (s.block 3).state = .halted ∧ (s.block 3).fillsAtomic 1 0 0 = false ∧ s.imageBad 0 (s.pre.sreg 6) = none ∧ (s.block 3).uid = 3 ∧ (s.block 3).resident = true ∧
    (s.block 3).lineOf 1 0 = none := by unfold Claims.names; decide +kernel
theorem test_meets_psrd : let s := supervising blk
    indexOk 3 1023 = true ∧ indexOk 0 0 = true ∧ indexOk 5 4 = true ∧ s.ownCtx 0 = true ∧
    (0x40000 : W64) &&& BitVec.ofNat 64 (reservedMask 0 0 0x40000) = 0 ∧ s.wordOk 0 0 0 0 = true ∧ s.wordOk 4 0 15 0x1000 = true ∧
    s.allReleased 2 = true ∧ s.tearing.contains 0 = false := by decide
theorem test_meets_route_members : ∀ e ∈ ([(0, 0, 0), (0, 0, 1)] : List (Nat × Nat × Nat)).zipIdx, e.2 = 0 ∨ e.1.1 < 2 := by decide

/-! Faults, aborts and other clauses -/

/-- The address that the lone thread names with v9 and s0 has its base here. -/
def based (va : Nat) : State := lone [(6, BitVec.ofNat 64 va)]

theorem test_meets_lowest : lone.wv.skidding = false ∧ lone.cur.chained = false ∧ lone.guardKnown {} = true ∧
    (lanesOf (lone.performers {})).head? = some 0 := by decide
theorem test_meets_reg_bounds : let s := issue { wave with index := [(0, 46)] }
    s.pre.vregs ≤ (s.pre.op 50 1).reg ∧ (∀ p ∈ [s.pre.op 50 1, s.pre.op 1 1, s.pre.op 2 1], s.pre.vregs ≤ p.reg → p.reg = 48) := by decide
theorem test_meets_reg_empty : let s := issue { wave with empty := [(4, 1)] }
    inBounds s.pre [s.pre.op 3 1, s.pre.op 4 1 true, s.pre.op 5 1] = true ∧ s.pre.isEmpty (s.pre.vnum 4) 0 = true ∧
    s.pre.marked (s.pre.vnum 4) 0 = none ∧ (s.pre.op 5 1).full s.pre 0 = true := by decide
theorem test_meets_uniformity : let s := issue { wave with preds := [(2, 1)] }
    s.pre.pred 2 &&& s.pre.live ≠ 0 ∧ s.pre.pred 2 &&& s.pre.live ≠ s.pre.live ∧ s.wv.txOf 47 = none := by decide
theorem test_meets_index_bounds : let s := issue { wave with sregs := [(5, 1024)] }
    1024 ≤ (s.pre.sreg 5).toNat ∧ lanesOf s.pre.live = 0 :: (lanesOf s.pre.live).tail ∧
    ({ s with bk := { s.bk with level := .u } } : State).bk.level = .u := by decide
theorem test_meets_no_members : masked.members wave = 0 := by decide

/-- A fault of an access, by its cause; none where it is performed. -/
def faultOf (s : State) (k : AccKind) (va n : Nat) : Option Cause :=
  match s.access s.who k va n with
  | .fault c => some c
  | _ => none
/-- The translation of an address. -/
def places (s : State) (k : AccKind) (va : Nat) : Bool := match s.translate s.who k va with
  | .ok x => !x.maint
  | _ => false

theorem test_meets_access_faults : 2 ^ 56 < (2 ^ 56 - 2) + 4 ∧ faultOf lone .store (2 ^ 56 - 4) 4 = some .pageFault ∧
    places (lone [] blk 0x1000000000073) .load 0 = true ∧ leafKey 0x1000000000073 ≠ 0 ∧ places (lone [] blk 0x1073) .store 0 = true ∧
    leafKey 0x1073 = 0 ∧ leafFmt 0x1073 ≠ 0 ∧ places lone .dec 0 = true ∧ leafFmt 0x73 = 0 ∧ places lone .rawLoad 2 = true ∧ 2 % 4 ≠ 0 := by decide
theorem test_meets_acquire (pa n : Nat) : Claims.noLine lone pa n := fun _ _ => rfl

theorem test_meets_spm_clean : let s := lone [(6, 188)] (blkBuf .full)
    s.spmMarked 0 0 (Claims.spmOff s 9 6 0) = false ∧ s.bk.spmMarks = [] := by decide
theorem test_meets_spm_empty : let s := lone [(6, 188)] (blkBuf .empty)
    (s.bk.buf 0).decl = true ∧ (s.bk.buf 0).state = .empty ∧ Claims.spmOff s 9 6 0 + 4 ≤ (s.bk.buf 0).size ∧ Claims.spmOff s 9 6 0 % 4 = 0 := by decide
theorem test_meets_spm_filling : ∀ st ∈ [BufSt.filling, .draining], let s := lone [(6, 188)] (blkBuf st)
    ((s.bk.buf 0).state = .filling ∨ (s.bk.buf 0).state = .draining) ∧ Claims.spmOff s 9 6 0 + 4 ≤ (s.bk.buf 0).size := by decide
theorem test_meets_spm_draining : let s := lone [(6, 188)] (blkBuf .draining)
    s.bk.readable 0 (Claims.spmOff s 9 6 0) 4 = true := by decide
theorem test_meets_buffer_refused : ((lone [] (blkBuf .filling)).bk.buf 0).state = .filling ∧ ((lone [] blk).bk.buf 0).decl = false ∧
    ((lone [] (blkBuf .full)).bk.buf 0).state ≠ .empty ∧ lanesOf (lone [] blk).pre.live = [0] := by decide

/-- The lone thread in a transaction that has read and written sectors. -/
def within (r w : List Nat) : State := { lone with wv := { lone.wv with tstat := [(0, 0x101)], tx := [(0, some ⟨28, 7, 0, r, [], w, [], false, []⟩)] } }

theorem test_meets_tx_load : let s := within [] []
    s.ready {} [s.pre.op 8 2] [s.pre.op 9 1] [] = true ∧ s.wv.freeSlot.isSome = true ∧ (s.wv.txOf 0).isSome = true ∧ s.wv.atomicPending 0 = false ∧
    s.unanswered = false ∧ finds s .load 0 8 = true ∧ finds s .rawLoad 0 4 = true ∧ isHbm 0 = true ∧ leafFmt 0x73 ≠ 6 := by decide
theorem test_meets_tx_store : let s := within [] []
    s.ready {} [] [s.pre.op 9 1, s.pre.op 8 2] [] = true ∧ finds s .store 0 8 = true ∧ s.ready {} [s.pre.op 8 4] [s.pre.op 9 1, s.pre.op 8 4] [] = true := by
  decide
theorem test_meets_tx_full : sectorOf 0 ∉ (List.range 16).map (· + 1) ∧ 16 ≤ ((List.range 16).map (· + 1)).length ∧
    ((within ((List.range 16).map (· + 1)) []).wv.txOf 0).map (·.reads.length) = some 16 ∧ sectorOf 0 ∉ (List.range 8).map (· + 1) ∧
    8 ≤ ((List.range 8).map (· + 1)).length := by decide
theorem test_meets_tx_deep : let s := { lone with wv := { lone.wv with tstat := [(0, 0xFF01)] } }
    tsDepth (s.wv.tstatOf 0) = 255 := by decide
/-- Two threads that commit together, of which the second read what the first wrote. -/
def meeting : State :=
  let w : Wave := { wave with
    live := 3, tstat := [(0, 0x101), (1, 0x101)]
    tx := [(0, some ⟨28, 7, 0, [], [], [5], [], false, []⟩), (1, some ⟨28, 7, 0, [5], [], [], [], false, []⟩)] }
  { lone with wv := w, pre := w, cur := { lone.cur with lanes := 3 } }
theorem test_meets_tx_lanes : lanesOf (meeting.performers {}) = [0, 1] ∧ meeting.cur.lanes = meeting.performers {} ∧ meeting.tokenCheck = none ∧
    meeting.unanswered = false ∧ meeting.wv.stopped = false ∧ (∀ L ∈ [0, 1], tsDepth (meeting.wv.tstatOf L) = 1 ∧
      (meeting.wv.txOf L).map (·.validating) = some false) := by decide
theorem test_meets_unmarked : (queueing 0 copyBytes).bk.bufMarked 0 0 192 = false ∧ ((queueing 0 []).writes.map (·.id)).Nodup := by decide
theorem test_meets_stopped_wait : (wave.stopped, (named 0).cur.on, (named 0).bk.barArrived) = (false, true, []) := by decide

/-! ### Hypotheses of the statements over the steps of other agents -/

/-- No instruction issues; block 3 stands with one wave, the first stack is enabled. -/
def resting (w : Wave := wave) (b : Block := blk) : State :=
  { State.reset.setReg (hbmReg 0 8) 0x802 with blocks := [(3, { b with uid := 3, waves := [w] })] }

/-- A write of two bytes in flight. -/
def flight (pa level target : Nat) : PWrite := ⟨5, 0, 0, 3, 0, 0, pa, pa, 0, [1, 2], level, target, [], false, false, 0⟩

theorem test_meets_write_perform : ∀ w ∈ [flight 0 0 3, flight 0 2 3, flight 0x400000000000 3 4], let s := { resting with writes := [w] }
    s.writes.find? (fun x => x.id == 5) = some w ∧ s.mayRaise w = true ∧ s.ucopies = [] ∧ s.lockOf w.pa = none := by decide
theorem test_meets_write_levels : 0 + 1 < 3 ∧ 3 ≤ 2 + 1 ∧ resting.served 0 = true ∧
    ({ resting with maint := (List.range 24).map fun g => (edgeReg g 0, 0) } : State).served 0x400000000000 = false := by decide
theorem test_meets_write_locked : let s := { resting with locks := [⟨0, 0, 0, 0x20000⟩] }
    (s.lockOf 0).isSome = true := by decide
theorem test_meets_walk : let s := { resting.setReg (ctxOwnReg 0) 0x8000000000000000 with tlb := [cached], walks := [(0, 0, 0, 0)] }
    s.ctxPid 0 = some 0 ∧ s.walkRuns 0 0 0 0x1FFFF = true ∧ s.dieXlat 0 0 0 0x1FFFF = some cached ∧ s.dieXlat 0 0 0 0x20000 = none := by decide
theorem test_meets_packet_decode : let s := { resting with tlb := [fetchTlb] }
    s.mayIssue 3 0 = true ∧ laneIn (s.wave 3 0).live 47 = true ∧ s.packetStop ((s.block 3).who (s.wave 3 0)) 0 = none ∧
    s.packet ((s.block 3).who (s.wave 3 0)) 0 = .ok [0, 0, 0] ∧ (s.block 3).die ≠ 64 ∧ s.badRange 0 192 = false ∧
    s.codeLine ((s.block 3).who (s.wave 3 0)) 0 = none := ⟨by decide, by decide, by decide, rfl, by decide, by decide, by decide⟩
theorem test_meets_line_fill : (resting.block 3).standing = true ∧ 47 < (resting.wave 3 0).vregs ∧ 0 < (resting.block 3).waves.length ∧
    resting.rcache = [] ∧ (resting.wave 3 0).inImage = [] := by decide
theorem test_meets_line_evict : let s := { resting with rcache := (List.range 1024).map fun r => { quarter := resting.quarterOf 3 0, uid := 4, wid := r, reg := 0 } }
    let mine := s.rcache.filter (fun y => y.quarter == s.quarterOf 3 0)
    1024 ≤ mine.length ∧ (s.victim mine).isSome = true ∧ s.lineCached 3 0 0 = false := by decide +kernel

/-- The wave with one slot. -/
def slotted (x : Slot) : Wave := { wave with slots := [(0, x)] }

theorem test_meets_atomic_perform : let q : Req := { lane := 1, pa := 0, width := 4, aux := 0, opnd := [5], scope := 3 }
    let s := resting (slotted { kind := .atomic, reg := 2, lanes := 2, reqs := [q] })
    Claims.stands s 3 0 ∧ ((s.wave 3 0).slot 0).openAt 0 = [q] ∧ s.atomReady 3 0 q = true ∧ s.badRange 0 4 = false ∧ s.ucopies = [] := by
  unfold Claims.stands; decide
theorem test_meets_reply : let q : Req := { lane := 1, val := some [9] }
    let sl : Slot := { kind := .sfu, reg := 2, span := 1, lanes := 2, reqs := [q] }
    sl.reqs.find? (fun r => r.lane == 1) = some q ∧ (2 : Lanes) = BitVec.ofNat 48 (2 ^ 1) ∧ laneIn sl.lanes 1 = true ∧ sl.kind ≠ .load ∧
    q.err = false ∧ { q with err := true }.err = true ∧ (resting.block 3).uid = 3 ∧ (resting.block 3).resident = true := by decide
theorem test_meets_reply_load : let q : Req := { lane := 1, pa := 0, width := 4, aux := 4 }
    let s := resting (slotted { kind := .load, reg := 2, span := 1, lanes := 2, reqs := [q] })
    (∀ k < 4, (s.readByte (s.viewOf 3 0 1) 0 (0 + k)).bad = false) ∧ (s.wave 3 0).slots.all (fun x => decide (0 ≤ x.2.ord)) = true := by decide

/-- A transaction that read byte 0 and writes byte 1. -/
def opened : Tx := ⟨28, 7, 0, [0], [(0, 0)], [0], [(1, 8)], true, []⟩

theorem test_meets_commit : let s := resting { wave with tx := [(1, some opened)], tstat := [(1, 0x101)] }
    Claims.stands s 3 0 ∧ (s.wave 3 0).txOf 1 = some opened ∧ s.commitReady 3 0 1 opened = true ∧ s.lowerCommits 3 0 1 = false ∧ s.ucopies = [] ∧
    (∀ e ∈ opened.seen, s.homeByte e.1 = e.2) ∧ opened.data.Pairwise (fun a b => a.1 ≠ b.1) := by unfold Claims.stands; decide
theorem test_meets_conflict : ({ resting with mem := [(0, 1)] } : State).homeByte 0 ≠ 0 := by decide

/-- A launch with one item on its way, its queue's lists of 2 places. -/
def working (l : Launch) : State :=
  { resting.setReg (queueReg 0 0 0 0x30) 1 with pslots := [(0, 1)], launches := [(7, l)] }

theorem test_meets_wlput_answer : let x : WlItem := ⟨3, 0, 0, 1, 0, 99⟩
    let s := working { inFlight := [x] }
    (s.launch 7).inFlight[0]? = some x ∧ Claims.stands s 3 0 ∧ (s.launch 7).quiet = false ∧ (s.launch 7).itemWaits 0 x = false ∧
    s.released 3 0 1 2 = true ∧ s.depsOf (tkey 3 0 1) = [] ∧ (s.block 3).uid = 3 ∧ (s.block 3).resident = true ∧ ((s.launch 7).lists.get 0 []).length < 2 ^ s.listLog (s.launch 7) ∧ (s.launch 7).getters = [] := by
  unfold Claims.stands; decide
theorem test_meets_quiet : let g : WlReq := ⟨3, 0, 0, 1, 0⟩
    let s : State := { working { ownsArea := true, workers := [(3, 0)], getters := [g] } with
      blocks := [(3, { blk with waves := [{ wave with live := 2, wlgetBlocked := 2, slots := [(0, { kind := .wlget, lanes := 2, reqs := [{ lane := 1 }] })] }] })] }
    s.workerRests 3 0 = true ∧ Claims.stands s 3 0 ∧ (s.launch 7).lists = [] ∧ (s.launch 7).inFlight = [] ∧ (s.launch 7).workers ≠ [] := by
  unfold Claims.stands; decide
theorem test_meets_token : let s : State := { resting with
      launches := [(7, { rcd := { det := true, waves := 1, grid := 1 } })], blocks := [(3, { blk with launch := 7, waves := [wave] })] }
    leastId (s.tokens 7 1) = some 0 ∧ (s.launch 7).token ≠ some 0 ∧ (s.launch 7).rcd.det = true := by decide

/-- A message of job 1 of context 0, handle 0, to inbox 0 of core 0. -/
def mail : AmMsg := ⟨3, 0, 0, 0, 0, 0, 0, 0, 1, 2, 3, 0, [], 0, 0, 1, 1, 0, 0⟩
def mailJob : Job :=
  { ctxn := 0, handle := 0, num := 1, work := .amsend, scope := 3, uid := 3, wid := 0, pid := 0, die := 0, tile := 0, level := .u, det := false }
def mailed (cap : Nat) : State :=
  { ((resting.setReg (partCtl 0 8) 0x80).setReg (tileReg 0 0) 0x0100000000000000).setReg (ctxOwnReg 0) 0x8000000000000000 with
    ctxWords := [(stAddr 0 0 0, 0x20000), (stAddr 4 0 0, BitVec.ofNat 64 cap)], ams := [mail], jobs := [mailJob] }

theorem test_meets_arrival : (mailed 2).ams[0]? = some mail ∧ (mailed 2).depsDone mail.deps = true ∧ ((mailed 2).amDest mail).isSome = true ∧
    ((mailed 2).amDest mail).map (·.2) = some 2 ∧ ((mailed 2).inbox 0).length < 2 ∧ (mailed 2).amWaits = [] := by decide
theorem test_meets_arrival_fails : ((mailed 1).amDest mail).map (·.2) = some 1 ∧ 1 ≤ [(⟨1, 2, 3, 0, []⟩ : Msg)].length ∧
    (mailed 0).job 0 0 1 = some mailJob ∧ ({ mailed 1 with ctxWords := [] } : State).amDest mail = none := by decide
theorem test_meets_amsend_retire : let s := { mailed 0 with ams := [] }
    s.job 0 0 1 = some mailJob ∧ mailJob.work = .amsend ∧ s.ams = [] := by decide

/-- An instance of a one-member route: its only participant's combination of one word. -/
def fabbed (k : FabKind) (op len : Nat) : State :=
  { mailed 0 with
    routes := [(0, { state := .ready, members := [(0, 0, 0)] })], jobs := [{ mailJob with work := .fabric }]
    fab := [⟨0, 0, 0, 0, k, op, len, 3, 3, 0, some 0, some 0x100000000, 0, 0, 0, 1, fullMask, { decl := true, offset := 192, size := 192 }, [], 0⟩] }

theorem test_meets_instance : ∀ len ∈ [0, 1], let s := fabbed .cred 0 len
    (∀ m < (s.route 0 0).members.length, ∃ o ∈ s.instOps 0 0 0, o.member = m) ∧ s.instOps 0 0 0 ≠ [] ∧
    (∀ o ∈ s.instOps 0 0 0, s.depsDone o.deps = true) ∧ s.cur.on = false ∧
    (∀ o ∈ s.instOps 0 0 0, (s.job o.ctxn o.handle o.num).isSome = true ∧ o.wid < (s.block o.uid).waves.length) ∧
    (s.instOps 0 0 0).Pairwise (fun a b => a.uid ≠ b.uid ∧ a.ctxn * 1024 + a.handle ≠ b.ctxn * 1024 + b.handle) := by decide

theorem test_meets_instance_line : let s := fabbed .cred 0 1
    wellFormedInst (s.route 0 0) (s.instOps 0 0 0) = true ∧ (∃ o ∈ s.instOps 0 0 0, o.landed = false) ∧ (∀ o ∈ s.instOps 0 0 0, o.start % 4 = 0) := by
  decide
theorem test_meets_instance_landed : let s := { fabbed .cred 0 1 with fab := (fabbed .cred 0 1).fab.map fun (o : FabOp) => { o with got := 1 } }
    ∀ o ∈ s.instOps 0 0 0, o.landed = true := by decide

/-- The queue of quarter 0 with one operation of the wave. -/
def tiled (op : MOp) (x : Option (List W32) := none) : State := { resting with mqueue := [(0, [⟨3, 0, 1, op, [], x⟩])] }

theorem test_meets_matrix_op : ∀ op ∈ [MOp.zero, .load [[1]], .steps true 1 1 [([[1]], [[2]])], .storeReg 0, .storeBuf 0 0 96 1 false],
    (tiled op).mq 0 = [] ++ ⟨3, 0, 1, op, [], none⟩ :: [] ∧ Claims.stands (tiled op) 3 0 := by unfold Claims.stands; decide
theorem test_meets_mst_complete : let ws := List.replicate 2304 (0 : W32)
    (tiled (.storeBuf 0 0 96 1 false) (some ws)).mq 0 = [] ++ ⟨3, 0, 1, .storeBuf 0 0 96 1 false, [], some ws⟩ :: [] ∧ ws.length = 2304 ∧
    48 * elemSize 1 ≤ 96 := ⟨rfl, List.length_replicate, by decide⟩

/-! Jobs of the engines -/

/-- A job of block 3, with the block's buffer 0 of 192 bytes in a state, VA 0 mapped to the first granule, which its partition holds. -/
def jobbed (w : Work) (ph : JobPhase := .queued) (st : BufSt := .draining) : State :=
  let u : Buf := { decl := true, size := 192, state := st, outs := 1 }
  { (resting wave { blk with bufs := [(0, u)] }).setReg (partCtl 0 0x100) 1 with
    tlb := [cached], jobs := [{ mailJob with work := w, phase := ph, pins := if ph = .started then [cached] else [], dbuf := u }] }
def jobOf (s : State) : Job := s.jobs.headD mailJob

/-- Two FP32 elements of buffer 0 to VA 0, and back. -/
def outDesc : CopyDesc := ⟨0, 8, 8, 1, 2, 0, 0, 1, 1, 1, 0, 0, 0, 0⟩
def inDesc : CopyDesc := { outDesc with flags := 2 }

theorem test_meets_copy_start : let s := jobbed (.copy outDesc)
    s.job 0 0 1 = some (jobOf s) ∧ s.depsDone (jobOf s).deps = true ∧ (s.readIdx (jobOf s) outDesc).isSome = true ∧
    (s.copyStatus (jobOf s) outDesc).1 = 0 ∧ outDesc.op ≠ 2 := by decide +kernel
theorem test_meets_copy_start_fails : let s := { jobbed (.copy outDesc) with tlb := [] }
    (s.copyStatus (jobOf s) outDesc).1 ≠ 0 := by decide +kernel
theorem test_meets_copy_index : let d : CopyDesc := { outDesc with op := 1, flags := 5, idx := 0 }
    let s := jobbed (.copy d) .queued .empty
    (∃ e, s.readIdx (jobOf s) d = some (.error e)) := ⟨_, rfl⟩
theorem test_meets_copy_failed : let d : CopyDesc := { outDesc with flags := 0 }
    let j : Job := { mailJob with work := .copy d, phase := .started, status := 1 }
    ({ resting with jobs := [j] } : State).job 0 0 1 = some j ∧ j.status ≠ 0 ∧ j.moved = false ∧ d.sbuf = false ∧ d.dbuf = false := by decide
theorem test_meets_copy_out : let s := jobbed (.copy outDesc) .started
    outDesc.sbuf = true ∧ outDesc.dbuf = false ∧ 3 ≤ (jobOf s).scope ∧ s.ucopies = [] ∧ s.cur.on = false ∧ outDesc.total = 2 ∧ (jobOf s).moved = false ∧ s.writes = [] ∧
    (∀ i < 2, (jobOf s).pinned outDesc true 4 i = some (.mem (4 * i) cached) ∧ cached.pa (4 * i) = 4 * i ∧ leafKey cached.leaf = 0 ∧
      isHbm (4 * i) = true ∧ s.lands (4 * i) = true ∧ Claims.noLine s (4 * i) 4 ∧ s.engHeld (4 * i) 4 = false ∧ s.reservedAt (jobOf s) true (.mem (4 * i) cached) = false ∧
      (jobOf s).pinned outDesc false 4 i = some (.buf 0 (4 * i)) ∧ s.reservedAt (jobOf s) false (.buf 0 (4 * i)) = false) ∧
    (∀ i < 2, ∀ k < 2, i ≠ k → 4 * i + 4 ≤ 4 * k ∨ 4 * k + 4 ≤ 4 * i) ∧ (s.sideType (jobOf s) outDesc false).1 = 8 ∧
    (s.sideType (jobOf s) outDesc true).1 = 8 := by
  unfold Claims.noLine; decide +kernel
theorem test_meets_fill : let s := jobbed (.copy inDesc) .started .filling
    inDesc.dbuf = true ∧ inDesc.sbuf = false ∧ (jobOf s).arrived.contains 0 = false ∧ (jobOf s).dbuf.decl = true ∧ s.fillStale (jobOf s) 0 = false ∧
    (List.range inDesc.total).filter (fun i => inDesc.sectorOf (jobOf s) 4 i == 0) = [0, 1] ∧
    (∀ i < 2, (jobOf s).pinned inDesc false 4 i = some (.mem (4 * i) cached) ∧ (s.engBytes 0 (cached.pa (4 * i)) 4).2 = false ∧ Claims.noLine s (4 * i) 4 ∧
      s.reservedAt (jobOf s) false (.mem (4 * i) cached) = false ∧ s.reservedAt (jobOf s) true (.buf 0 (4 * i)) = false) := by
  unfold Claims.noLine; decide +kernel

/-- A chain from buffer 0 to VA 0. -/
def outChain : ChainDesc := ⟨[0x10], 8, 8, 1, 2, 0, 0, 0, 0⟩
theorem test_meets_chain : let s := jobbed (.chain outChain) .queued .full
    (jobOf s).work = .chain outChain ∧ s.chainSource (jobOf s) outChain.copy = none ∧ (s.chainStatus (jobOf s) outChain.copy).1 = 0 ∧ s.locks = [] ∧
    s.copyPins (jobOf s) outChain.copy = [cached] ∧ outChain.copy = outDesc ∧
    (∀ i < 2, ({ jobOf s with pins := [cached] } : Job).pinned outDesc true 4 i = some (.mem (4 * i) cached)) := by decide +kernel
theorem test_meets_chain_fails : let s := { jobbed (.chain outChain) .queued .full with tlb := [] }
    (s.chainStatus (jobOf s) outChain.copy).1 ≠ 0 := by decide +kernel

/-- A pair job of one particle on each side: particle sets at VA 0 and 16, cell lists at 1024 and 2048, accumulators in buffer 0. -/
def tiny : PairRec :=
  { PairRec.ofBytes pairBytes with fscale := 63, iset := 0, jset := 16, icell := 1024, jcell := 2048, table := 4096, iacc := 0 }
/-- Both lists hold their particle in cell 0; the particles' tags differ. -/
def pairState (ph : JobPhase) (m : List Host.Cell) : State :=
  { jobbed (.pair tiny none) ph .full with mem := m, pairEng := [(0, { coefs := [1] })] }

theorem test_meets_pair_start : let s := pairState .queued []
    s.pairPick 0 = some (jobOf s) ∧ s.pairBusy 0 = false ∧ s.pairLines (jobOf s) tiny = true ∧ (s.pairPages (jobOf s) tiny).2 = [] := by decide +kernel
theorem test_meets_pair_resumed : let s := { pairState .queued [] with jobs := [{ jobOf (pairState .queued []) with work := .pair tiny (some ⟨0, 0, 0, 0, 0, 0⟩) }] }
    s.pairPick 0 = some (jobOf s) ∧ s.pairBusy 0 = false ∧ s.pairLines (jobOf s) tiny = true ∧ s.depsDone (jobOf s).deps = true := by decide +kernel
theorem test_meets_pair_error : let s := { pairState .started [(28, 1), (1028, 1), (2052, 1)] with marks := [0] }
    (match (s.pairRun (jobOf s) tiny none).fin with
      | .error _ => true
      | _ => false) = true := by decide +kernel
theorem test_meets_pair_retire : let s := pairState .started []
    (jobOf s).status = 0 ∧ s.cur.on = false ∧ (s.pairRun (jobOf s) tiny none).fin = .going := by decide +kernel
theorem test_meets_pair_suspend : let s := pairState .started [(28, 1), (1028, 1), (2052, 1)]
    (s.pairRun (jobOf s) tiny none).fin = .sat ⟨0, 0, 13, 0, 3, 0⟩ ∧ s.qstate 0 = 0 ∧ (s.setReg (partCtl 0 0) 3).qstate 0 = 3 := by decide +kernel
/-- Without register lines nothing of an image stands in a register cache. -/
theorem clear_empty (s : State) (h : s.rcache = []) (pa n : Nat) : Claims.noLine s pa n := fun k _ => by simp [State.imageLineAt, h]
theorem test_meets_pair_clear (ph : JobPhase) (m : List Host.Cell) : Claims.pairClear (pairState ph m) (jobOf (pairState ph m)) tiny :=
  fun _ _ _ _ _ _ _ => clear_empty _ rfl _ _
theorem test_meets_pair_resetting : let s := { pairState .started [(28, 1), (1028, 1), (2052, 1)] with resetting := [0] }
    (s.pairRun (jobOf s) tiny none).fin = .sat ⟨0, 0, 13, 0, 3, 0⟩ ∧ s.resetting.contains (jobOf s).pid = true := by decide +kernel
theorem test_meets_tlbinv_start : let s := jobbed (.tlbinv 1 0 0)
    (jobOf s).work = .tlbinv 1 0 0 ∧ (jobOf s).phase = .queued ∧ s.depsDone (jobOf s).deps = true ∧ s.tlbDrops (jobOf s) cached = true := by decide
theorem test_meets_tlbinv_end : let s := { jobbed (.tlbinv 1 0 0) with jobs := [{ mailJob with work := .tlbinv 1 0 0, phase := .started, pins := [cached] }] }
    s.job 0 0 1 = some (jobOf s) ∧ s.tlbWaits (jobOf s) = false := by decide +kernel

/-! Blocks, queues and placement -/

/-- Block 3 with waves of the machine's own. -/
def manned (ws : List Wave) (b : Block := blk) : State := { State.reset with clk := 1000, blocks := [(3, { b with waves := ws })] }

theorem test_meets_swap : let s := manned (List.replicate 8 wave ++ [{ wave with active := false, readySince := some 5 }])
    (s.wave 3 0).active = true ∧ (s.wave 3 0).ended = false ∧
    8 - (s.activeOf (s.quarterOf 3 0)).length < (s.pendingOf (s.quarterOf 3 0)).length := by decide
theorem test_meets_swap_in : let s := manned [wave, { wave with active := false, readySince := some 5 }]
    s.longestReady (s.quarterOf 3 0) = some (3, 1) ∧ (s.activeOf (s.quarterOf 3 0)).length < 8 := by decide
theorem test_meets_forced_swap : let s := manned (List.replicate 8 wave ++ [{ wave with active := false, readySince := some 5 }])
    s.longestReady (s.quarterOf 3 0) = some (3, 8) ∧ (leastBy (fun e => (s.wave e.1 e.2).heldSince) (s.activeOf (s.quarterOf 3 0))).isSome = true ∧
    8 ≤ (s.activeOf (s.quarterOf 3 0)).length ∧ (s.wave 3 8).readySince.getD s.clk + 512 ≤ s.clk ∧ s.forcedAt.get (s.quarterOf 3 0) 0 = 0 := by
  decide
theorem test_meets_cause : let h : HeldCause := ⟨.access, 0, 7⟩
    let s := manned [wave] { blk with held := [⟨.dataError, 0, 1⟩, h] }
    (s.block 3).nextHeld = some h ∧ (s.block 3).state = .running ∧ (s.block 3).stopping = .no ∧ (s.block 3).resident = true ∧
    (s.wave 3 0).ended = false := by decide
theorem test_meets_cause_semaphore : let s := manned [{ wave with waiting := .semaphore 0 1 false false }] { blk with held := [⟨.access, 0, 7⟩] }
    (s.wave 3 0).waiting = .semaphore 0 1 false false ∧ (s.block 3).nextHeld = some ⟨.access, 0, 7⟩ := by decide
theorem test_meets_preempt : (manned [wave]).preemptible ((manned [wave]).block 3) = true ∧
    (let s := manned [wave] { blk with state := .halted }
    s.preemptible (s.block 3) = true ∧ s.satHeld 3 = false) := by decide
theorem test_meets_broadcast : let s := manned [wave, wave] { blk with stopping := .halt }
    (s.block 3).state = .running ∧ (s.block 3).stopping ≠ .no ∧ (s.block 3).broadcast = false ∧ (s.wave 3 1).maySkid = true := by decide
theorem test_meets_stopped : ∀ x ∈ [Stopping.trap, .halt, .preempt, .preemptHalt, .sealing, .kill],
    let s := manned [{ wave with stopped := true }] { blk with stopping := x, broadcast := true }
    s.isStopped 3 = true ∧ s.satHeld 3 = false := by decide
theorem test_meets_stopped_asked : let s0 := manned [{ wave with stopped := true }] { blk with stopping := .halt, broadcast := true }
    let s := { s0 with blocks := s0.blocks ++ [(4, { blk with waves := [{ wave with stopped := true, waiting := .target 3 true }] })] }
    s.isStopped 3 = true ∧ s.satHeld 3 = false ∧ (∃ u ∈ s.uids, ∃ w ∈ (s.block u).waves, w.stopped = true ∧ w.waiting = .target 3 true) := by decide
theorem test_meets_idle_time : let s := manned [{ wave with waiting := .idle 0 }]
    (s.wave 3 0).waiting = .idle 0 ∧ 0 ≤ s.time ∧ 0 < (s.block 3).waves.length := by decide

/-- The timers' limits at 1 of every unit; CUR 48. -/
def timed (b : Block) (w : Wave := wave) : State :=
  { manned [w] b with
    pslots := [(0, 1)], maint := [(0x10048, 0x30000000), (partReg 0 0 0, 0x10000), (partReg 0 0 8, 1), (partReg 0 0 0x10, 1)] }
theorem test_meets_timers : let s := timed { blk with repCount := 1, stall := 995 } { wave with extSince := some 5 }
    (s.block 3).stallCounts = true ∧ (s.block 3).wdFired = false ∧
    s.overLimit (s.block 3).stall (field (s.preg 0 0 8) 47 0) = true ∧ (s.wave 3 0).extSince = some 5 ∧ (s.wave 3 0).extFired = false ∧
    s.overLimit (s.clk - 5) (field (s.preg 0 0 0x10) 47 0) = true ∧ field (s.preg 0 0 0) 23 16 ≠ 0 ∧
    field (s.preg 0 0 0) 23 16 ≤ (s.block 3).repCount ∧ (s.block 3).repFired = false := by decide

/-- Partition 0 in state RUN with slot 0 of die 0, core 0 and context 0; queue 0 has QCTL `ctl`, TAIL `tail`, STATE `st`; its area and the drone's
record lie at VA 0. -/
def hosting (ctl tail st : Nat) (m : List Host.Cell := []) : State :=
  { State.reset with
    pslots := [(0, 1)]
    tlb := [cached]
    mem := m
    ctxWords := [(stAddr 0 0 0, 0x20000), (stAddr 0 0 2, 0x1000000)]
    maint := [(hbmReg 0 8, 0x802), (partCtl 0 0, 1), (partCtl 0 8, 0x80), (ctxOwnReg 0, 0x8000000000000000), (queueReg 0 0 0 0, BitVec.ofNat 64 ctl),
      (queueReg 0 0 0 0x18, BitVec.ofNat 64 tail), (queueReg 0 0 0 0x20, BitVec.ofNat 64 st), (partReg 0 0 0x18, 0x8000000000000000)] ++
      (List.range 144).map fun t => (tileReg 0 t, if t = 0 then 0x0100000000000924 else 0) }

theorem test_meets_qtail : let s := hosting 0x2001 0 0
    let r : QRef := ⟨0, 0, 0⟩
    Claims.slotOpen s .mep 0 0 ∧ Claims.plain (r.reg 0x18) .mep 4 ∧ s.qdev r = false ∧ ((4 : W64).toNat + 2 ^ 32 - s.qhead r) % 2 ^ 32 ≤ 2 ^ s.qlog2n r ∧
    ((4 : W64).toNat + 2 ^ 32 - s.qtail r) % 2 ^ 32 ≤ 2 ^ s.qlog2n r := by
  unfold Claims.slotOpen Claims.plain; decide +kernel
theorem test_meets_qctl : let r : QRef := ⟨0, 0, 0⟩
    Claims.plain (r.reg 0) .mep 0x2001 ∧ (hosting 0x2000 0 0).qctlOk r 0x2001 = true ∧ (hosting 0x2000 0 0).qen r = false ∧
    Claims.plain (r.reg 0) .mep 0x2000 ∧ (hosting 0x2001 0 1).qctlOk r 0x2000 = true ∧ (hosting 0x2001 0 1).qen r = true ∧
    Claims.plain (r.reg 0) .mep 0x2009 ∧ (hosting 0x2001 1 2).qctlOk r 0x2009 = true ∧ (hosting 0x2001 1 2).qctlOk r 0x2011 = true ∧
    (hosting 0x2001 1 2).qen r = true ∧ (hosting 0x2001 1 2).qstateOf r = 2 ∧ (hosting 0x2001 1 2).pidOfSlot 0 0 = some 0 := by unfold Claims.plain; decide +kernel

/-- A record of one block of one wave of 16 registers, its entry 0 and its trap table at 192. -/
def record : List Host.Cell := [(0x10, 1), (0x14, 1), (0x16, 16), (0x48, 0xC0)]
def recordBytes : List Byte := (List.range 192).map fun i => Tab.get record i 0

theorem test_meets_take : let s := hosting 0x2001 1 1 record
    s.pidOfSlot 0 0 = some 0 ∧ s.mayTake 0 ⟨0, 0, 0⟩ = true ∧ s.ctxBytes 0 0 0 .u (s.slotVa ⟨0, 0, 0⟩ 0) 192 = some recordBytes ∧
    s.qctxn ⟨0, 0, 0⟩ = 0 ∧ s.qlevel ⟨0, 0, 0⟩ = .u := by decide +kernel
theorem test_meets_take_code : ((hosting 0x2001 1 1 record).recCode 0 0 0 .u recordBytes).1 = 0 ∧
    ((hosting 0x2001 1 1).recCode 0 0 0 .u (List.replicate 192 0)).1 = 3 := by decide +kernel
theorem test_meets_take_unreadable : ({ hosting 0x2001 1 1 with tlb := [] } : State).ctxBytes 0 0 0 .u 0 192 = none := by decide +kernel

/-- The launch of that record, taken. -/
def taken : Launch := { uid := 7, rcd := LRec.ofBytes recordBytes }
theorem test_meets_place : let s := { hosting 0x2001 1 1 with launches := [(7, taken)] }
    s.qstate 0 = 1 ∧ (s.placeSwappedDrone 0 0).isNone = true ∧ s.waitingHandlers 0 0 = [] ∧ s.placeable 0 0 = [taken] ∧ s.launch 7 = taken ∧
    s.swappedOf 7 = [] ∧ taken.nextBid < taken.rcd.grid ∧ taken.rcd.det = false ∧
    s.bestCore (s.occ 0) 0 0 (s.droneShut 0 0) taken.rcd = some (0, [0]) ∧ s.imageRoom 0 taken.rcd.imageBytes = some 0 := by decide +kernel
theorem test_meets_block_end : let s := manned [{ wave with ended := true }]
    s.blockOver 3 = true ∧ (s.drone 0 0).isNone = true ∧ ((hosting 0 0 0).drone 0 0).isSome = true := by decide
theorem test_meets_complete : let s : State := { State.reset with launches := [(7, { taken with endedN := 1 })] }
    (∃ x ∈ s.launches, x.1 = 7) ∧ (s.launch 7).endedN = (s.launch 7).rcd.grid ∧ s.launchDrained 7 = true := by decide +kernel
theorem test_meets_drone_place : let s := { hosting 0 0 0 record with drones := [(0, 0)] }
    (0, 0) ∈ s.drones ∧ s.qstate 0 = 1 ∧ s.drone 0 0 = some (0, 0) ∧ s.ctxBytes 0 0 0 .s (field (s.preg 0 0 0x48) 55 0) 192 = some recordBytes ∧
    (s.recCode 0 0 0 .s recordBytes).1 = 0 ∧ (LRec.ofBytes recordBytes).grid = 1 ∧ (LRec.ofBytes recordBytes).stflg = false ∧
    (LRec.ofBytes recordBytes).cpflg = false ∧ s.droneTile 0 0 = some 0 ∧ s.fitOn (s.occ 0) 0 0 0 (LRec.ofBytes recordBytes) = some [0] ∧
    s.imageRoom 0 (LRec.ofBytes recordBytes).imageBytes = some 0 := by decide +kernel
theorem test_meets_drone_stands : (manned [wave] { blk with kind := .drone }).droneStands 0 0 = true ∧
    ({ hosting 0 0 0 with drones := [(0, 0)] } : State).droneStands 0 0 = false := by decide
theorem test_meets_detour : let s := State.reset.setReg (dieBase 0 + 0x81008) 0x8800000000000000
    let fits := fun (n : Nat) => (s.reg (dieBase 0 + 0x81000 + 8 * n)).getLsbD 63 = true
    tileAt (0, 0) = (0, 0) ∧ fits 1 ∧ ¬ fits 0 := by decide
theorem test_meets_drone_bad : let s := { hosting 0 0 0 with tlb := [], drones := [(0, 0)] }
    s.ctxBytes 0 0 0 .s 0 192 = none ∧ ((hosting 0 0 0).recCode 0 0 0 .s (List.replicate 192 0)).1 ≠ 0 ∧
    ({ s with pslots := [] } : State).drone 0 0 = none := by decide +kernel
theorem test_meets_drone_write : let s := hosting 0 0 0
    Claims.slotOpen s .mep 0 0 ∧ Claims.plain (partReg 0 0 0x18) .mep 0x8000000000000000 ∧ s.droneRegOk 0 0 0x18 0x8000000000000000 = true ∧
    Claims.plain (partReg 0 0 0x28) .mep 2 ∧ s.droneRegOk 0 0 0x28 2 = true := by
  unfold Claims.slotOpen Claims.plain; decide +kernel
theorem test_meets_slots : Claims.slotsSmall State.reset ∧ State.reset.dropStands 0x100 none 3 = true ∧ State.reset.flitArrives 0x100 = true :=
  ⟨by intro d p n h; contradiction, by decide, by decide⟩
theorem test_meets_drop_block : ((manned [wave]).block 3).waves ≠ [] ∧ ((manned [wave]).block 3).state ≠ .ended ∧
    ((manned [wave]).block 3).state ≠ .lost ∧ (jobbed .fabric).job 0 0 1 = some (jobOf (jobbed .fabric)) := by decide

/-! Partitions and hosts -/

/-- The reset state with PSTATE of partition 5 and a list of registers. -/
def parted (st : Nat) (m : List (Nat × W64) := []) : State := { State.reset with maint := (partCtl 5 0, BitVec.ofNat 64 st) :: m }

theorem test_meets_teardown : let s := { manned [wave] with tearing := [0] }
    0 ∈ s.tearing ∧ s.atomicsOpen 0 = false := by decide
theorem test_meets_splitcfg : let s := { State.reset with maint := [(tileReg 0 143, 0x0100000000000924)] }
    s.reaches .mep = true ∧ Claims.plain (splitReg 0 143) .mep 0x10101 ∧ field 0x10101 15 8 ≠ 0 ∧ field 0x10101 7 0 ≠ 0 ∧
    (0x10101 : W64).getLsbD 16 = true ∧ (∀ q < 4, ¬((0x10101 : W64).getLsbD (16 + q) = true ∧ (0x10101 : W64).getLsbD (20 + q) = true)) ∧
    (∀ q < 4, (0x10101 : W64).getLsbD (16 + q) = true ∨ (0x10101 : W64).getLsbD (20 + q) = true → s.grade 0 143 q ≠ 0) ∧ s.tileHolds 0 143 = false := by
  unfold Claims.plain; decide +kernel
theorem test_meets_semown : Claims.plain (semOwnReg 63 4095) .mep 0x8000000000000005 ∧ State.reset.semHandled 63 4095 = false := by
  unfold Claims.plain; decide +kernel
/-- At reset no tile is OWNED (R412). -/
theorem tile_desc : ∀ t < 144, field (((dieDesc 0 (0x80100 + 8 * t)).map RegDesc.reset).getD 0) 59 56 = 0 := by decide +kernel
/-- The same of the tiles of a state that lists one other register. -/
theorem tile_free (d t : Nat) (hd : d < 64) (ht : t < 144) : (parted 2).tileKind d t = 0 := by
  have e : tileReg d t = 0x10080100 + 0x100000 * d + 8 * t := by simp only [tileReg, dieBase]; omega
  have m : tileReg d t % 0x100000 = 0x80100 + 8 * t := by omega
  have q : (tileReg d t - 0x10000000) / 0x100000 = d := by omega
  have r : (parted 2).reg (tileReg d t) = regReset (tileReg d t) := by
    have n : tileReg d t ≠ partCtl 5 0 := by rw [e]; simp only [partCtl]; omega
    simp only [State.reg, parted, Tab.get_cons, if_neg n.symm]; rfl
  have h : regDesc (tileReg d t) = dieDesc d (0x80100 + 8 * t) := by
    simp only [regDesc, m, q]
    repeat rw [if_neg (by omega)]
    rw [if_pos (by omega)]
  simp only [State.tileKind, State.fld, r, regReset, h]
  exact tile_desc t ht
/-- A partition without dies is consistent. -/
theorem test_meets_consistent : (parted 2).consistent 5 = true := by
  have h : ∀ d < 64, (parted 2).tilesOf d 5 = [] := fun d hd => by
    simp only [State.tilesOf, List.filter_eq_nil_iff, List.mem_range]
    intro t ht
    simp [State.worldIn, tile_free d t hd ht]
  have n : (parted 2).diesOf 5 = [] := by decide +kernel
  simp only [State.consistent, n, Bool.and_eq_true, List.all_eq_true, List.mem_range]
  refine ⟨⟨by simp, fun d hd => by simp [h d hd]⟩, by simp⟩
theorem test_meets_run : Claims.commands (parted 2) .mep 5 1 0x100 ∧ (parted 2).qstate 5 = 2 := by
  unfold Claims.commands Claims.plain; decide +kernel
theorem test_meets_freeze : Claims.commands (parted 1) .mep 5 2 0x200 ∧ (parted 1).qstate 5 = 1 ∧ Claims.commands (parted 2) .mep 5 3 0x300 := by
  unfold Claims.commands Claims.plain; decide +kernel
theorem test_meets_drain : Claims.commands (parted 0x83) .mep 5 4 0x400 ∧ (parted 0x83).qstate 5 = 3 ∧ (parted 0x83).quiesceDone 5 = true ∧
    Claims.commands (parted 0x84) .mep 5 5 0x500 ∧ (parted 0x84).qstate 5 = 4 ∧ (parted 0x84).quiesceDone 5 = true ∧
    Claims.commands (parted 0x85) .mep 5 6 0x600 ∧ (parted 0x85).qstate 5 = 5 ∧ (parted 0x85).quiesceDone 5 = true := by
  unfold Claims.commands Claims.plain; decide +kernel
theorem test_meets_quiesce : (∀ x ∈ [3, 4, 5], (parted x).quiesceDone 5 = false ∧ (parted x).qstate 5 = x) ∧ (parted 3).blocksOf 5 = [] ∧
    (parted 4).drained 5 = true ∧ (parted 4).fab = [] ∧ (parted 5).writes = [] ∧ (parted 5).ucopies = [] ∧ (parted 5).rcache = [] := by
  decide +kernel
theorem test_meets_tile_probe : let s := { manned [wave] { blk with tile := 143 } with maint := [(tileReg 0 143, 0x0100000000000000)] }
    s.tileKind 0 143 ≠ 3 ∧ s.tileKind 0 143 ≠ 4 ∧ s.blocksAt 0 143 = [3] := by decide
theorem test_meets_tile_slots : Claims.slotsSmall { manned [wave] with maint := [(tileReg 0 143, 0x0100000000000000)] } := by intro d p n h; cases h

/-- Partition 5 bound to VF 0 of LD 0, BOUND, its trust accepted, holding context 1 and semaphore 0 of die 0. -/
def bounded : State :=
  { parted 1 [(ldReg 0 8, 0x8000000000000005), (ldReg 0 0, 0x80010000), (ctxOwnReg 1, 0x8000000000000005), (semOwnReg 0 0, 0x8000000000000005),
      (partCtl 5 8, 0x80)] with ctxWords := [(stAddr 2 1 0, 0xC000000000000000)] }

theorem test_meets_shape : Claims.vfActs bounded 5 ∧ field (bounded.vfReg 5 2) 7 0 ≠ 1 ∧ bounded.chanterHalted = false ∧
    shapeKind 1 = 1 ∧ shapeKind 4 = 4 ∧ (4 : W64) &&& BitVec.ofNat 64 (bits 63 48 + bits 39 38 + bits 31 30 + bits 23 4) = 0 := by
  unfold Claims.vfActs; decide +kernel
theorem test_meets_doorbell_waits : ({ bounded with inbound := [⟨true, 0, 9, false, 1, 0, 8, []⟩] } : State).postedWrites 5 = [⟨true, 0, 9, false, 1, 0, 8, []⟩] := by decide +kernel
theorem test_meets_doorbell : bounded.postedWrites 5 = [] ∧ bounded.bellTarget 5 0x500000000 = some 0 ∧ (bounded.sem 0).waits = [] ∧
    (bounded.sem 0).value + field 0x500000000 63 32 < 2 ^ 32 := by decide +kernel
theorem test_meets_kill : let s := { bounded with blocks := [(3, { blk with pid := 5, ctxn := 1 })], vfr := [(5 * 8 + 3, 0x100000000)] }
    s.named (s.vfReg 5 3) = some 3 ∧ (s.block 3).pid = 5 ∧ (s.block 3).state = .running ∧ (s.block 3).stopping = .no ∧
    (∀ n ∈ [0, 0x3F], field (BitVec.ofNat 64 (2 ^ 63 + n)) 62 6 = 0 ∧ (BitVec.ofNat 64 (2 ^ 63 + n)).getLsbD 63 = true ∧
      field (BitVec.ofNat 64 (2 ^ 63 + n)) 5 0 = n) ∧ 0 < (s.block 3).waves.length := by decide +kernel
theorem test_meets_peer_doorbell : Claims.peerLinked { bounded with maint := (edgeReg 23 0, 0x120000) :: bounded.maint } :=
  ⟨23, by decide, by decide⟩
theorem test_meets_reset : 5 ∉ bounded.resetting ∧ bounded.hasTdi 5 = true ∧ bounded.tdi.get 5 0 = 0 ∧
    ({ bounded with tdi := [(5, 1)] } : State).tdi.get 5 0 = 1 := by decide +kernel
theorem test_meets_reset_end : let s := { parted 3 with resetting := [5] }
    5 ∈ s.resetting ∧ s.resetReady 5 = true := by
  refine ⟨by decide, ?_⟩
  simp only [State.resetReady, Bool.and_eq_true, Bool.not_eq_true', List.any_eq_false]
  exact ⟨by decide, fun c _ => by rw [show State.atomicsOpen _ c = false from rfl]; decide⟩

/-- Group 23 ACTIVE as UALink to module 0, or as CXL for LD 15. -/
def linked (host : Bool) : State :=
  { State.reset with
    maint := [(hbmReg 0 8, 0x802), (edgeReg 23 0, if host then 0x110000 else 0x120000), (ldReg 15 0, 0x80800080000000),
      (ldReg 15 0x88, 0x8000000000000001)] }
def request (host : Bool) (op : Nat) (data : List Byte) : Inbound := ⟨host, if host then 15 else 0, 9, false, op, 0, 8, data⟩

theorem test_meets_inbound : (linked false).arrives (request false 0 []) = true ∧ (linked false).replay = [] ∧ isHbm (0 + 8 - 1) = true ∧
    (linked false).ucopies = [] ∧ (linked false).bells = [] ∧ (linked false).stackOn (0 / 2 ^ 27 / 384) = true ∧ (linked false).engHeld 0 8 = false ∧ (linked false).badRange 0 8 = false ∧ (request false 1 [1, 2, 3, 4, 5, 6, 7, 8]).data.length = 8 ∧
    (∀ n < 16, 0 % atomWidth n = 0 ∧ (linked false).badRange 0 (atomWidth n) = false) := by decide +kernel
theorem test_meets_inbound_lines (h : Bool) (pa n : Nat) : Claims.noLine (linked h) pa n := clear_empty _ rfl _ _
theorem test_meets_inbound_off : let r : Inbound := { request false 1 [1, 2, 3, 4, 5, 6, 7, 8] with pa := 31 * 384 * 2 ^ 27 }
    (linked false).arrives r = true ∧ isHbm (r.pa + r.len - 1) = true ∧ (linked false).stackOn (r.pa / 2 ^ 27 / 384) = false ∧
    (linked false).engHeld r.pa r.len = false := by decide +kernel
theorem test_meets_inbound_done : (linked true).arrives (request true 18 []) = true := by decide +kernel
theorem test_meets_inbound_locked : ({ linked false with locks := [⟨0, 0, 0, 0x20000⟩] } : State).engHeld 0 8 = true := by decide +kernel
theorem test_meets_inbound_host : (linked true).arrives (request true 0 []) = true ∧ (linked true).hostMay (request true 0 []) = true := by decide +kernel
theorem test_meets_inbound_again : let r := request false 0 []
    ([(inboundSource r, r.seq, [0])] : List (Nat × Nat × List Byte)).find? (fun e => e.1 == inboundSource r && e.2.1 == r.seq) =
      some (256, 9, [0]) := by decide

/-! Trust, SPDM, maintenance and the plant -/

/-- The reset state with a list of registers. -/
def boarded (m : List (Nat × W64)) : State := { State.reset with maint := m }

theorem test_meets_feature : Claims.plain 0x218 .mep 0 ∧ Claims.plain 0x210 .mep 1 ∧ State.reset.featWritten = false ∧
    (1 : W64) &&& ~~~ State.reset.reg 0x200 = 0 ∧ State.reset.reaches .mep = true ∧ (boarded [(ldReg 0 0, 0x80000000)]).reaches .ld0 = true := by
  unfold Claims.plain; decide +kernel
theorem test_meets_key : let v : W64 := 0x4FF00FFF
    Claims.plain 0x100000 .mep v ∧ field v 31 30 = 1 ∧ field v 11 0 = 4095 ∧ (State.reset.keys.get 4095 none).map KeyRec.pid = none ∧
    Claims.plain 0x100000 .mep 0x8FF00FFF ∧ field (0x8FF00FFF : W64) 31 30 = 2 ∧ field (0x8FF00FFF : W64) 27 20 = 255 ∧
    (({ State.reset with keys := [(4095, some ⟨255, 1⟩)] } : State).keys.get 4095 none).map KeyRec.pid = some 255 ∧ State.reset.qstate 255 = 0 := by
  unfold Claims.plain; decide +kernel
theorem test_meets_security : Claims.plain 0x40000 .mep 0x301 ∧ Claims.plain 0x40000 .mep 2 ∧ State.reset.fld 0x40008 1 0 ≠ 1 ∧
    (boarded [(0x40008, 1)]).fld 0x40008 1 0 = 1 ∧ ({ State.reset with secOp := 1 } : State).secOp % 16 = 1 := by unfold Claims.plain; decide +kernel
theorem test_meets_lock : Claims.plain 0x300A8 .mep 1 ∧ State.reset.xipLock = false := by unfold Claims.plain; decide +kernel
theorem test_meets_loader : let s := boarded [(0x10048, 0x30000000), (0x20000, 1), (0x300A8, 3)]
    Claims.plain 0x40020 .mep 1 ∧ (s.reg 0x40020).getLsbD 0 = false ∧ s.running = true ∧ s.curFreq ≠ 0 ∧ s.xipLock = true ∧
    Claims.plain 0x40028 .mep 0x80 ∧ (0x80 : W64) = BitVec.ofNat 64 (2 ^ 7) ∧ s.verified = true ∧ s.rimRuns 7 = false := by
  unfold Claims.plain; decide +kernel
theorem test_meets_register : Claims.plain (ctxOwnReg 4095) .mep 0x80000000000000FF ∧ State.reset.ctxEnabled 4095 = false ∧ regDesc 8 = none := by
  unfold Claims.plain; decide +kernel

/-- The responder of LD 0 after the three first messages, with a chain of two bytes in slot 1. -/
def spdm : State := { boarded [(0x300A8, 2), (ldReg 0 0, 0x80000000), (0x40028, 1)] with spdmVersion := [(0, 3)], certs := [(1, [1, 2])] }

/-- A message of a code and its two parameters. -/
def message (p1 p2 n : Nat) : List Byte := [0x12, 0, BitVec.ofNat 8 p1, BitVec.ofNat 8 p2] ++ List.replicate n 0

theorem test_meets_spdm : spdm.spdmOn 0 = true ∧ spdm.spdmStage 0 = 3 ∧ 1 ∈ spdm.slotsHeld ∧ msgByte (message 1 0 4) 2 % 16 = 1 ∧
    msgHalf (message 1 0 4) 4 < (spdm.certSlot 1).length ∧ spdm.certBusy 7 = false ∧ (message 1 0 16384).length ≤ 4 + 16384 ∧
    36 ≤ (message 1 0 32).length := by decide +kernel
theorem test_meets_measurements : (spdm.measBlocks (spdm.vfNamed 0 none) 0) = some (0, []) ∧ msgByte (message 1 0 33) 2 % 2 = 1 ∧
    37 ≤ (message 1 0 33).length ∧ msgByte (message 1 0 33) 36 % 16 ∈ spdm.slotsHeld := by decide +kernel
theorem test_meets_measurement : (spdm.measBlocks none 4).isSome = true := by
  simp only [State.measBlocks]; rw [if_neg (by decide), if_neg (by decide), if_pos (by decide)]; rfl
theorem test_meets_certificate_parts : moreParts (message 1 1 0) = true ∧ moreParts (message 1 0 2) = false ∧ (1 ≤ msgByte (message 1 1 0) 2 % 16) ∧
    (spdm.certParts.get 1 [] ++ (message 1 0 2).drop 4).length = 2 := by decide +kernel
theorem test_meets_nonce : (List.replicate 48 (0 : Byte)).length = 48 ∧ ({ (boarded [(0x40008, 1)]) with secOp := 0x31 } : State).secOp % 16 = 1 ∧
    ({ (boarded [(0x40008, 1)]) with secOp := 2 } : State).secOp % 16 ≠ 1 := by decide +kernel
theorem test_meets_bar_write : regDesc 8 = none ∧ 8 < 2 ^ 29 ∧ 8 % 8 = 0 ∧ 12 % 8 = 4 ∧ 13 % 8 ≠ 0 ∧ 2 ^ 29 ≤ 2 ^ 32 - 8 := by decide
theorem test_meets_bar : 0x1FFFFFF8 < 2 ^ 29 ∧ 0x1FFFFFFC % 4 = 0 := by decide

/-- A frame of the maintenance port: its bytes from CMD and their CRC. -/
def frame (b : List Byte) : List Byte := 0xA5 :: b ++ leBytes (crc16 b).toNat 2

theorem test_meets_frames : let read := frame ([1, 7, 15] ++ List.replicate 8 0)
    let write := frame ([2, 7, 0, 8, 0xF, 0, 0, 0, 0, 0, 0] ++ List.replicate 8 0)
    let reset := frame ([15, 7, 0] ++ List.replicate 8 0)
    mepStatus read = 0 ∧ mepCmd read = 1 ∧ mepStatus write = 0 ∧ mepCmd write = 2 ∧ mepWords write = 1 ∧ mepStatus reset = 0 ∧ mepCmd reset = 15 ∧
    read.head? = some 0xA5 ∧ State.reset.fuses = [] := by decide +kernel
theorem test_meets_frame_job : let f := frame ([1, 7, 1, 8, 0xF] ++ List.replicate 6 0)
    f.head? = some 0xA5 ∧ mepCmd f = 1 ∧ mepWords f = 2 ∧
    ({ State.reset with mepJob := some { frame := f, done := 1, data := List.replicate 8 0 } } : State).mepJob =
      some { frame := f, done := 1, data := List.replicate 8 0 } := by decide +kernel
theorem test_meets_bad_frames : mepStatus (frame ([1, 7, 0, 4] ++ List.replicate 7 0)) = 3 ∧ mepStatus (frame ([9, 7, 0] ++ List.replicate 8 0)) = 2 ∧
    mepStatus [0xA5, 2] = 1 ∧ mepCmd (frame ([9, 7, 0] ++ List.replicate 8 0)) = 9 := by decide +kernel
theorem test_meets_reserved : (lanesOf (issue wave).cur.lanes).head? = some 0 ∧ (issue wave).cur.chained = false ∧ (issue wave).wv.skidding = false ∧
    (issue wave).bk.stopping = .no := by decide

/-- Edge group 23 trained to rate 5, in a state of a personality. -/
def edge (st pers : Nat) (m : List (Nat × W64) := []) : State :=
  boarded ((edgeReg 23 0, BitVec.ofNat 64 (st * 2 ^ 20 + pers * 2 ^ 16)) :: (edgeReg 23 0x10, 5) :: m)

theorem test_meets_edge_request : ∀ n < 4, writeOk (edgeReg 23 0) (BitVec.ofNat 64 (4096 * n)) = true ∧
    writesRo (edgeReg 23 0) .mep (BitVec.ofNat 64 (4096 * n)) = false ∧ field (BitVec.ofNat 64 (4096 * n)) 15 12 = n ∧ (edge 0 0).egMay 23 n = true ∧
    (edge 0 0).egBusy 23 = false := by decide +kernel
theorem test_meets_edge_busy : let s := edge 1 1 [(ldReg 0 8, 0x8000000000000005), (ldReg 0 0, 0x80000080010000), (partCtl 5 0, 1)]
    s.egMay 23 2 = true ∧ s.egBusy 23 = true := by decide +kernel
theorem test_meets_edge_steps : (edge 2 1).egState 23 = 2 ∧ (edge 2 1).groupIdle 23 = true ∧ (edge 4 2).egState 23 = 4 ∧
    5 ≤ (edge 4 2).fld (edgeReg 23 0x10) 7 0 ∧ 5 ≤ (if (edge 4 2).egPers 23 = 1 then 32 else 106) ∧
    0xFFFF < 2 ^ (if ((edge 4 2).reg (edgeReg 23 0x10)).getLsbD 16 = true then 8 else 16) ∧ (edge 5 2).egState 23 = 5 ∧ (edge 5 2).egPers 23 ≠ 1 ∧ (edge 1 2).egState 23 = 1 := by decide +kernel

/-- HBM stack 31 in a state, after its last operation. -/
def stacked (st last : Nat) : State := boarded [(hbmReg 31 8, BitVec.ofNat 64 (st + last * 2 ^ 8))]

theorem test_meets_hbm : (∀ n < 9, n ≠ 0 → writeOk (hbmReg 31 0) (BitVec.ofNat 64 (16 * n)) = true ∧
      writesRo (hbmReg 31 0) .mep (BitVec.ofNat 64 (16 * n)) = false ∧ field (BitVec.ofNat 64 (16 * n)) 7 4 = n) ∧
    State.reset.fld (hbmReg 31 8) 1 0 = 0 ∧ State.reset.fld (hbmReg 31 8) 15 8 = 0 ∧ (stacked 2 7).fld (hbmReg 31 8) 1 0 = 2 ∧
    (stacked 2 7).fld (hbmReg 31 8) 15 8 = 7 ∧ (stacked 3 4).fld (hbmReg 31 8) 1 0 = 3 ∧ (stacked 3 4).hbmFails.get 31 0 < 2 ∧
    (stacked 1 7).fld (hbmReg 31 8) 1 0 = 1 := by decide +kernel
theorem test_meets_scrub_array : let s := { manned [wave] with rcache := [{ quarter := 0, uid := 3, wid := 0, reg := 47 }] }
    (s.block 3).standing = true ∧ 191 < (s.block 3).spmb ∧ (s.block 3).spmBad 191 1 = false ∧ 0 < (s.block 3).waves.length ∧
    s.lineCached 3 0 47 = true ∧ maskOf (fun K => K / 2 == 47 / 2) &&& ~~~ (s.wave 3 0).empty.get 47 0 ≠ 0 := by decide +kernel
theorem test_meets_scrub : let s := boarded [(hbmReg 31 8, 0x802)]
    isHbm (31 * 384 * 2 ^ 27) = true ∧ s.stackOn (31 * 384 * 2 ^ 27 / 2 ^ 27 / 384) = true ∧ s.marks = [] := by decide +kernel

/-- Rails 0 and 1 enabled and good, the clock at 48, time running. -/
def powered : State := boarded [(0x10000, 0x800102EE), (0x10008, 0x80010226), (0x10048, 0x30000000), (0x20000, 1)]

theorem test_meets_bist : Claims.plain 0x50000 .mep 1 ∧ powered.fld 0x50000 2 0 = 0 ∧ powered.railGood 0 = true ∧ powered.railGood 1 = true ∧
    powered.curFreq ≠ 0 ∧ powered.running = true ∧ (boarded [(0x50000, 2)]).fld 0x50000 1 1 = 1 := by unfold Claims.plain; decide +kernel
theorem test_meets_time : Claims.plain 0x20000 .mep 1 ∧ Claims.plain 0x10040 .mep 0x3000000000000000 := by unfold Claims.plain; decide +kernel
theorem test_meets_clock : let s := powered.setReg 0x10048 0x30200000
    s.pendFreq ≠ 0 ∧ s.freqAt ≤ s.time := by decide +kernel
theorem test_meets_rail : Claims.plain (railReg 0) .mep 0x102EE ∧ State.reset.railOk 0 0x102EE = true ∧ powered.railEn 0 = true ∧
    765 * 100 ≤ powered.railTarget 0 * 102 ∧ powered.railTarget 0 * 98 ≤ 735 * 100 := by unfold Claims.plain; decide +kernel
theorem test_meets_rail_bad : powered.railEn 0 = true ∧ ¬ (powered.railTarget 0 * 98 ≤ 734 * 100) ∧ State.reset.railEn 0 = false := by decide +kernel
theorem test_meets_over : (∀ d < 64, (powered.setReg 0x10050 0x63).fld (0x10100 + 8 * d) 11 0 < 800) ∧
    (powered.setReg 0x10050 0x63).fld 0x10050 15 0 < 100 % 2 ^ 16 ∧ (powered.setReg 0x10050 0x63).pendFreq = 0 ∧ 880 < 2 ^ 12 := by decide +kernel
theorem test_meets_limiter : (∀ d < 64, powered.fld (0x10100 + 8 * d) 11 0 < 800) ∧ powered.fld 0x10050 15 0 < 300 ∧ 100 ≤ powered.fld 0x10050 15 0 ∧
    powered.pendFreq = 0 := by decide +kernel
end Sys2Proof.Tests
end

section
/-! The hard-wired registers s0, p7 and k0 (R55): what a discarded write leaves, and what its instruction still does. -/

namespace Sys2Proof.Machine

open Sys2Proof

/-! ### A discarded write leaves the wave as it was -/

@[simp] theorem Wave.setS_s0 (w : Wave) (x : W64) : w.setS 0 x = w := if_pos rfl

@[simp] theorem Wave.setPred_p7 (w : Wave) (m x : Lanes) : w.setPred 7 m x = w := if_pos rfl

@[simp] theorem Wave.setMask_k0 (w : Wave) (x : Lanes) : w.setMask 0 x = w := if_pos rfl

/-! ### What the instruction still does -/

theorem Wave.setCodes_eq (w : Wave) (a b : W64) :
    w.setCodes a b = { w with
      z := decide (a = b), n := (a - b).msb, c := decide (b.toNat ≤ a.toNat)
      ovf := decide (a.toInt - b.toInt < -(2 ^ 63) ∨ 2 ^ 63 ≤ a.toInt - b.toInt) } := by
  have hz : (a - b == 0) = decide (a = b) := by
    rw [Bool.eq_iff_iff, beq_iff_eq, decide_eq_true_eq]
    exact BitVec.sub_eq_iff_eq_add.trans (by simp)
  rw [Wave.setCodes, hz]

/-- `cmp` and `cmpi` write the difference and the condition codes (R60), for every destination. -/
theorem compareOp_written (s : State) (d : BitVec 6) (a b : W64) (hl : s.cur.lanes = s.pre.live) :
    compareOp s d a b = Claims.compared s d a b := by
  unfold compareOp
  rw [waveLevel_performs s _ hl rfl, Wave.setCodes_eq]
  unfold Claims.compared State.scalarWritten Wave.setS
  split <;> rfl

/-- A compare to p7 only counts its threads. -/
theorem State.predWritten_p7 (s : State) (m x : Lanes) (n : Nat) : s.predWritten m 7 x n = s.retired s.wv n := by
  rw [State.predWritten, if_pos rfl]
  rfl

/-- A compare to s0 writes the condition codes and counts, and leaves every scalar register. -/
theorem compared_s0 (s : State) (a b : W64) :
    Claims.compared s 0 a b = { s with wv := { s.wv with
      z := decide (a = b), n := (a - b).msb, c := decide (b.toNat ≤ a.toNat)
      ovf := decide (a.toInt - b.toInt < -(2 ^ 63) ∨ 2 ^ 63 ≤ a.toInt - b.toInt)
      wclk := s.clockAfter (countLanes s.pre.live) } } := by
  rw [Claims.compared, State.scalarWritten, if_pos rfl]

/-- A mask operation to k0 writes KZ and counts, and leaves every mask. -/
theorem State.maskWritten_k0 (s : State) (x : Lanes) :
    s.maskWritten 0 x = { s with wv := { s.wv with
      kz := x == 0, wclk := s.clockAfter (countLanes s.pre.live) } } := by
  rw [State.maskWritten, if_pos rfl]

/-! ### The meanings of the three instructions -/

theorem exec_cmp (h : Hdr) (d a b : BitVec 6) (s : State) :
    exec (.cmp h d a b) s = .next (compareOp s d (s.pre.sreg a) (s.pre.sreg b)) := rfl

theorem exec_kand (h : Hdr) (d a b : BitVec 3) (s : State) :
    exec (.kand h d a b) s = .next (maskOp s d (s.pre.kmask a &&& s.pre.kmask b)) := rfl

theorem exec_cmpeqI32 (h : Hdr) (d : BitVec 3) (a b : BitVec 6) (x y : Bool) (s : State) :
    exec (.cmpeqI32 h d a b x y) s = .next (cmpOp h d a b x y (fun a b => a == b) s) := rfl

/-- Settles O24 (R55): each setter discards the write, and the operation of each class, known for every destination,
is taken at its hard-wired one. -/
theorem hardwiredWritesDiscarded : Obligations.HardwiredWritesDiscarded := by
  refine ⟨Wave.setS_s0, Wave.setPred_p7, Wave.setMask_k0, ?cmp, ?kand, ?cmpeq⟩
  case cmp =>
    intro h a b s hl
    rw [exec_cmp, compareOp_written s 0 _ _ hl, compared_s0]
  case kand =>
    intro h a b s hl
    rw [exec_kand, maskOp_written s 0 _ hl, State.maskWritten_k0]
  case cmpeq =>
    intro h a b x y s hr
    rw [exec_cmpeqI32, cmpOp, vecCmp_written h s 7 _ _ hr, State.predWritten_p7]

end Sys2Proof.Machine
end

section
/-! Absent lanes of a reduction or scan (R106): the leaves hold members' values only, an absent child changes nothing, and where at most
one value stands a level of the tree passes it on. -/

namespace Sys2Proof.Machine

open Sys2Proof

/-! ### A node with an absent child -/

@[simp] theorem treeNode_none_left (f : W32 → W32 → W32) (b : Option W32) : treeNode f none b = b := rfl

@[simp] theorem treeNode_none_right (f : W32 → W32 → W32) (a : Option W32) : treeNode f a none = a := by
  cases a <;> rfl

/-! ### Only members' values reach the leaves -/

theorem treeLeaves_congr {m : Lanes} {v u : Nat → W32} (h : ∀ L, laneIn m L = true → v L = u L) :
    treeLeaves m v = treeLeaves m u := by
  refine List.map_congr_left fun L _ => ?_
  split
  case isTrue hL => rw [h L hL]
  case isFalse => rfl

theorem treeRoot_congr (f : W32 → W32 → W32) {m : Lanes} {v u : Nat → W32} (h : ∀ L, laneIn m L = true → v L = u L) :
    treeRoot f m v = treeRoot f m u := by
  rw [treeRoot, treeLeaves_congr h, treeRoot]

theorem scanAt_congr (f : W32 → W32 → W32) {m : Lanes} {v u : Nat → W32} (h : ∀ L, laneIn m L = true → v L = u L) (L : Nat) :
    scanAt f m v L = scanAt f m u L := by
  rw [scanAt, treeLeaves_congr h, scanAt]

/-! ### The values that stand among the nodes of a level, in lane order: `filterMap id` -/

theorem treeLeaves_present (m : Lanes) (v : Nat → W32) : (treeLeaves m v).filterMap id = (lanesOf m).map v := by
  rw [treeLeaves, List.filterMap_map, lanesOf, ← List.filterMap_eq_map, List.filterMap_filter]
  rfl

/-- No two values meet at a node, so every node is the one value below it or absent. -/
theorem treeLevel_present (f : W32 → W32 → W32) : ∀ l : List (Option W32), (l.filterMap id).length ≤ 1 →
    (treeLevel f l).filterMap id = l.filterMap id
  | [], _ | [_], _ => rfl
  | none :: none :: r, h => treeLevel_present f r h
  | none :: some q :: r, h | some q :: none :: r, h =>
    congrArg (q :: ·) (treeLevel_present f r (Nat.le_of_succ_le h))
  | some _ :: some _ :: _, h => absurd (Nat.le_of_succ_le_succ h) (Nat.not_succ_le_zero _)

theorem treeLevels_present (f : W32 → W32 → W32) (l : List (Option W32)) (h : (l.filterMap id).length ≤ 1) (n : Nat) :
    (treeLevels f l n).filterMap id = l.filterMap id := by
  induction n with
  | zero => rfl
  | succ n ih => rw [treeLevels, treeLevel_present f _ (ih ▸ h), ih]

/-- A combination from the left skips the absent nodes. -/
theorem foldl_treeNode_present (f : W32 → W32 → W32) (l : List (Option W32)) (acc : Option W32) :
    l.foldl (treeNode f) acc = (l.filterMap id).foldl (fun a x => treeNode f a (some x)) acc := by
  induction l generalizing acc with
  | nil => rfl
  | cons b r ih => cases b <;> simp [ih]

theorem treeRoot_of_lanesOf_singleton (f : W32 → W32 → W32) {m : Lanes} {L : Nat} (h : lanesOf m = [L]) (v : Nat → W32) :
    treeRoot f m v = v L := by
  have hleaves : (treeLeaves m v).filterMap id = [v L] := by rw [treeLeaves_present, h, List.map_singleton]
  have hlevel : (treeLevels f (treeLeaves m v) 4).filterMap id = [v L] := by
    rw [treeLevels_present f _ (Nat.le_of_eq (congrArg List.length hleaves)), hleaves]
  rw [treeRoot, foldl_treeNode_present, hlevel]
  rfl

/-- Settles O25 (R106): leaves that agree on the members agree everywhere, and one value alone passes every level unchanged. -/
theorem absentLanesAreNeverRead : Obligations.AbsentLanesAreNeverRead := fun f =>
  ⟨fun _ => ⟨treeNode_none_right f _, treeNode_none_left f _, treeNode_none_left f none⟩,
    fun _ _ _ h => ⟨treeRoot_congr f h, scanAt_congr f h⟩,
    fun v L hL => treeRoot_of_lanesOf_singleton f (lanesOf_single L hL) v⟩

end Sys2Proof.Machine
end
